-- ==== Sys2Proof/Word.lean ====
section
/-! DEFINITION. The words of the QH9 and the sparse table type every large store is held in.
Multi-byte data is little-endian (R8); bit 0 is the least significant bit (R9). -/

namespace Sys2Proof

/-- One byte. -/
abbrev Byte := BitVec 8

/-- A 64-bit scalar register, counter or device register. -/
abbrev Word := BitVec 64

/-- A sparse table: keys strictly rising, and no entry equal to what an unlisted key reads as.
What an unlisted key reads as is given beside each table (`Machine/Map.lean`). -/
abbrev Table (α : Type) := List (Nat × α)

/-- Bytes of a little-endian number, least significant first (R8). -/
def leBytes : Nat → Nat → List Byte
  | 0, _ => []
  | k + 1, x => BitVec.ofNat 8 x :: leBytes k (x / 256)

/-- The number whose little-endian bytes these are (R8). -/
def leNat : List Byte → Nat
  | [] => 0
  | b :: bs => b.toNat + 256 * leNat bs

end Sys2Proof
end

