-- ==== Sys2Proof/Syntax.lean ====
section
/-! DEFINITION. The steps of the QH9 (spec/opcode_table.json): one constructor of `Instr` per row.
A croft instruction carries the execution context that issues it (R324) and the fields of its 128-bit word (R45), the reserved
bits among them. A device event carries the unit it happens at and what the unit observes. -/

namespace Sys2Proof

/-- An execution context: a physical croft (R4) and one of its two execution slots (R324, R328). -/
structure CtxId where
  p : Fin 512
  e : Fin 2
deriving DecidableEq, Repr

/-- Class 0x08, R56. SD, SA, SB, IMM; `rsv` holds the bits R56 does not name. -/
structure ScalarF where
  sd  : BitVec 5
  sa  : BitVec 5
  sb  : BitVec 5
  imm : BitVec 64
  rsv : BitVec 35
deriving DecidableEq, Repr

/-- Class 0x09, R56. -/
structure BranchF where
  sa     : BitVec 5
  sb     : BitVec 5
  offset : BitVec 32
  rsv    : BitVec 74
deriving DecidableEq, Repr

/-- Class 0x10, R201, without DOP and AOP, which the row names. -/
structure DmaF where
  aop    : BitVec 4
  atype  : BitVec 3
  fetch  : Bool
  ladr   : BitVec 16
  sr     : BitVec 5
  lenm1  : BitVec 22
  flag   : BitVec 6
  flagen : Bool
  rsv    : BitVec 58
deriving DecidableEq, Repr

/-- Class 0x18, R264, without FOP. -/
structure FlagF where
  any  : Bool
  wclr : Bool
  mask : BitVec 64
  rsv  : BitVec 52
deriving DecidableEq, Repr

/-- Class 0x19 other than COLL, R272, without BOP. -/
structure BellF where
  vil : BitVec 2
  num : BitVec 12
  cnt : BitVec 16
  rsv : BitVec 87
deriving DecidableEq, Repr

/-- The COLL instruction, R273, without COP. -/
structure CollF where
  rtype  : BitVec 2
  sadr   : BitVec 16
  dadr   : BitVec 16
  rowsm1 : BitVec 12
  cbw    : BitVec 14
  sr     : BitVec 5
  flag   : BitVec 6
  flagen : Bool
  rsv    : BitVec 44
deriving DecidableEq, Repr

/-- The MMA instruction, R46, without MODE. -/
structure MmaF where
  afmt   : BitVec 4
  wfmt   : BitVec 4
  sparse : BitVec 2
  blk    : Bool
  zsoff  : Bool
  acc    : BitVec 2
  mt     : BitVec 9
  nt     : BitVec 9
  kt     : BitVec 9
  aadr   : BitVec 16
  wadr   : BitVec 16
  cadr   : BitVec 16
  badr   : BitVec 16
  flag   : BitVec 6
  flagen : Bool
  hold   : Bool
  rsv    : BitVec 5
deriving DecidableEq, Repr

/-- The VEC instruction, R53, without VOP. -/
structure VecF where
  sfmt   : BitVec 4
  dfmt   : BitVec 4
  xadr   : BitVec 16
  yadr   : BitVec 16
  zadr   : BitVec 16
  len    : BitVec 16
  flag   : BitVec 6
  flagen : Bool
  rsv    : BitVec 35
deriving DecidableEq, Repr

/-- The GLEAN instruction, R127, without POOL. -/
structure GleanF where
  tid    : BitVec 8
  shard  : BitVec 9
  ladr   : BitVec 16
  lcnt   : BitVec 16
  wen    : Bool
  dsel   : Bool
  dadr   : BitVec 16
  sr     : BitVec 5
  flag   : BitVec 6
  flagen : Bool
  rsv    : BitVec 39
deriving DecidableEq, Repr

/-- The SIEVE instruction, R100, without SOP. -/
structure SieveF where
  thren  : Bool
  lenen  : Bool
  topk   : BitVec 13
  kadr   : BitVec 16
  kcnt   : BitVec 16
  padr   : BitVec 16
  plen   : BitVec 7
  dadr   : BitVec 16
  dcap   : BitVec 16
  sr     : BitVec 5
  flag   : BitVec 6
  flagen : Bool
  rsv    : BitVec 4
deriving DecidableEq, Repr

/-- Who makes an access: the SOURCE codes of R389. -/
inductive Src where
  | croft | gleaner | host | peer | sweeper | rmw | reeve | sieve | square | rowCopy
deriving DecidableEq, Repr

/-- The four regulators of a partition, R213 and R214. -/
inductive Regulator where
  | sqc | d2d | cxl | gact
deriving DecidableEq, Repr

/-- The immediate atomic operations, the AOP codes of R201. -/
inductive AtomOp where
  | add | min | max | cas | swap | and | or | xor
deriving DecidableEq, Repr

/-- Element types of atomics, the ATYPE codes of R201. -/
inductive AtomTy where
  | fp32 | fp16 | bf16 | int32 | int64
deriving DecidableEq, Repr

/-- Where a firmware command comes from, R398. -/
inductive FwSource where
  | mailbox | i3c
deriving DecidableEq, Repr

/-- A unit's fault, as the defect maps and the stages of bring-up name it (R397, R401 to R403). A lane repeats for each one lost. -/
inductive UnitFault where
  | croft (p : Fin 512)
  | lane (p : Fin 512) (lane : Fin 64)
  | gleaner (p : Fin 512) (layer : Fin 12) (u : Fin 4)
  | chain (p : Fin 512) (layer : Fin 12) (u : Fin 4)
  | link (p : Fin 512) (u : Fin 4) (link : Fin 320)
  | cmdLink (p : Fin 512) (u : Fin 4) (link : Fin 16) (via : Fin 2)
  | clock (p : Fin 512) (u : Fin 4)
  | subch (p : Fin 512) (u : Fin 4)
  | sliceCtl (p : Fin 512)
  | village (v : Fin 4)
  | portLane (v : Fin 4) (dir : Fin 2) (group : Fin 16)
  | bellLane (v : Fin 4) (dir : Fin 2)
  | reeve (r : Fin 16)
  | sieve (v : Fin 4)
  | squareCache
  | crossbar
  | hostPort
  | criticalStore
deriving DecidableEq, Repr

/-- One sensor, numbered as R431 places it: a croft's diode or ring oscillator, a quadrant diode of a layer tile
(tile 48·v + 12·h + L as in R519), or a square diode. -/
inductive SensorId where
  | diode (p : Fin 512)
  | ringOsc (p : Fin 512)
  | tile (t : Fin 192) (q : Fin 4)
  | square (i : Fin 8)
deriving DecidableEq, Repr

/-- The powers measured at one moment, every 10 µs, in mW (R443): the module's input, and the rails of the four village stacks and of the
square. -/
structure PowerIn where
  module : Nat
  v0     : Nat
  v1     : Nat
  v2     : Nat
  v3     : Nat
  square : Nat
deriving DecidableEq, Repr

/-- What the sensors and rails return at one sample (R431, R433, R443): temperatures in 0.125 K, powers in mW, those of the rails for each
10 µs since the sample before, oldest first, flow in mL/min. -/
structure ThermIn where
  temps  : List (SensorId × Int)
  pc     : List (Fin 512 × Nat)
  powers : List PowerIn
  tin    : Int
  tout   : Int
  flow   : Nat
deriving DecidableEq, Repr

/-- What a write sends to the layers: its bytes, and the bits inverted on the links, by granule (64 B of the slice) and data link
(R230). -/
structure Sent where
  bytes : List Byte
  flips : List (Nat × Fin 320)
deriving DecidableEq, Repr

/-- How the read of a ring entry in host memory ends (R474): with data, with an unsupported-request or completer-abort status, or with no
answer within 50 ms. -/
inductive RingAnswer where
  | data | refused | silent
deriving DecidableEq, Repr

/-- One 64 B entry of a submission ring as the reeve reads it: its bytes, and whether the data came poisoned (R312, R523), or how else its
read ended. -/
structure RingEntry where
  bits   : BitVec 512
  poison : Bool
  answer : RingAnswer := .data
deriving DecidableEq, Repr

/-- What the ROM stage ends with (R394, R401, R492): the SLOT_ID contacts it read, and the faults it found. -/
structure RomOut where
  slotId : BitVec 3
  faults : List UnitFault
deriving DecidableEq, Repr

/-- A write on the link to a register: its data, and its size in bytes (R511). -/
structure RegData where
  bits : BitVec 64
  size : Nat := 8
deriving DecidableEq, Repr

/-- A command of the primary mailbox (R512): its opcode, and its 64 B input payload. -/
structure MailIn where
  opcode : BitVec 16
  pkt    : BitVec 512
deriving DecidableEq, Repr

/-- One lane's eye as a spare lane that shadows it measures it (R253): its width in 1/100 UI and its centre in 1/64 UI. -/
structure LaneEye where
  lane   : Nat
  width  : Nat
  centre : Int
deriving DecidableEq, Repr

/-- A recentring pass of a lane group (R253): the eyes it measured, and the idle frames it had to insert. -/
structure LanePass where
  eyes : List LaneEye
  idle : Nat
deriving DecidableEq, Repr

/-- The steps of the machine: one constructor per row of spec/opcode_table.json, in the table's order. -/
inductive Instr where
  /-- R45: class 0x00. The whole word is given, so that a word of a reserved class or encoding stops with its cause. -/
  | nop (c : CtxId) (w : BitVec 128)
  /-- R45: class 0x01. -/
  | endStream (c : CtxId) (rsv : BitVec 120)
  | scalarAdd (c : CtxId) (f : ScalarF)
  | scalarSub (c : CtxId) (f : ScalarF)
  | scalarAnd (c : CtxId) (f : ScalarF)
  | scalarOr (c : CtxId) (f : ScalarF)
  | scalarXor (c : CtxId) (f : ScalarF)
  | shl (c : CtxId) (f : ScalarF)
  | shr (c : CtxId) (f : ScalarF)
  | scalarMul (c : CtxId) (f : ScalarF)
  | loadImmediate (c : CtxId) (f : ScalarF)
  | movFromSpecial (c : CtxId) (f : ScalarF)
  | branchAlways (c : CtxId) (f : BranchF)
  | branchEqual (c : CtxId) (f : BranchF)
  | branchNotEqual (c : CtxId) (f : BranchF)
  | branchLess (c : CtxId) (f : BranchF)
  | branchGreaterEqual (c : CtxId) (f : BranchF)
  | decrementAndBranch (c : CtxId) (f : BranchF)
  | dmaRead (c : CtxId) (f : DmaF)
  | dmaWrite (c : CtxId) (f : DmaF)
  | atomicAdd (c : CtxId) (f : DmaF)
  | atomicMin (c : CtxId) (f : DmaF)
  | atomicMax (c : CtxId) (f : DmaF)
  | cas (c : CtxId) (f : DmaF)
  | swap (c : CtxId) (f : DmaF)
  | atomicAnd (c : CtxId) (f : DmaF)
  | atomicOr (c : CtxId) (f : DmaF)
  | atomicXor (c : CtxId) (f : DmaF)
  | setFlags (c : CtxId) (f : FlagF)
  | clearFlags (c : CtxId) (f : FlagF)
  | fwait (c : CtxId) (f : FlagF)
  | bar (c : CtxId) (f : BellF)
  | ring (c : CtxId) (f : BellF)
  | bwait (c : CtxId) (f : BellF)
  | ssig (c : CtxId) (f : BellF)
  | swait (c : CtxId) (f : BellF)
  | allgather (c : CtxId) (f : CollF)
  | allreduce (c : CtxId) (f : CollF)
  | mmaW (c : CtxId) (f : MmaF)
  | mmaA (c : CtxId) (f : MmaF)
  | mmaO (c : CtxId) (f : MmaF)
  | vecAdd (c : CtxId) (f : VecF)
  | vecMul (c : CtxId) (f : VecF)
  | fma (c : CtxId) (f : VecF)
  | vecMax (c : CtxId) (f : VecF)
  | vecMin (c : CtxId) (f : VecF)
  | relu (c : CtxId) (f : VecF)
  | cvt (c : CtxId) (f : VecF)
  | scale (c : CtxId) (f : VecF)
  | rsum (c : CtxId) (f : VecF)
  | rmax (c : CtxId) (f : VecF)
  | exp (c : CtxId) (f : VecF)
  | rcp (c : CtxId) (f : VecF)
  | gleanSum (c : CtxId) (f : GleanF)
  | gleanMean (c : CtxId) (f : GleanF)
  | gleanGather (c : CtxId) (f : GleanF)
  | sieveSelect (c : CtxId) (f : SieveF)
  | sieveRoute (c : CtxId) (f : SieveF)
  /-- R51: the instruction the context holds issues. -/
  | interlockIssue (c : CtxId)
  /-- R34, R36: the croft's next stationary load begins and fills its bank. -/
  | laneBankLoad (p : Fin 512)
  /-- R35: the issues of the next loaded chunk enter S1. -/
  | issueAfterLoad (p : Fin 512)
  /-- R40: the oldest finished accumulator set drains to C. -/
  | accumulatorDrain (p : Fin 512)
  /-- R44: engine instruction `id` of the croft completes and retires. -/
  | instructionRetire (p : Fin 512) (id : Nat)
  | clockStep (p : Fin 512)
  /-- R61: the supply at the croft, in 1/1,000 of its setpoint, and the cycles stretched. -/
  | droopStretch (p : Fin 512) (supply : Nat) (cycles : Nat)
  | sieveBufferFree (c : CtxId)
  | sieveRoundStart (part : Fin 8) (e : Fin 2)
  | sieveRoundDone (part : Fin 8) (e : Fin 2)
  | sieveRoundTimeout (part : Fin 8) (e : Fin 2)
  /-- R139: the slice controller that engine instruction `id` of the context names receives its lookup list. -/
  | gleanCommandReceive (c : CtxId) (id : Nat)
  | gleanSlotFree (c : CtxId) (id : Nat)
  /-- R135: slice `p` receives the chain value of the next bag of its command number `k`. -/
  | chainValueArrive (p : Fin 512) (k : Nat)
  | gleanerYield (p : Fin 512) (layer : Fin 12) (u : Fin 4)
  | refreshDue (p : Fin 512) (layer : Fin 12) (bank : Fin 8)
  | regulatorRelease (part : Fin 8) (r : Regulator)
  /-- R15: an ordinary read of `len` bytes at slice offset `off`. `flips` gives the bits inverted on the links at the first read, by
  granule (64 B of the slice) and data link, and `again` those inverted at re-reads, with which of the three (R231, R232). -/
  | sliceRead (p : Fin 512) (off : Nat) (len : Nat) (src : Src) (flips : List (Nat × Fin 320)) (again : List (Nat × Fin 320 × BitVec 3))
  /-- R196, R230: an ordinary write. -/
  | sliceWrite (p : Fin 512) (off : Nat) (data : Sent) (poison : Bool) (src : Src)
  | writeCombiningDrain (p : Fin 512) (line : Nat)
  | readModifyWrite (p : Fin 512) (word : Nat)
  | squareCacheAtomic (c : CtxId) (addr : Nat) (op : AtomOp) (ty : AtomTy) (operand : BitVec 64) (newVal : BitVec 64)
  | deferredContribution (c : CtxId) (addr : Nat) (ty : AtomTy) (operand : BitVec 64)
  | imbalanceWindow (p : Fin 512)
  | queueEntryFree (p : Fin 512) (u : Fin 4)
  /-- R229: a layer finds a failure: where `cmd`, in a command, which it sampled as `word`, otherwise in a write granule it was sent.
  `again` says that the resent copies fail too. -/
  | errorReturn (p : Fin 512) (u : Fin 4) (cmd : Bool) (word : BitVec 60) (again : Bool)
  /-- R232: the links that failed the test: data 0 to 319, command via 320 + 2·i + copy. -/
  | linkTestDone (p : Fin 512) (u : Fin 4) (failed : List (Fin 352))
  /-- R239, R240: what the pass measured, by link (data 0 to 319, command 320 to 335), layer and direction (1 from the layer): the
  eye's width in 1/100 UI and its centre in 1/64 UI. -/
  | recentringPass (p : Fin 512) (u : Fin 4) (eyes : List (Fin 336 × Fin 12 × Fin 2 × Nat × Int))
  | idleBeatInsert (p : Fin 512) (u : Fin 4) (beats : Nat)
  | refreshNormalReturn (t : Fin 192)
  /-- R250: one received frame: its sequence number, and its 2,048 data bits in lane order below the 32 bits of its check lane. -/
  | d2dFrame (v : Fin 4) (dir : Fin 2) (g : Fin 16) (sn : BitVec 8) (frame : BitVec 2080)
  | d2dNegativeAck (v : Fin 4) (dir : Fin 2) (g : Fin 16) (sn : BitVec 8)
  | groupRetrainDone (v : Fin 4) (dir : Fin 2) (g : Fin 16) (laneFailed : Bool)
  | d2dRecentring (v : Fin 4) (dir : Fin 2) (g : Fin 16) (pass : LanePass)
  | portTrainingExchange (port : Fin 4) (rot : BitVec 2) (mir : Bool)
  | waitTimeout (c : CtxId)
  | barrierRelease (part : Fin 8) (e : Fin 2) (ch : Fin 4)
  /-- R281: `ch` a barrier channel 0 to 3, or 4 for the collective. -/
  | barrierTimeout (part : Fin 8) (e : Fin 2) (ch : Fin 5)
  | collectiveStart (part : Fin 8) (e : Fin 2)
  | collectiveDone (part : Fin 8) (e : Fin 2)
  | reeveWatchdog (r : Fin 16)
  | reeveSelftestDone (r : Fin 16) (passed : Bool)
  | lockstepArm (cid : Nat)
  | lockstepDisarm (cid : Nat)
  | armTimeout
  | twinArm (level : BitVec 64)
  | twinCmd (k : BitVec 32) (opcode : BitVec 64)
  | hashset (k : BitVec 32) (point : BitVec 32) (hs : List (BitVec 64))
  | crec (k : BitVec 32) (fields : BitVec 128)
  | twinFail (k : BitVec 32) (status : BitVec 64)
  /-- R301: the 16 B of its payload, as the model lays them out (log entry 14). -/
  | probe (k : BitVec 32) (lc : BitVec 16) (kind : BitVec 8) (lo hi : BitVec 52)
  | terms (k : BitVec 32) (ts : List (BitVec 64 × BitVec 64))
  | twinDisarm
  | twinMessageTimeout
  | doorbell (q : Fin 4096) (w : BitVec 64)
  | queueEnable (q : Fin 4096)
  | queueDisable (q : Fin 4096)
  /-- R312: the ring entries the reeve reads for one command (taken from memory instead when the ring is in device memory). -/
  | commandFetch (q : Fin 4096) (es : List RingEntry)
  | run (cid : Nat)
  | runChained (cid : Nat)
  | loadTable (cid : Nat)
  | memFill (cid : Nat)
  | memCopy (cid : Nat)
  | sessionOpen (cid : Nat)
  | sessionAppend (cid : Nat)
  | sessionClose (cid : Nat)
  | fenceQueue (cid : Nat)
  | fencePartition (cid : Nat)
  | abortQueue (cid : Nat)
  | abortPartition (cid : Nat)
  | abortSession (cid : Nat)
  | setPartition (cid : Nat)
  | setEnvelope (cid : Nat)
  | queryFloorplan (cid : Nat)
  | readTelemetry (cid : Nat)
  | timeSyncSet (cid : Nat)
  | timeSyncStep (cid : Nat)
  | timeSyncRead (cid : Nat)
  | fwBegin (src : FwSource) (size : BitVec 32)
  /-- R399, R480: the chunk's SRC field, offset, length, the bytes that arrived and, over I3C, their CRC-32C. -/
  | fwChunk (src : FwSource) (addr : BitVec 64) (off len : BitVec 32) (data : List Byte) (crc : BitVec 32)
  | fwCommit (src : FwSource)
  | attest (cid : Nat)
  | requestAdmit (part : Fin 8)
  | sessionWaitEnd (part : Fin 8) (e : Fin 2)
  | croftStagesStart (part : Fin 8) (e : Fin 2)
  | requestComplete (part : Fin 8) (e : Fin 2)
  | timeLimit (part : Fin 8) (e : Fin 2)
  | coalesceTimeout (q : Fin 4096)
  | abortBoundExceeded (cid : Nat)
  | functionLevelReset
  | bucketLeak
  | trackingExpire (p : Fin 512) (loc : Nat)
  | sweeperRowRead (p : Fin 512)
  | sweepLate (p : Fin 512) (minutes : BitVec 16)
  | rowSpare (p : Fin 512) (layer : Fin 12) (bank : Fin 8) (row : Fin 8208)
  | coldStart
  | warmReset
  | perstRelease
  /-- R394: the ROM stage ends. -/
  | romDone (r : RomOut)
  | fwClaimTimeout
  | trainDone (faults : List UnitFault)
  | selftestDone (faults : List UnitFault)
  /-- R395: the rows the march found failing: croft, bank slot, row. -/
  | marchDone (rows : List (Fin 512 × Fin 96 × Fin 8208))
  /-- R396: step 0 to 2, the layer-0 temperature in °C the stacks reached, and the rows that lost data. -/
  | retentionStep (k : Fin 3) (temp : Nat) (rows : List (Fin 512 × Fin 96 × Fin 8208))
  | retentionSettleTimeout (k : Fin 3) (temp : Nat) (v h : Fin 4)
  | fillDone
  | scrubDone
  | floorplanDone
  | defectMapEepromWrite
  /-- R421: the lanes the test found bad, and whether it found any other fault. -/
  | croftSelftest (p : Fin 512) (lanes : List (Fin 64)) (otherFault : Bool)
  | selftestOverdue (p : Fin 512)
  | sequencerTimeout (p : Fin 512)
  | migrationPhase1Done
  | rowExchange
  | migrationDone
  | dramTimingTrim (p : Fin 512) (u : Fin 4)
  | subchannelRetrain (p : Fin 512) (u : Fin 4)
  | droopTuning (p : Fin 512) (up : Bool)
  | sensorSample (t : ThermIn)
  | sensorSilence (i : SensorId)
  | sensorDisagree (p : Fin 512)
  | tileSensorDisagree (t : Fin 192) (q : Fin 4)
  /-- R439: the failing bits read back from quadrant q of tile t. -/
  | canaryCheck (t : Fin 192) (q : Fin 4) (f : Nat)
  | limiterRaise
  | limiterLower (v : Fin 4)
  | capStep
  | capTimeout
  | coolingFault
  | coolingRestored
  | flowStop
  | flowStopEnd
  | thermtrip
  | rotaPeriod
  | thermalCycleSample
  | lifeCounterWrite
  | linkDown
  | linkDownTimeout
  | linkUp
  | hotReset
  | hdmDecoderCommit (d : Fin 4)
  | cxlMemRead (hpa : BitVec 64) (len : Nat)
  | cxlMemWrite (hpa : BitVec 64) (data : List Byte) (poison : Bool)
  | birsp (line : Nat)
  | hostSnoop (line : BitVec 64)
  /-- R473: the host completes device-issued access `id`: whether it succeeded, the data it returned and which 64 B granules of them are
  poisoned. -/
  | hostAccessCompletion (id : Nat) (ok : Bool) (data : List Byte) (bad : List Nat)
  | hostAccessTimeout (id : Nat)
  | uioRequest (addr : BitVec 64) (write : Bool) (len : Nat) (data : List Byte) (poison : Bool)
  | cxlIdeKm (keySet : Fin 2)
  | ideFail (keySet : Fin 2) (sent : Bool)
  | entdaa (addr : BitVec 7)
  | setdasa (addr : BitVec 7)
  | rstdaa
  | enec (bits : BitVec 8)
  | disec (bits : BitVec 8)
  | getpid
  | getbcr
  | getdcr
  | getstatus
  | getmwl
  | setmwl (n : BitVec 16)
  | getmrl
  | setmrl (n : BitVec 16)
  | regSel (off : BitVec 32)
  | alertAck
  | i3cPrivateRead
  | hotJoin
  /-- R481: the controller's answer to the IBI request. -/
  | ibiRetry (nacked : Bool)
  /-- R483: a rising edge on PPS_IN and the width of its pulse in ns. -/
  | ppsEdge (width : Nat)
  | ppsLost
  | twinLinkTrain
  | twinLinkDown (lanes : BitVec 4)
  | inputOutOfRange
  | overvoltage (mv : Nat)
  | inputLow (mv : BitVec 16)
  | errstatusClear (w : BitVec 64)
  | devstatusClear (w : BitVec 64)
  | eventRingEnable
  | evheadWrite (w : BitVec 64)
  | registerWrite (off : BitVec 18) (w : RegData)
  | cxlMailboxKcp (m : MailIn) (data : List Byte)
  | attestTreeBuilt
  | railsGood
  | verifyDone
  | linkTrained (width rate : Nat)
  | hdmDecoderUncommit (d : Fin 4)
  | epochApplyDone (part : Fin 8) (e : Fin 2)
  | reeveCommandDone (cid : Nat)
  /-- R261: a lane of direction `dir` fails: one of the eight bell lanes or two spares. -/
  | bellLaneFailure (v : Fin 4) (dir : Fin 2)
  | clockPairFailure (p : Fin 512) (u : Fin 4)
  | twinMessageCrcFail (n : Nat)
deriving DecidableEq, Repr

end Sys2Proof
end

