-- ==== Sys2Proof/Decode.lean ====
section
/-! DEFINITION. The command that a word spells. spec/opcode_table.json gives no row any bits, so no word of the table spells one; the
128-bit words of the crofts (R45) are read here by their encoding tables. -/

namespace Sys2Proof

/-- No row of the table gives bits. -/
def decodeTableWord (_nbits _w : Nat) : Option Instr := none

/-! ### The fields of a croft word -/

/-- R56, class 0x08. -/
def scalarFields (w : BitVec 128) : ScalarF where
  sd := w.extractLsb' 14 5
  sa := w.extractLsb' 19 5
  sb := w.extractLsb' 24 5
  imm := w.extractLsb' 29 64
  rsv := w.extractLsb' 93 35

/-- R56, class 0x09. -/
def branchFields (w : BitVec 128) : BranchF where
  sa := w.extractLsb' 12 5
  sb := w.extractLsb' 17 5
  offset := w.extractLsb' 22 32
  rsv := w.extractLsb' 54 74

/-- R201. -/
def dmaFields (w : BitVec 128) : DmaF where
  aop := w.extractLsb' 12 4
  atype := w.extractLsb' 16 3
  fetch := w.getLsbD 19
  ladr := w.extractLsb' 20 16
  sr := w.extractLsb' 36 5
  lenm1 := w.extractLsb' 41 22
  flag := w.extractLsb' 63 6
  flagen := w.getLsbD 69
  rsv := w.extractLsb' 70 58

/-- R264. -/
def flagFields (w : BitVec 128) : FlagF where
  any := w.getLsbD 10
  wclr := w.getLsbD 11
  mask := w.extractLsb' 12 64
  rsv := w.extractLsb' 76 52

/-- R272. -/
def bellFields (w : BitVec 128) : BellF where
  vil := w.extractLsb' 11 2
  num := w.extractLsb' 13 12
  cnt := w.extractLsb' 25 16
  rsv := w.extractLsb' 41 87

/-- R273. -/
def collFields (w : BitVec 128) : CollF where
  rtype := w.extractLsb' 12 2
  sadr := w.extractLsb' 14 16
  dadr := w.extractLsb' 30 16
  rowsm1 := w.extractLsb' 46 12
  cbw := w.extractLsb' 58 14
  sr := w.extractLsb' 72 5
  flag := w.extractLsb' 77 6
  flagen := w.getLsbD 83
  rsv := w.extractLsb' 84 44

/-- R46. -/
def mmaFields (w : BitVec 128) : MmaF where
  afmt := w.extractLsb' 10 4
  wfmt := w.extractLsb' 14 4
  sparse := w.extractLsb' 18 2
  blk := w.getLsbD 20
  zsoff := w.getLsbD 21
  acc := w.extractLsb' 22 2
  mt := w.extractLsb' 24 9
  nt := w.extractLsb' 33 9
  kt := w.extractLsb' 42 9
  aadr := w.extractLsb' 51 16
  wadr := w.extractLsb' 67 16
  cadr := w.extractLsb' 83 16
  badr := w.extractLsb' 99 16
  flag := w.extractLsb' 115 6
  flagen := w.getLsbD 121
  hold := w.getLsbD 122
  rsv := w.extractLsb' 123 5

/-- R53. -/
def vecFields (w : BitVec 128) : VecF where
  sfmt := w.extractLsb' 14 4
  dfmt := w.extractLsb' 18 4
  xadr := w.extractLsb' 22 16
  yadr := w.extractLsb' 38 16
  zadr := w.extractLsb' 54 16
  len := w.extractLsb' 70 16
  flag := w.extractLsb' 86 6
  flagen := w.getLsbD 92
  rsv := w.extractLsb' 93 35

/-- R127. -/
def gleanFields (w : BitVec 128) : GleanF where
  tid := w.extractLsb' 8 8
  shard := w.extractLsb' 16 9
  ladr := w.extractLsb' 25 16
  lcnt := w.extractLsb' 41 16
  wen := w.getLsbD 59
  dsel := w.getLsbD 60
  dadr := w.extractLsb' 61 16
  sr := w.extractLsb' 77 5
  flag := w.extractLsb' 82 6
  flagen := w.getLsbD 88
  rsv := w.extractLsb' 89 39

/-- R100. -/
def sieveFields (w : BitVec 128) : SieveF where
  thren := w.getLsbD 10
  lenen := w.getLsbD 11
  topk := w.extractLsb' 12 13
  kadr := w.extractLsb' 25 16
  kcnt := w.extractLsb' 41 16
  padr := w.extractLsb' 57 16
  plen := w.extractLsb' 73 7
  dadr := w.extractLsb' 80 16
  dcap := w.extractLsb' 96 16
  sr := w.extractLsb' 112 5
  flag := w.extractLsb' 117 6
  flagen := w.getLsbD 123
  rsv := w.extractLsb' 124 4

/-! ### The operations of a class -/

/-- SOP (R56). -/
def scalarOf (c : CtxId) (f : ScalarF) : Nat → Option Instr
  | 0 => some (.scalarAdd c f)
  | 1 => some (.scalarSub c f)
  | 2 => some (.scalarAnd c f)
  | 3 => some (.scalarOr c f)
  | 4 => some (.scalarXor c f)
  | 5 => some (.shl c f)
  | 6 => some (.shr c f)
  | 7 => some (.scalarMul c f)
  | 8 => some (.loadImmediate c f)
  | 9 => some (.movFromSpecial c f)
  | _ => none

/-- COND (R56). -/
def branchOf (c : CtxId) (f : BranchF) : Nat → Option Instr
  | 0 => some (.branchAlways c f)
  | 1 => some (.branchEqual c f)
  | 2 => some (.branchNotEqual c f)
  | 3 => some (.branchLess c f)
  | 4 => some (.branchGreaterEqual c f)
  | 5 => some (.decrementAndBranch c f)
  | _ => none

/-- AOP (R201). -/
def atomicOf (c : CtxId) (f : DmaF) : Nat → Option Instr
  | 0 => some (.atomicAdd c f)
  | 1 => some (.atomicMin c f)
  | 2 => some (.atomicMax c f)
  | 3 => some (.cas c f)
  | 4 => some (.swap c f)
  | 5 => some (.atomicAnd c f)
  | 6 => some (.atomicOr c f)
  | 7 => some (.atomicXor c f)
  | _ => none

/-- DOP (R201). -/
def dmaOf (c : CtxId) (f : DmaF) : Nat → Option Instr
  | 0 => some (.dmaRead c f)
  | 1 => some (.dmaWrite c f)
  | 2 => atomicOf c f f.aop.toNat
  | _ => none

/-- FOP (R264). -/
def flagOpOf (c : CtxId) (f : FlagF) : Nat → Option Instr
  | 0 => some (.setFlags c f)
  | 1 => some (.clearFlags c f)
  | 2 => some (.fwait c f)
  | _ => none

/-- BOP (R272) and, for COLL, COP (R273). -/
def bellOpOf (c : CtxId) (w : BitVec 128) : Nat → Option Instr
  | 0 => some (.bar c (bellFields w))
  | 1 => some (.ring c (bellFields w))
  | 2 => some (.bwait c (bellFields w))
  | 3 => some (.ssig c (bellFields w))
  | 4 => some (.swait c (bellFields w))
  | 5 => some (if w.getLsbD 11 then .allreduce c (collFields w) else .allgather c (collFields w))
  | _ => none

/-- MODE (R46). -/
def mmaOf (c : CtxId) (f : MmaF) : Nat → Option Instr
  | 0 => some (.mmaW c f)
  | 1 => some (.mmaA c f)
  | 2 => some (.mmaO c f)
  | _ => none

/-- VOP (R54). -/
def vecOf (c : CtxId) (f : VecF) : Nat → Option Instr
  | 0 => some (.vecAdd c f)
  | 1 => some (.vecMul c f)
  | 2 => some (.fma c f)
  | 3 => some (.vecMax c f)
  | 4 => some (.vecMin c f)
  | 5 => some (.relu c f)
  | 6 => some (.cvt c f)
  | 7 => some (.scale c f)
  | 8 => some (.rsum c f)
  | 9 => some (.rmax c f)
  | 10 => some (.exp c f)
  | 11 => some (.rcp c f)
  | _ => none

/-- POOL (R127). -/
def gleanOpOf (c : CtxId) (f : GleanF) : Nat → Option Instr
  | 0 => some (.gleanSum c f)
  | 1 => some (.gleanMean c f)
  | 2 => some (.gleanGather c f)
  | _ => none

/-- SOP (R100). -/
def sieveOpOf (c : CtxId) (f : SieveF) : Nat → Option Instr
  | 0 => some (.sieveSelect c f)
  | 1 => some (.sieveRoute c f)
  | _ => none

/-- The instruction that a 128-bit word spells in a context's stream (R45): its class in bits [7:0], then the operation of the class. None
for a reserved class or a reserved operation. -/
def decodeCroft (c : CtxId) (w : BitVec 128) : Option Instr :=
  let sel := fun lo n => (w.extractLsb' lo n).toNat
  match sel 0 8 with
  | 0x00 => some (.nop c w)
  | 0x01 => some (.endStream c (w.extractLsb' 8 120))
  | 0x08 => scalarOf c (scalarFields w) (sel 8 6)
  | 0x09 => branchOf c (branchFields w) (sel 8 4)
  | 0x10 => dmaOf c (dmaFields w) (sel 8 4)
  | 0x18 => flagOpOf c (flagFields w) (sel 8 2)
  | 0x19 => bellOpOf c w (sel 8 3)
  | 0x20 => mmaOf c (mmaFields w) (sel 8 2)
  | 0x28 => vecOf c (vecFields w) (sel 8 6)
  | 0x30 => gleanOpOf c (gleanFields w) (sel 57 2)
  | 0x38 => sieveOpOf c (sieveFields w) (sel 8 2)
  | _ => none

end Sys2Proof
end

