-- ==== Sys2Proof/Config.lean ====
section
/-! DEFINITION. What the part fixes and the spec leaves open: the free values, which have no body, so that nothing can be proved
of them but what holds for every value, and the sizes the spec states. -/

namespace Sys2Proof.Config

/-- A value the spec leaves undefined: the `n`-th such value a run draws, `w` bits wide (log entry 4). -/
opaque freeBits (w n : Nat) : BitVec w

/-- The undefined contents of code word `word` of the banks in the `epoch`-th region left undefined (R215, R192; log entry 4). -/
opaque undefWord (epoch word : Nat) : BitVec 80

/-- SHA-256, a published standard the manual does not teach (log entry 5). -/
opaque sha256 (bytes : List Byte) : BitVec 256

/-- The identifier and the secret seed of a tree of the attestation key, and the randomiser C of a leaf of it, which RFC 8554 derives from the
device seed (R501; log entry 5). -/
opaque lmsId (seed : BitVec 256) (level tree : Nat) : BitVec 128
opaque lmsSeed (seed : BitVec 256) (level tree : Nat) : BitVec 256
opaque lmsRand (seed : BitVec 256) (level tree leaf : Nat) : BitVec 256

/-- The read-only region of the EEPROM as manufacture writes it: APK and ENDORSE, and its CRC-32C (R508; log entry 5). -/
opaque keys : List Byte
opaque keysCrc : BitVec 32

/-- kc of croft `p` as SELFTEST measures it, in mK/W, before it is brought into the range of R433 (log entry 4). -/
opaque kcRaw (p : Nat) : Nat

/-- kc of croft `p` in mK/W: from 1.5 to 4.0 K/W (R433). -/
def kc (p : Nat) : Nat := 1500 + kcRaw p % 2501

/-- Failing bits of canary quadrant `c` at step `k` of the calibration numbered `n`, before its range (R439; log entry 4). -/
opaque canaryRaw (n c k : Nat) : Nat

/-- f of step `k`: 0 to the array's 65,536 bits; from 32 to 128 at the third step (R439). -/
def canaryBits (n c k : Nat) : Nat := if k = 2 then 32 + canaryRaw n c 2 % 97 else canaryRaw n c k % 65537

/-- Hold time of canary quadrant `c` at the calibration numbered `n`, in 8 ms, before its range (R439; log entry 4). -/
opaque canaryHoldRaw (n c : Nat) : Nat

/-- h of a quadrant in ms: from 8 to 1,000 in steps of 8 (R439). -/
def canaryHold (n c : Nat) : Nat := 8 * (1 + canaryHoldRaw n c % 125)

/-- The offset of the ring oscillator of croft `p` that the `n`-th SELFTEST of a cold start measures, in 1/16 K (R436; log entry 4). -/
opaque roBase (n p : Nat) : Int

/-- The centre of an eye that a hold's centring measures, in 1/64 UI: the `n`-th such measurement of a run, of the sampling point numbered `key`
(R233; log entry 4). -/
opaque eyeCentre (n key : Nat) : Int

/-- Size of a bell message in bytes, as the die-to-die regulators count it (R259): the spec gives none (log entry 61). -/
opaque bellBytes : Nat

/-- Power of one croft under heater duty, in mW: the spec gives none (R453, R457; log entry 4). -/
opaque heaterPower : Nat

/-- Whether bit `t` of TREEFUSE reads 1 once it is burned (R504; log entry 4). -/
opaque burnHolds (t : Nat) : Bool

/-- Bytes of a slice (R189): 1.5 GiB. -/
def sliceBytes : Nat := 1610612736

/-- Bytes of a local store (R13): 4 MiB. -/
def lsBytes : Nat := 4194304

/-- Bytes of a bank (R13): 16 MiB. -/
def bankBytes : Nat := 16777216

/-- Rows of a bank with its 16 spares (R376, R379). -/
def bankRows : Nat := 8208

end Sys2Proof.Config
end

