-- ==== Sys2Proof/Machine/State.lean ====
section
/-! DEFINITION. The state of the QH9: every register, store, queue, counter and mode the spec gives it, as plain data.
Times are in nanoseconds, temperatures in 0.125 K from 0 °C, powers in mW, unless a field says otherwise.
A field marked MODEL is the model's own bookkeeping and no register of the spec. -/

namespace Sys2Proof.Machine

/-- The ways a step can stop with a fault. The spec gives every row of the table an effect, so no meaning raises one. -/
inductive Fault where
  /-- Raised by no meaning. Kept so that the type is inhabited; safe, since no step answers with it. -/
  | neverRaised
deriving DecidableEq, Repr

/-- The ways a step can be refused. -/
inductive Refusal where
  /-- Raised by an arm of `exec` whose row has no meaning yet; safe, since the machine stops there. -/
  | notModelled (mnemonic : String)
deriving DecidableEq, Repr

/-- What the code of R52 and R383 finds in a 64-bit word: the spec gives no check matrix, so a word is held as its data with what
its code would find (log entry 67). -/
inductive MemErr where
  /-- The word and its check bits agree. -/
  | sound
  /-- One of its bits is wrong: the code corrects it. -/
  | single
  /-- Two of its bits are wrong: the code detects it. -/
  | double
deriving DecidableEq, Repr

/-- One copy of a critical word: its value, whether its code or CRC-32C fails (R385 to R387), and whether its code corrects a bit
of it (R383). -/
structure Copy (α : Type) where
  val : α
  bad : Bool
  one : Bool := false
deriving DecidableEq, Repr

/-- A critical word stored three times (R385). -/
structure Tri (α : Type) where
  c0 : Copy α
  c1 : Copy α
  c2 : Copy α
deriving DecidableEq, Repr

/-- A range of bytes: its first byte and its length (R51, R203). -/
structure Range where
  lo  : Nat
  len : Nat
deriving DecidableEq, Repr

/-! ### Crofts -/

/-- Whether an execution context runs (R324, R49, R63). -/
inductive CtxRun where
  | idle | running | stopped
deriving DecidableEq, Repr

/-- What a running context waits for. -/
inductive Wait where
  | none
  /-- R328 step 2: at GEND. -/
  | gend
  /-- R264: an FWAIT. -/
  | flags (mask : BitVec 64) (any wclr : Bool)
  /-- R268: a BWAIT on a bell, numbered 1,024·v + b. -/
  | bell (b cnt : Nat)
  /-- R268: an SWAIT. -/
  | sem (b cnt : Nat)
  /-- R270: a BAR on a channel. -/
  | barrier (ch : Nat)
  /-- R273: a COLL. -/
  | coll
deriving DecidableEq, Repr

/-- One execution context of a croft (R324). -/
structure Ctx where
  run     : CtxRun
  lc      : Nat            -- logical croft index
  n       : Nat            -- logical croft count
  pos     : Nat            -- program position
  count   : Nat            -- instruction count of the stream (R322)
  base    : Nat            -- partition address of the stream (R322)
  gend    : Nat            -- GEND (R322)
  inCroft : Bool           -- in its croft stages (R325)
  ended   : Bool           -- has retired END
  regs    : Table Word     -- s0 to s31 (R23)
  flags   : BitVec 64      -- event flags (R264)
  sat     : Bool           -- sticky saturation flag (R81)
  args    : Table Word     -- program arguments 0 to 3 (R56)
  wait    : Wait
  since   : Nat            -- MODEL: when the present wait or hold began
  held    : Option Instr   -- the instruction held under R51, R203, R208 or R263
  locked  : Bool           -- it is held under R51 (R64)
  seq     : Nat            -- contributions staged in this RUN (R208)
  unacked : Nat            -- contributions staged and not yet acknowledged (R208)
  retired : Nat            -- retired-instruction count (R299)
  rounds  : Nat            -- SIEVE instructions executed (R98)
  colls   : Nat            -- COLL instructions executed (R274)
  bars    : Table Nat      -- BAR instructions executed, by channel (R270)
  cause   : Nat            -- cause of the stop (R49), 0 when none
  causeAt : BitVec 32      -- instruction index of the stop (R49)
deriving DecidableEq, Repr

/-- The engines of R51. -/
inductive EngineKind where
  | mma | vec | dma | glean | sieve | coll
deriving DecidableEq, Repr

/-- A running engine instruction with the ranges it holds (R51, R203). -/
structure Engine where
  id      : Nat
  e       : Nat              -- execution slot of the issuing context
  idx     : Nat              -- its instruction index
  kind    : EngineKind
  instr   : Instr
  reads   : List Range
  writes  : List Range
  remote  : Option (Nat × Range × Bool)   -- SPACE, remote range, whether it writes there
  flag    : Option (BitVec 6)
  outside : Bool             -- writes outside the local store (R263)
  ready   : Bool             -- its work is complete, so it may retire
  base    : Nat              -- program argument: value of the register SR at issue
  gate    : Option Regulator -- the regulator its access waits at (R214)
  sent    : Option (Nat × Nat × List Byte)   -- SPACE, partition address or 0, and bytes of a remote write (R299)
  seq     : Nat              -- number of its first contribution in its context's program order (R208)
  stall   : Option Nat       -- since when it waits at a regulator (R214), for a command slot (R139) or a round buffer (R114)
  issued  : Nat              -- MODEL: when it issued
  got     : List (Nat × Nat × List (Byte × Bool))   -- bytes for the local store that wait for the rest of it (R63): partition address they came from, local byte, bytes
deriving DecidableEq, Repr

/-- A bank of the lane stores (R33, R34): the issues in the pipeline that refer to it, the chunk it holds, and its bytes. -/
structure Bank where
  refs  : Nat
  chunk : Option Nat       -- ordinal of the chunk in the alternation of R36
  bytes : Table Byte       -- byte i of physical lane l at 1,024·l + i
  bad   : Table Bool       -- the bytes whose parity fails (R52)
  ready : Nat              -- cycle of the lane pipeline after the last write of its load (R35)
  used  : Nat              -- cycle after the last issue of its chunk entered S1
  gone  : Nat              -- cycle from which no issue that entered S1 with its tag is left (R34)
deriving DecidableEq, Repr

/-- An issue in the pipeline (R28): whether its tag names the back bank, and the first cycle after it has left S6. -/
structure InFlight where
  back : Bool
  out  : Nat
deriving DecidableEq, Repr

/-- An accumulator set (R40): the cycles from which its last issue has left S6 and from which it has drained. -/
structure AccSet where
  out  : Nat
  free : Nat
deriving DecidableEq, Repr

/-- MODE of R46. -/
inductive MMode where
  | w | a | o
deriving DecidableEq, Repr

/-- A running matrix instruction: its operands, the lanes it runs on, and how far its chunks have been loaded and issued and its
accumulator sets drained. -/
structure MmaRun where
  id      : Nat
  md      : MMode
  f       : MmaF
  ad      : Nat            -- byte addresses of A, W, C and the bitmap (R48)
  wd      : Nat
  cd      : Nat
  bd      : Nat
  lanes   : List Nat       -- physical lane of each logical lane (R57 to R59)
  first   : Nat            -- ordinal of its first chunk (R36)
  loaded  : Nat
  issued  : Nat
  drained : Nat            -- pass and block pairs drained (R40)
  carry   : Table (BitVec 32)   -- drained elements of C whose 64 B unit is not complete (R63), by m·N + n
deriving DecidableEq, Repr

/-- Accumulators kept by HOLD = 1 (R41). -/
structure Hold where
  m     : Nat
  n     : Nat
  cadr  : BitVec 16
  float : Bool
deriving DecidableEq, Repr

/-- CSTATE of R407. -/
inductive CState where
  | active | fallow | sliceOnly | failed
deriving DecidableEq, Repr

/-- One croft (R23) with its floor-plan entry (R407). -/
structure Croft where
  c0       : Ctx
  c1       : Ctx
  engines  : List Engine
  nextId   : Nat           -- MODEL: numbers engine instructions
  mma      : List MmaRun
  front    : Bank
  back     : Bank
  pipe     : List InFlight -- issues in the lane pipeline, oldest first (R28)
  chunkOrd : Nat           -- ordinal of the next chunk in the alternation of R36
  seqAt    : Nat           -- MODEL: cycle of the lane pipeline in which the sequencer is ready to issue (log entry 68)
  loadAt   : Nat           -- MODEL: cycle from which the loader is free
  setA     : AccSet
  setB     : AccSet
  acc      : Table (BitVec 32)   -- accumulator file, entry e of physical lane l at 128·l + e: set A entries 0 to 63, set B 64 to 127
  accBad   : Table Bool    -- bytes of the accumulator file whose parity fails (R52), byte b of an entry at 4·key + b
  hold     : Option Hold
  badLanes : List Nat      -- bad physical lanes in force (R57)
  rot      : Nat           -- rotation offset r (R58)
  pendRot  : Nat           -- rota steps that wait under R59
  rotLate  : Nat           -- of them, those ROT_DEFER has counted (R59)
  pendBad  : List Nat      -- bypasses that wait under R59
  mhz      : Nat           -- croft clock (R61)
  stepAt   : Nat           -- last clock step
  stretch  : Bool          -- cycles are being stretched (R61)
  droopThr : Int           -- droop threshold, in tuning steps (R421)
  droopAt  : Nat           -- last droop tuning (R421)
  testAt   : Nat           -- last completed self-test (R421)
  overdue  : Bool          -- its overdue self-test has held a croft-stage start (R422)
  heater   : Bool          -- heater duty in this rota period (R453)
  heatAt   : Nat           -- since when HEAT_CYC has not counted it (R464)
  cstate   : CState
  fused    : Bool
  testFail : Bool
  svcFail  : Bool
  mig      : Bool
  inPart   : Bool
  part     : Nat
  pidx     : Nat
  partner  : Nat           -- 0xFFFF none
  migRow   : Nat
  dirty    : List Range    -- bytes of the local store written since the last hash point (R300)
  remote   : List (Nat × Nat × BitVec 64)   -- remote writes: instruction count, address, hash term (R299)
deriving DecidableEq, Repr

/-! ### Slices and stack -/

/-- STATE of R246. -/
inductive Width where
  | full | foldL | foldH | retired
deriving DecidableEq, Repr

/-- Who waits for an access. -/
inductive Asker where
  /-- Its source, which is sent the data it reads. -/
  | source
  /-- An engine instruction of a context. -/
  | engine (c : CtxId) (id : Nat)
  /-- A reeve, for a command. -/
  | command (cid : Nat)
  /-- A reeve, that writes zeros over pages of a session (R158, R164, R170). -/
  | zeros
  /-- A reeve, for the head of a submission ring (R312). -/
  | ring (q : Nat)
  /-- The write numbered so of the host or of a peer: it is answered when all of it is stored. -/
  | port (n : Nat)
  /-- The completion record of a pair, and the event record, being written (R318, R355). -/
  | record (q : Nat)
  | event
  /-- The square cache, which applies an ended epoch of an execution slot (R208). -/
  | epoch (part e : Nat)
  /-- The slice controller or the square cache, which gives back what it holds. -/
  | inside
deriving DecidableEq, Repr

/-- A code word of the merge buffer (R198). The words stand in the order in which they came. -/
structure MgWord where
  word  : Nat
  bytes : Table Byte
  mask  : BitVec 8
  since : Nat
  bad   : BitVec 8 := 0    -- bytes whose parity fails (R371)
deriving DecidableEq, Repr

/-- A staged contribution (R208). -/
structure Staged where
  part : Nat
  e    : Nat
  lc   : Nat
  seq  : Nat
  addr : Nat
  ty   : AtomTy
  val  : BitVec 64
deriving DecidableEq, Repr

/-- What an access that waits for a bank is to do, within one granule. -/
inductive QAct where
  /-- A read of `len` bytes, for byte `lo` of the local store where an engine instruction asks; with the bits inverted on the links. -/
  | read (len lo : Nat) (who : Asker) (flips : List (Nat × Nat × BitVec 4))
  /-- A write; `told` once BIRsp has come for it (R471). -/
  | write (data : List Byte) (poison : Bool) (who : Asker) (told : Bool)
  /-- Code words that the write-combining buffer or the square cache gives back, by slice offset, with their poison (R197, R205). -/
  | words (ws : List (Nat × BitVec 64 × Bool))
  /-- The read-modify-write of a word of the merge buffer (R198). -/
  | rmw (m : MgWord)
  /-- One element of an atomic of engine instruction `id`. -/
  | atom (c : CtxId) (id addr : Nat) (op : AtomOp) (ty : AtomTy) (operand newVal : BitVec 64) (back : Option Nat) (seq : Nat)
  /-- A contribution of an ended epoch, the lowest logical croft that contributed to its element, the command it is of, and whether its line may
  be updated: once BIRsp has come for it, where the host is to be told (R208, R471). -/
  | staged (x : Staged) (lc cid : Nat) (told : Bool)
  /-- A row of a bank slot that a migration moves from slice `a` to slice `b`, or exchanges between them (R415, R417). -/
  | row (a b k row : Nat) (exchange : Bool)
deriving DecidableEq, Repr

/-- An access in the queue of a sub-channel, or waiting for an entry at its source (R219). -/
structure QEntry where
  p      : Nat             -- slice
  off    : Nat
  act    : QAct
  src    : Src
  at0    : Nat             -- when it came
  wrHeld : Bool := false   -- a write held under R144 and counted
deriving DecidableEq, Repr

/-- An access of the host or a peer that waits in the host port for tokens (R214). -/
structure PortWait where
  part   : Nat
  write  : Bool
  addr   : Nat
  len    : Nat
  data   : List Byte
  poison : Bool
  src    : Src
  at0    : Nat
deriving DecidableEq, Repr

/-- A stored correction (R372): the number of its record in the error log, its location, and whether it was of two bits. -/
structure Corr where
  log    : Nat
  loc    : Nat
  double : Bool
deriving DecidableEq, Repr

/-- An error whose bit falls on a data link (R232): the link, the granule, its time, and the correction it was counted as, if any. -/
structure LinkHit where
  link : Nat
  gran : Nat
  at0  : Nat
  corr : Option Corr
deriving DecidableEq, Repr

/-- One sub-channel of a slice (R226 to R246). -/
structure SubCh where
  width   : Width
  spUsed  : BitVec 10
  badLink : List Nat       -- permanent data links with no spare: the folded half's
  viaBad  : List Nat       -- failed command vias, 2·i + copy (R226)
  casp    : Nat            -- command spares in use
  clkSp   : Bool
  margin  : Bool
  warned  : List Nat       -- links LINK_MARGINAL was raised for (R240)
  lowRuns : Table Nat      -- consecutive marginal passes, by link (R421)
  suspect : List Nat
  hits    : List LinkHit   -- errors of the last 1 ms (R232)
  held    : Bool
  heldAt  : Nat
  passAt  : Nat            -- last recentring pass
  trimAt  : Nat            -- last timing trim
  trainAt : Nat            -- last retraining
  early   : Bool           -- a retraining is due before its time: after a fold, or a link marginal on 3 passes running (R421)
  queue   : List QEntry    -- oldest first: 64 hold entries, the rest wait at their sources (R219)
  sent    : List (Nat × Nat × Nat)   -- what it has sent in the last 8 ns: when, how many commands, and how many write granules (R229)
  resend  : List (Nat × Nat × List Byte × Bool)   -- write granules a layer has refused: slice, offset, bytes, poison (R230)
  tries   : Nat            -- failed resends running (R232)
  beats   : List (Nat × Nat)     -- idle beats inserted in the last 10 µs: time and number (R239)
  sample  : Table Int      -- sampling points in 1/64 UI, by 24·link + 2·layer + direction (R239)
deriving DecidableEq, Repr

/-- A line of the write-combining buffer: 128 B with a valid bit per code word (R197). The lines stand in the order in which they were
last written. -/
structure WcLine where
  line  : Nat
  valid : BitVec 16
  bytes : Table Byte
  last  : Nat
  bad   : BitVec 128 := 0  -- bytes whose parity fails (R371)
deriving DecidableEq, Repr

/-- MODEL: an error found while a store was made, until it is counted and logged. -/
inductive Found where
  /-- R371: a buffered byte of the code word at a slice offset fails its parity. -/
  | buffer (p off : Nat)
  /-- R383: a word of a line that the square cache reads or writes back, at a slice offset. -/
  | sqWord (ue : Bool) (p off : Nat)
deriving DecidableEq, Repr

/-- A tracking-table entry (R374). -/
structure Track where
  loc   : Nat
  count : Nat
  first : Nat
deriving DecidableEq, Repr

/-- Rows of a slice's banks whose contents the spec leaves undefined (R215, R192): rows `lo` up to `hi`, the number of the free
contents, and the code words written since (by `mem` key / 10). -/
structure Undef where
  p       : Nat
  lo      : Nat
  hi      : Nat
  epoch   : Nat
  written : Table Bool
deriving DecidableEq, Repr

/-- A shard descriptor (R122). -/
structure Shard where
  rfmt   : BitVec 4
  valid  : Bool
  lost   : BitVec 4
  dm     : BitVec 4
  pitch  : BitVec 8
  rowsm1 : BitVec 24
  salt16 : BitVec 16
  band   : BitVec 19
  wbase  : BitVec 64
  codebook : BitVec 256
deriving DecidableEq, Repr

/-- A GLEAN command held by a slice controller (R139). -/
structure GlCmd where
  k       : Nat            -- order of receipt
  p       : Nat            -- issuing croft
  e       : Nat            -- issuing slot
  id      : Nat            -- its engine instruction
  tid     : Nat
  entries : List (BitVec 64)
  pool    : Nat            -- POOL: 0 sum, 1 mean, 2 none
  wen     : Bool
  dsel    : Bool
  shard   : Shard          -- the descriptor it was checked against
  dest    : Nat            -- byte address in the local store, or partition address
  next    : Nat            -- output vectors delivered
deriving DecidableEq, Repr

/-- The table row a gleaner has begun and not finished (R141, R144): its bank slot, and its bytes in the slice. -/
structure OpenRow where
  k   : Nat
  off : Nat
  len : Nat
deriving DecidableEq, Repr

/-- A partial vector of a gleaner (R133, R139): the command and the bag it is of, the rows of the bag accumulated in it, its elements, and
whether a row was poisoned. -/
structure GlPart where
  k    : Nat
  bag  : Nat
  rows : Nat
  sum  : List (BitVec 32)
  bad  : Bool
deriving DecidableEq, Repr

/-- The run of one gleaner: its column operations and the time since its last yield or since its command began (R142), its row,
its command, and its partial vectors, two at most (R139). -/
structure GlUnit where
  ops   : Nat
  since : Nat
  row   : Option OpenRow := none
  cmd   : Option Nat := none
  parts : List GlPart := []
deriving DecidableEq, Repr

/-- The mapping a slice uses (R189 to R192): it is kept until the next SET_PARTITION that includes the slice. -/
structure SliceMap where
  live  : BitVec 4
  tbl   : Nat              -- 64 KiB units
  spool : Nat              -- 4 KiB units
  psalt : BitVec 32
deriving DecidableEq, Repr

/-- One slice with its controller. -/
structure Slice where
  u0      : SubCh
  u1      : SubCh
  u2      : SubCh
  u3      : SubCh
  map     : SliceMap
  lost    : Bool           -- R412
  glFallow  : BitVec 48
  chainSp   : BitVec 48
  chainData : BitVec 48
  gl      : List GlCmd
  glNext  : Nat            -- MODEL: numbers received commands
  glUnits : Table GlUnit
  wcb     : List WcLine
  mgb     : List MgWord
  bucket  : Nat
  track   : List Track
  sweep   : Nat            -- next row of the pass, 0 to 787,967 (R376)
  sweepAt : Nat            -- when the pass began
  sweepLate : Bool
  spares  : Table Nat      -- spare row number of a remapped row, by 8,208·k + row (R379)
  spCount : Table Nat      -- spare rows taken, by bank slot
  spExh   : Table Bool     -- banks ROWSPARE_EXHAUSTED was raised for
  refPend : Table Nat      -- refreshes due and not issued, by bank slot (R243)
  refRow  : Table Nat      -- the row each bank refreshes next, by bank slot (R242)
  bi      : Table Bool     -- back-invalidation page bits (R470)
  gran    : Table Nat      -- granules moved in the present window, by sub-channel (R218)
  winAt   : Nat            -- when the window began
  noted   : List Nat       -- locations whose correction has been counted and is not stored yet (R372)
  confirmed : List (Nat × BitVec 80)   -- words confirmed to be uncorrectable or address-guarded, by key, as they stand (R375, R390)
  imbal   : Nat            -- consecutive imbalanced windows (R218)
  share   : Nat × Nat      -- busiest sub-channel of the last window and its share, in 1/1,024
deriving DecidableEq, Repr

/-- A session descriptor (R156). -/
structure Sess where
  state   : BitVec 2
  part    : BitVec 3
  slide   : Bool
  laym1   : BitVec 4
  headm1  : BitVec 4
  dh128   : Bool
  kvfmt   : BitVec 2
  capbm1  : BitVec 13
  first   : BitVec 14
  len     : BitVec 32
  poff    : BitVec 32
  ext     : BitVec 32
  commits : BitVec 64
deriving DecidableEq, Repr

/-! ### The square -/

/-- A device line held by the square cache (R204): its slice, its line, its data, its poisoned sectors, and the words in error
(R383); `used` numbers its last use. -/
structure SqLine where
  p      : Nat
  line   : Nat
  bytes  : Table Byte
  poison : BitVec 4
  used   : Nat
  err    : Table MemErr := []
deriving DecidableEq, Repr

/-- One contribution of a sieve round (R98 to R101). -/
structure Contrib where
  lc      : Nat
  p       : Nat
  id      : Nat
  route   : Bool
  f       : SieveF
  param   : BitVec 64
  recs    : List (BitVec 128)
  payload : List Byte
  err     : Table MemErr := []   -- 64-bit words of the record buffer in error (R383)
deriving DecidableEq, Repr

/-- What one croft receives from a round (R109). -/
structure Delivery where
  p     : Nat
  id    : Nat
  parts : List (Nat × List Byte)   -- bytes for the local store, by address
deriving DecidableEq, Repr

/-- A sieve round of one execution slot. -/
structure Round where
  idx      : Nat
  first    : Nat           -- arrival of its first contribution
  contribs : List Contrib
  running  : Bool          -- executed; its deliveries wait for SIEVE_ROUND_DONE
  deliver  : List Delivery
  fallback : Bool          -- its part of the summary of R110
  waste    : Nat
  drop     : Nat
  doneAt   : Option Nat := none   -- when its last contribution came (R114)
  shortAt  : Option Nat := none   -- since when it waits for tokens (R214)
deriving DecidableEq, Repr

/-- One arrival at a collective (R274). -/
structure CollArr where
  lc   : Nat
  p    : Nat
  id   : Nat
  reduce : Bool
  f    : CollF
  key  : BitVec 16
  data : List Byte
deriving DecidableEq, Repr

/-- The open collective of an execution slot (R274 to R277). -/
structure Coll where
  idx     : Nat
  first   : Nat
  arrs    : List CollArr
  running : Bool
  bytes   : List Byte      -- the result, once running
  shortAt : Option Nat := none   -- since when it waits for tokens (R214)
deriving DecidableEq, Repr

/-- The open instance of a barrier channel (R270). -/
structure Bar where
  inst    : Nat
  first   : Nat
  arrived : List Nat       -- logical crofts
deriving DecidableEq, Repr

/-- Where a request stands (R328). -/
inductive ReqStage where
  | sessWait | gather | croft | done
deriving DecidableEq, Repr

/-- One image of a RUN or RUN_CHAINED as admitted: its GEND and the address and length of each stream (R322, R323, R335). -/
structure Img where
  addr    : Nat
  args    : List Word
  gend    : Nat
  window  : Option (Nat × Nat × Nat)   -- GW0, GW1 and GWLEN when GWEN is 1
  streams : List (Nat × Nat)
deriving DecidableEq, Repr

/-- A request in an execution slot. -/
structure Req where
  cid      : Nat
  imgs     : List Img
  cur      : Nat
  n        : Nat
  gend     : Nat
  gwen     : Bool
  gw0      : Nat
  gw1      : Nat
  gwlen    : Nat
  stage    : ReqStage
  at0      : Nat           -- admission time
  ord      : Nat           -- admission order
  gendAt   : Nat           -- when every context had reached GEND
  sess     : Option (Nat × Nat)   -- slot and LEN at admission (R170)
  fallback : Bool
  waste    : Nat
  drop     : Nat
  orders   : Nat           -- order differences (R294)
  fail     : Option (Nat × BitVec 64)   -- status and DETAIL it ends with
  pairK    : Nat           -- pairing number (R297)
  relaxed  : Bool          -- RELAXED at its admission (R215)
  lose     : Bool          -- it failed on uncorrectable data of its session's pages (R183)
  waits    : Bool          -- it waits, or waited, for an earlier command that names its session (R167)
deriving DecidableEq, Repr

/-- One execution slot of a partition. -/
structure Slot where
  req    : Option Req
  bars   : Table Bar
  coll   : Option Coll
  rounds : List Round      -- open sieve rounds, oldest first
  staged : List Staged     -- contributions of the open epoch
  ended  : List Staged     -- contributions of ended epochs not yet applied
  seen   : Table (Nat × Nat)   -- relaxed mode: last key applied, by line (R293)
deriving DecidableEq, Repr

/-- A partition: its run-time state beside its table entry. -/
structure Part where
  s0       : Slot
  s1       : Slot
  adm      : List Nat      -- admission order, by command (R327)
  relaxed  : Bool          -- RELAXED in effect (R215)
  rates    : BitVec 256    -- the entry whose regulator fields are in effect (R215)
  tokens   : Table Nat     -- tokens taken from the buckets and not accrued again (R214): 0 SQC, 1 and 3 D2D to and from the square, 2 and 4 CXL to and from the host, 8 + p GACT of slice p
  tokenAt  : Nat
  capFault : Bool          -- R420
  clearDue : Bool          -- counts to be cleared under R269
  hashAt   : Option Nat    -- last HASH_IMBALANCE (R218)
  holdStart : List Nat     -- crofts whose overdue self-tests each hold a croft-stage start, the next first (R422)
deriving DecidableEq, Repr

/-- A lane group in one direction of a port (R249 to R253). -/
structure Group where
  spares  : Nat
  retired : Bool
  train   : Bool
  expect  : BitVec 8       -- next frame sequence number
  replay  : List (BitVec 8) -- frames kept for replay, at most 64
  fails   : Nat            -- failed replays of the frame expected
  nak     : Option (BitVec 8)   -- the frame that failed its check, until its negative acknowledgement reaches the sender (R250)
  passAt  : Nat
  trainAt : Nat            -- last retraining (R421)
  sample  : Table Int      -- sampling points of its lanes in 1/64 UI (R253)
  idle    : List (Nat × Nat)   -- idle frames inserted in the last 10 µs: time and number (R253)
deriving DecidableEq, Repr

/-- A die-to-die port with its village's identity word (R255, R256) and bell lanes (R261). -/
structure Port where
  groups  : Table Group    -- 16·dir + g
  rot     : BitVec 2
  mir     : Bool
  trained : Bool
  idOk    : Bool
  lost    : Bool
  bellBad : Table Nat      -- failed bell lanes, by direction
deriving DecidableEq, Repr

/-- State of a reeve (R406). -/
inductive ReeveSt where
  | healthy | fallow | halted
deriving DecidableEq, Repr

/-! ### Commands -/

/-- Where a fetched command stands. -/
inductive CmdStage where
  /-- Checked and waiting to begin or to be admitted. -/
  | checked
  /-- A RUN in the admission order. -/
  | ordered
  /-- Begun: its data movement is in progress. -/
  | begun
  /-- In an execution slot. -/
  | inSlot
  /-- Its outcome is decided; its record waits to be written. -/
  | finished
  /-- Its record is among its pair's records to be written. -/
  | recorded
deriving DecidableEq, Repr

/-- A completion record before SQHEAD, TIME and PHASE are known (R319). -/
structure CRec where
  cid    : Nat
  seq    : BitVec 32
  status : BitVec 16
  detail : BitVec 64
  sat    : Bool
  fallback : Bool
  waste  : Nat
  drop   : Nat
  ord    : Nat
  noirq  : Bool
deriving DecidableEq, Repr

/-- A fetched command that has not completed (R312 to R345). -/
structure Cmd where
  id     : Nat
  q      : Nat
  pkt    : BitVec 512
  ext    : List (BitVec 512)
  stage  : CmdStage
  status : BitVec 16
  detail : BitVec 64
  data   : Option (List (Byte × Bool))   -- source bytes that came from the host or a peer, with their poison
  parts  : List (Nat × List (Byte × Bool)) := []   -- those of its requests that have come, by address, while others are outstanding
  began  : Nat
  fetched : Nat
  targets : List Nat       -- ABORT: commands it ended and whose records come first; FENCE: commands it waits for
  done    : Option CRec := none           -- its record, which waits for its writes (R320)
  undo    : Option (Nat × Sess) := none   -- the session slot it committed, as it stood before, until its record is written (R170)
  post    : Option (Nat × Sess) := none   -- the slot it opens, as it will stand once its pages are zero (R158)
  reeve   : Nat := 0       -- the reeve that fetched it (R279, R280)
  bellAt  : Nat := 0       -- when the doorbell that made its entry visible came (R343)
  atOnce  : Bool := false  -- R312 let the reeve fetch it at once then (R343)
  waits   : Bool := false  -- a SESSION_APPEND fetched while an earlier command that names its slot had not completed (R167)
deriving DecidableEq, Repr

/-- The voted queue bases: EN, SQBASE, CQBASE (R385, kind 3). -/
structure QBase where
  en     : Bool
  sqbase : BitVec 64
  cqbase : BitVec 64
deriving DecidableEq, Repr

/-- A queue pair (R308 to R313, R349). -/
structure Queue where
  base    : Tri QBase
  cfg     : BitVec 64      -- bytes 0 to 7 of the entry without EN
  sqhead  : Nat
  cqtail  : Nat
  sqtail  : Nat
  cqhead  : Nat
  phase   : Bool
  faulted : Bool           -- R523
  closing : Bool           -- EN was written 0 and records remain (R309)
  hold    : List CRec      -- records to be written, oldest first; the first may be in flight to the host
  unsig   : Nat            -- records not yet signalled
  unsigAt : Nat
  last    : BitVec 256     -- last-completion record (R348)
  stallAt : Option Nat
  sent    : Bool           -- its first held record is on its way to device memory
  cut     : Bool           -- the command at its head is not wholly visible (R312, R316)
  rung    : List (Nat × Nat × Bool)   -- SQTAIL values written and not yet fetched up to, when, and whether R312 let the reeve fetch at once, oldest first (R343)
deriving DecidableEq, Repr

/-- What a device-issued host or peer access is for (R473 to R475). -/
inductive Purpose where
  | record (q : Nat)
  | event
  | dmaRead (c : CtxId) (id : Nat)
  | dmaWrite (cid : Nat)
  | cmdRead (cid : Nat)
  | cmdWrite (cid : Nat)
deriving DecidableEq, Repr

/-- A device write that waits for BIRsp (R471). -/
inductive BiAct where
  /-- Bytes for the slice, from its offset `off`. -/
  | bytes (off : Nat) (data : List Byte) (poison : Bool) (who : Asker)
  /-- One element of an atomic of engine instruction `id`, its number in its context's order; `back` is where FETCH returns the old
  value. -/
  | atom (c : CtxId) (id addr : Nat) (op : AtomOp) (ty : AtomTy) (operand newVal : BitVec 64) (back : Option Nat) (seq : Nat)
  /-- Contributions of an ended epoch to the line, which wait in their queue (R208). -/
  | staged
deriving DecidableEq, Repr

/-- A line whose back-invalidation is outstanding, or waits for one of the 256 (R471). -/
structure BiWait where
  p    : Nat
  line : Nat                 -- 64 B line of the slice
  act  : BiAct
  at0  : Nat                 -- MODEL: when it began to wait
deriving DecidableEq, Repr

/-- Bytes of a granule that a reeve's read has brought and its command has not used yet: its slice and offset. -/
structure Brought where
  who   : Asker
  p     : Nat
  off   : Nat
  bytes : List (Byte × Bool)
deriving DecidableEq, Repr

/-- The request a device-issued access is made with (R473, R475). -/
inductive ReqKind where
  | rdCurr | rdShared | itoMWr | wrCur | uioRead | uioWrite
deriving DecidableEq, Repr

/-- An outstanding device-issued access. -/
structure HostReq where
  id     : Nat
  peer   : Bool
  kind   : ReqKind
  addr   : Nat
  write  : Bool
  len    : Nat
  data   : List Byte
  poison : Bool
  why    : Purpose
  at0    : Nat
  held   : Bool            -- waits for the link (R467)
deriving DecidableEq, Repr

/-- A message that leaves the QH9. -/
inductive Out where
  | msix (vec : Nat)
  | readData (bytes : List Byte) (poison : Bool)
  | writeDone
  | bisnp (p line : Nat)
  | snoopHit (hit : Bool)
  | i3c (bytes : List Byte)
  | nack
  | ibi (payload : BitVec 32)
  | hotJoin
  | twin (bytes : List Byte)
  | d2dNak (v dir g : Nat) (sn : BitVec 8)
  | mailbox (ok : Bool) (record : BitVec 256)
deriving DecidableEq, Repr

/-! ### Lock-step -/

/-- The search for the first difference (R302): the pair, the hash point, the croft, and the terms asked for: KIND and index. -/
structure Probing where
  k     : Nat
  point : BitVec 32
  e     : Nat
  lc    : Nat
  kind  : Nat
  lo    : Nat
deriving DecidableEq, Repr

/-- The term hashes of one kind of a logical croft, by index (R299, R302). -/
structure KeptTerms where
  lc    : Nat
  kind  : Nat
  terms : List (Nat × BitVec 64)
deriving DecidableEq, Repr

/-- What is kept of a pair that diverged here, for the search of its twin (R302): the pair and its terms. -/
structure Kept where
  k     : Nat
  terms : List KeptTerms
deriving DecidableEq, Repr

/-- The twin side of lock-step (R296 to R305). -/
structure Twin where
  linkUp   : Bool
  armed    : Option Nat
  arming   : Option (Nat × Nat × Nat)   -- command, partition, since
  level    : Option (BitVec 64 × Nat)   -- level of the twin's ARM, and when it came
  nextK    : Nat
  cmds     : List (Nat × Nat × BitVec 16)   -- pairing number, command and opcode of the commands admitted here
  hashes   : List (Nat × BitVec 32 × List (BitVec 64))   -- local hashes at an open hash point
  theirs   : List (Nat × BitVec 32 × List (BitVec 64))
  crecs    : List (Nat × BitVec 128)    -- local completion fields that wait
  theirRec : List (Nat × BitVec 128)
  theirCmd : List (Nat × BitVec 16)
  theirFail : List (Nat × BitVec 64)    -- FAILs for commands not admitted here yet
  waiting  : Option (Nat × Nat)         -- the pair at whose hold a message is expected, and since when (R305)
  heldAt   : Option (Nat × Nat)         -- the pair whose crofts are held at a hash point, and since when (R307)
  kept     : Option Kept                -- the pair that diverged here last
  probing  : Option Probing
  blocked  : Bool                       -- R302: admits nothing further
  record   : BitVec 512                 -- divergence record (R303)
  buffer   : List (List Byte)           -- the 32 messages kept for resending
deriving DecidableEq, Repr

/-! ### Device registers and events -/

/-- An envelope licence as accepted (R425), with its body and signature bytes. -/
structure Licence where
  mask   : BitVec 8
  serial : BitVec 64
  bytes  : List Byte
deriving DecidableEq, Repr

/-- The device registers of R513 to R518. -/
structure Dev where
  errstatus : BitVec 64
  w1c       : BitVec 4       -- DEVSTATUS bits 16 to 19: ALERT, SEVFAULT, SEVDEG, SEVADV
  fatal     : Bool
  critLost  : Bool           -- a critical word was lost (R388)
  leak      : BitVec 12
  evbase    : BitVec 64
  evcfg     : BitVec 64
  evhead    : Nat
  evtail    : Nat
  evphase   : Bool
  evdrop    : Nat            -- events dropped since the last EVENT_LOST
  evq       : List (BitVec 256)   -- MODEL: records that wait while an event record write is in progress
  evSent    : Bool             -- the first of them is on its way to device memory
  eseq      : BitVec 32
  time      : Nat            -- device time (R7)
  timeOn    : Bool           -- device time runs (R487)
  locked    : Bool
  flagged   : Bool
  trim      : Int            -- rate trim of R482, in 1/8 ns per second: R483 moves it by eighths
  trimAcc   : Int            -- MODEL: accumulated trim, in 1/8 of 10⁻⁹ ns
  lastpps   : Nat
  ppsAt     : Option Nat     -- MODEL: when the last accepted edge came, by `now`
  ppsRun    : List Nat       -- device times of consecutive flagged edges, newest first
  when      : Bool           -- THERMCFG.WHEN
  airneed   : BitVec 16
  env       : Nat            -- envelope in force
  envNext   : Nat            -- envelope that takes effect at the next step (R427)
  slotid    : BitVec 3
  fwrel     : BitVec 32
  lic       : Tri (Option Licence)   -- the licence in force (R426, R428), kind 4
  limitAt   : Option Nat     -- last THERMAL_LIMIT (R463)
  msixTable : Table Word
  pba       : Table Bool     -- MSI-X pending bits, by vector (R510)
deriving DecidableEq, Repr

/-- Kind 4: the licence in force and the ENV last set (R428). -/
structure EnvWord where
  lic : Option Licence
  env : Nat
deriving DecidableEq, Repr

/-- Thermal life counters of one village (R454). -/
structure Life where
  hc0 : Nat
  hc1 : Nat
  hc2 : Nat
  hc3 : Nat
  ext : Int
  cand : Int
  up  : Bool
deriving DecidableEq, Repr

/-- Kind 5: the life counters and the powered-on seconds (R455). -/
structure LifeWord where
  v    : Table Life
  secs : Nat
deriving DecidableEq, Repr

/-- Kind 6: the attestation leaf state (R502). -/
structure LeafWord where
  tree  : Nat
  limit : Nat
deriving DecidableEq, Repr

/-- What a kind held before the EEPROM write made last (R387). -/
inductive EepromOld where
  | defects (l : List UnitFault) (rows : List (Nat × Nat × Nat))
  | env (w : EnvWord)
  | life (w : LifeWord)
  | leaf (w : LeafWord)
deriving DecidableEq, Repr

/-- The on-module EEPROM (R385): three copies of each kind it keeps. -/
structure Eeprom where
  defects : Tri (List UnitFault)
  spareRows : Tri (List (Nat × Nat × Nat))   -- rows spared: slice, bank slot, row
  env     : Tri EnvWord
  life    : Tri LifeWord
  leaf    : Tri LeafWord
  keys    : List Byte        -- the read-only region: APK and ENDORSE (R508)
  keysCrc : BitVec 32        -- its CRC-32C
  old     : Option (EepromOld × Nat)   -- MODEL: what the write begun last replaces, and when it began (R387)
deriving DecidableEq, Repr

/-- The fuses (R401, R497, R501, R425). -/
structure Fuses where
  defects  : List UnitFault
  devid    : BitVec 64
  treefuse : BitVec 1024
  roothash : BitVec 256
  seed     : BitVec 256      -- the device seed, which only the signing engine reads (R497)
deriving DecidableEq, Repr

/-- Stage codes of R394. -/
inductive Stage where
  | rom | waitFw | verify | train | selftest | march | retention | fill | floorplan | ready | halt
deriving DecidableEq, Repr

/-- Bring-up and firmware delivery. -/
structure Boot where
  inRange  : Bool            -- the 50 V input is in range
  rails    : Bool            -- the square and management rails are good (R487)
  thermtrip : Bool           -- THERMTRIP# is asserted
  stage    : Stage
  warm     : Bool            -- this bring-up is a warm reset
  retStep  : Nat             -- retention steps done
  rtemp    : List Nat        -- RTEMP0 to RTEMP2
  retShort : Bool
  claim    : Option FwSource
  claimAt  : Nat
  fwSize   : Option Nat      -- of the image being delivered
  image    : List Byte
  lastOff  : Option Nat      -- FWOFF of the previous chunk
  running  : List Byte       -- the image the firmware runs from
  verifyBy : Option FwSource -- the source whose FW_COMMIT is being verified
  fwSeq    : BitVec 32       -- SEQ of a FW_COMMIT that came by the mailbox
  faults   : List UnitFault  -- what this bring-up has found
  badRows  : List (Nat × Nat × Nat)
deriving DecidableEq, Repr

/-- A migration in progress (R415). -/
structure Migration where
  part   : Nat
  i      : Nat
  j      : Nat
  failed : Nat               -- physical croft of the failed slice
  subst  : Nat
  phase2 : Bool
  row    : Nat               -- rows of this phase done
  began  : Nat
deriving DecidableEq, Repr

/-- The floor plan beyond the croft entries (R405 to R409). -/
structure Floor where
  defects : Tri (List UnitFault)    -- runtime defect map, kind 0
  rows    : Tri (List (Nat × Nat × Nat))   -- spared rows of the defect map, kind 0: slice, bank slot, row
  unsaved : Bool                    -- new defects not yet in the EEPROM (R402)
  gen     : Nat
  short   : Bool
  below   : List Nat                -- the counts of R410 that are short: 0 all crofts, 1 + v those of village v, 5 command reeves, 6 reeve 0
  eepromBad : Bool
  lostOver : Bool
  lost    : List (BitVec 32)        -- lost list, LKIND, PART, TID, number as in R409
  home    : Table Nat               -- village + 1 of index i of partition k when it was numbered, at 512·k + i (R162, R163)
  comp    : Tri (Table Nat)         -- croft map, kind 1: physical croft + 1 that computes index i of partition k, at 512·k + i
  data    : Table Nat               -- physical croft + 1 whose slice holds index i of partition k
  slotMap : Table Nat               -- physical croft + 1 whose slice serves device slot s (R187)
  migs    : List Migration
deriving DecidableEq, Repr

/-! ### Heat -/

/-- The thermal controller (R431 to R464). -/
structure Therm where
  last     : Table Int       -- last reading, by sensor number
  lastAt   : Table Nat
  suspect  : Table Bool
  roOff    : Table Int       -- ring-oscillator offsets, in 1/16 K: what service has added to those that SELFTEST measured
  roRun    : Nat             -- MODEL: numbers the SELFTEST of a cold start whose measured offsets are in force (R436)
  pc       : Table Nat       -- croft powers
  pcMin    : Table Nat
  pcMax    : Table Nat
  thChange : Table Bool      -- portions whose θ changed in this rota period
  croftT   : Table Int       -- croft temperatures (R434)
  croftSrc : Table Nat
  cap50    : Table Bool
  tileV    : Table Int       -- sensor values of tiles (R437)
  tileT    : Table Int       -- assigned temperatures
  tileSrc  : Table Nat
  modelled : Table Bool
  dbl      : Table Bool      -- tiles at the doubled interval (R244)
  coolAt   : Table Nat       -- since when a doubled tile is at or below 83 °C
  disAt    : Table Nat       -- since when a croft's sensors differ by more than 5 K, plus 1
  tdisAt   : Table Nat       -- the same for tile sensors (R437)
  canRun   : Nat             -- MODEL: numbers the calibration of the canaries, whose h and f1 to f3 are free values (R439)
  canT     : Table Int       -- recorded T of step k of a tile, at 3·t + k
  canHigh  : Table Nat       -- consecutive high checks of quadrant 4·t + q
  canNow   : Table (Option Int)   -- canary temperature of the latest check
  canOk    : Table Bool
  canH     : Table Nat       -- hold time h of quadrant 4·t + q in ms; 0 before it is set (R439)
  canAt    : Table Nat       -- last check of a quadrant
  canDue   : Table Nat       -- when CE_BUCKET has started a check of a quadrant, plus 1
  theta    : Table Nat       -- θ of portion 4·part + v (R444)
  raised   : Table Bool      -- villages raised in this millisecond
  powers   : List PowerIn    -- measurements of the last 1 ms, newest first (R443)
  vpower   : Table Nat       -- their running averages: villages, module input, square
  modIn    : Nat
  sqPower  : Nat
  vcap     : Table Nat       -- current stack caps
  mcap     : Nat             -- current module cap
  rthj     : Table Nat       -- µK/W
  rthm     : Table Nat
  capAt    : Nat             -- last cap step
  tin      : Int
  tout     : Int
  flow     : Nat
  lowFlow  : Nat             -- consecutive samples below 0.12 L/min
  badFlowAt : Option Nat     -- since when flow is below 0.30 L/min (R447)
  badInletAt : Option Nat    -- since when the inlet is at or above 75 °C (R447)
  goodAt   : Option Nat      -- since when flow and inlet have been in range
  flowOk   : Option Nat      -- since when flow has been at least 0.42 L/min (R449)
  sampleAt : Nat             -- last sample
  modSum   : Nat             -- module input summed over the samples of this second, and their count (R460)
  modN     : Nat
  coolfault : Bool
  flowstop : Bool
  coolSince : Option Nat     -- since when every temperature has been 5 K below its limit
  rota     : Nat             -- rota period k (R453)
  life     : Tri LifeWord
  lifeReset : Bool
  warmhold : Table Bool
  tHist    : List (Nat × Nat × Int)   -- village, time and t of the samples of the last 15 min, newest first (R457)
  hitLast  : List Nat        -- hardware trip conditions that held at the latest sample (R450): croft p, tile 512 + t, square 704
  tripHit  : Bool            -- one of them held at the sample before as well
  vMean    : Table Nat       -- average village powers of the last 10 ms step (R446, R521)
  vSum     : Table Nat       -- village powers summed over the samples since the last cap step, and their count (R446)
  vN       : Nat
  flowAt   : Nat             -- last flow sample
  inletAt  : Nat             -- last coolant temperature sample
  raiseAt  : Nat             -- last limiter raise
  lowerAt  : Table Nat       -- last limiter lowering of a village
  cycAt    : Nat             -- last thermal-cycle sample
  lifeAt   : Nat             -- last EEPROM write of the life counters
deriving DecidableEq, Repr

/-! ### Host link, management, security -/

/-- An HDM decoder (R468, R470). -/
structure Decoder where
  base   : Nat
  size   : Nat
  skip   : Nat
  bi     : Bool
  commit : Bool
  err    : Bool              -- the last commit failed
  dpa    : Nat               -- DPAbase, once committed
deriving DecidableEq, Repr

/-- IDE state (R477, R478, R507). -/
inductive Ide where
  | off | secure | insecure
deriving DecidableEq, Repr

/-- The host port (R465 to R478). -/
structure Link where
  perst    : Bool            -- PERST# is asserted
  up       : Bool
  width    : Nat
  rate     : Nat
  deg      : Bool
  downAt   : Nat
  downEnds : Nat             -- requests ended under R467
  downDone : Bool
  back     : Option (Nat × Nat × List Nat)   -- the link has returned: the outage, the requests it ended, and the commands whose held records come before LINK_DOWN (R467)
  decoders : Table Decoder
  reqs     : List HostReq
  nextReq  : Nat
  hostLines : Table Nat      -- host lines the square cache holds (R473): the number of its last use, plus 1
  portQ    : List PortWait   -- accesses that wait in the host port, oldest first (R214)
  bisn     : List BiWait     -- device writes that wait for BIRsp, oldest first (R471)
  cxlDev   : Table Byte      -- bytes written to the CXL device register block (R510)
  ide      : Ide
  ideKeys  : BitVec 2
  out      : List Out        -- MODEL: messages sent, newest first
deriving DecidableEq, Repr

/-- The response a private read returns (R480). -/
inductive Resp where
  | none | reg (off : Nat) | ack (b : Bool) | fw
deriving DecidableEq, Repr

/-- The I3C target (R479 to R481). -/
structure I3c where
  dyn     : Option (BitVec 7)
  ibiEn   : Bool
  hjEn    : Bool
  hjSent  : Bool
  readyAt : Nat
  mwl     : BitVec 32
  mrl     : BitVec 32
  resp    : Resp
  fwStat  : BitVec 16
  alert   : Bool             -- ALERT# is asserted
  ibis    : List (BitVec 32 × Nat × Nat)   -- payload, tries, time of the last try
deriving DecidableEq, Repr

/-- Attestation (R501 to R509). -/
structure Sec where
  leaf     : Nat             -- next leaf q
  tree     : Nat             -- current tree T
  dead     : Bool            -- no fuse bit remains (R505)
  built    : Bool            -- the level-2 tree is built
  waiting  : List (Nat × List Byte)   -- ATTEST commands that wait for it, with what each has measured (R507)
  ready    : Bool            -- the starting leaf of R503 has been set
deriving DecidableEq, Repr

/-- The sieve of a village: the rounds that hold its two buffers, oldest first (R114). -/
structure SieveSt where
  bufs  : List (Nat × Nat × Nat)   -- partition, slot, round
deriving DecidableEq, Repr

/-- The whole machine. -/
structure State where
  pending : List Instr
  now     : Nat              -- MODEL: nanoseconds since the input came into range
  free    : Nat              -- MODEL: numbers the free values drawn so far
  boot    : Boot
  fuses   : Fuses
  eeprom  : Eeprom
  crofts  : Table Croft
  ls      : List Host.Cell   -- local stores: byte a of croft p at 4,194,304·p + a
  lsPoison : Table Bool      -- poison bits: unit u of croft p at 65,536·p + u
  lsTaint : Table Nat      -- MODEL: of a poisoned unit, the session from whose pages the poison came, plus 1 (R183)
  lsErr   : Table MemErr   -- words of the local stores in error (R52): word w of croft p at 524,288·p + w
  slices  : Table Slice
  mem     : List Host.Cell   -- bytes of the stored code words, ten to a word (R356)
  undef   : List Undef       -- newest first
  shards  : Table Shard      -- descriptor of TID t in slice p at 256·p + t
  sess    : Table Sess
  ptab    : Table (Tri (BitVec 256))   -- partition table (R213)
  parts   : Table Part
  sqc     : List SqLine
  found   : List Found       -- MODEL: errors found and not yet counted
  brought : List Brought     -- MODEL: what the reeves' reads have brought
  uses    : Nat              -- MODEL: numbers the uses of lines of the square cache (R204)
  sieves  : Table SieveSt
  bells   : Table Nat        -- bell b of village v at 1,024·v + b
  bellQ   : List (Nat × Nat × CtxId)   -- bell, count, waiter, in arrival order
  sems    : Table Nat
  semQ    : List (Nat × Nat × CtxId)
  ports   : Table Port
  reeves  : Table ReeveSt
  reeveMem : Table Byte      -- private memories of the reeves: byte a of reeve r at 262,144·r + a (R248)
  reeveErr : Table MemErr    -- words of them in error: word w of reeve r at 32,768·r + w
  fwMem   : Table Byte       -- the 32 MiB of firmware memory the reeves share (R248)
  fwErr   : Table MemErr     -- words of it in error
  queues  : Table Queue
  cmds    : List Cmd         -- fetched and not completed, in fetch order
  nextCmd : Nat
  nextOrd : Nat
  twin    : Twin
  dev     : Dev
  ctr     : Table Nat        -- counters, by 8 B slot of the telemetry space (R519, R520)
  elog    : Table (BitVec 256)   -- error log by ring position (R389)
  elogN   : Nat              -- records written
  sqBucket : Nat             -- the square's error bucket (R373)
  floor   : Floor
  therm   : Therm
  link    : Link
  i3c     : I3c
  sec     : Sec
deriving DecidableEq, Repr

/-! ### Reset values

What an unlisted key of each table reads as, and the machine right after a cold start begins (R392, R394): the 50 V input has
just come into range. A value the spec does not give is a DESIGN CHOICE of log entry 3. -/

def Copy.sound {α : Type} (x : α) : Copy α := ⟨x, false, false⟩

def Tri.same {α : Type} (x : α) : Tri α := ⟨Copy.sound x, Copy.sound x, Copy.sound x⟩

def Ctx.reset : Ctx where
  run := .idle
  lc := 0
  n := 0
  pos := 0
  count := 0
  base := 0
  gend := 0
  inCroft := false
  ended := false
  regs := []
  flags := 0
  sat := false
  args := []
  wait := .none
  since := 0
  held := none
  locked := false
  seq := 0
  unacked := 0
  retired := 0
  rounds := 0
  colls := 0
  bars := []
  cause := 0
  causeAt := 0

/-- A bank that holds no chunk. -/
def Bank.reset : Bank := ⟨0, none, [], [], 0, 0, 0⟩

/-- A croft before the tests of bring-up: the reset column of R407. -/
def Croft.reset : Croft where
  c0 := Ctx.reset
  c1 := Ctx.reset
  engines := []
  nextId := 0
  mma := []
  front := Bank.reset
  back := Bank.reset
  pipe := []
  chunkOrd := 0
  seqAt := 0
  loadAt := 0
  setA := ⟨0, 0⟩
  setB := ⟨0, 0⟩
  acc := []
  accBad := []
  hold := none
  badLanes := []
  rot := 0
  pendRot := 0
  rotLate := 0
  pendBad := []
  mhz := 400
  stepAt := 0
  stretch := false
  droopThr := 0
  droopAt := 0
  testAt := 0
  overdue := false
  heater := false
  heatAt := 0
  cstate := .active
  fused := false
  testFail := false
  svcFail := false
  mig := false
  inPart := false
  part := 0
  pidx := 0
  partner := 0xFFFF
  migRow := 0
  dirty := []
  remote := []

def SubCh.reset : SubCh where
  width := .full
  spUsed := 0
  badLink := []
  viaBad := []
  casp := 0
  clkSp := false
  margin := false
  warned := []
  lowRuns := []
  suspect := []
  hits := []
  held := false
  heldAt := 0
  passAt := 0
  trimAt := 0
  trainAt := 0
  early := false
  queue := []
  sent := []
  resend := []
  tries := 0
  beats := []
  sample := []

/-- The mapping of a slice that joins no partition's own values: PSALT, TBL and SPOOL all 0 (R215). -/
def SliceMap.reset : SliceMap := ⟨0xF, 0, 0, 0⟩

def Slice.reset : Slice where
  u0 := SubCh.reset
  u1 := SubCh.reset
  u2 := SubCh.reset
  u3 := SubCh.reset
  map := SliceMap.reset
  lost := false
  glFallow := 0
  chainSp := 0
  chainData := 0
  gl := []
  glNext := 0
  glUnits := []
  wcb := []
  mgb := []
  bucket := 0
  track := []
  sweep := 0
  sweepAt := 0
  sweepLate := false
  spares := []
  spCount := []
  spExh := []
  refPend := []
  refRow := []
  bi := []
  gran := []
  winAt := 0
  noted := []
  confirmed := []
  imbal := 0
  share := (0, 0)

/-- The reset column of R122. -/
def Shard.reset : Shard := ⟨0, false, 0, 0, 0, 0, 0, 0, 0, 0⟩

/-- The reset column of R156: a FREE slot. -/
def Sess.reset : Sess := ⟨0, 0, false, 0, 0, false, 0, 0, 0, 0, 0, 0, 0⟩

/-- The rate and burst fields of R213 at reset: 0x400 and 0x10 for SQC, D2D and CXL; 0x300 and 0x04 for GACT. -/
def ptabRates : BitVec 256 :=
  BitVec.ofNat 256 (0x400 * 2 ^ 128 + 0x10 * 2 ^ 144 + 0x400 * 2 ^ 160 + 0x10 * 2 ^ 176 +
    0x400 * 2 ^ 192 + 0x10 * 2 ^ 208 + 0x300 * 2 ^ 224 + 0x04 * 2 ^ 240)

/-- R213: entry 0 is valid and holds every hamlet; entries 1 to 7 are invalid. -/
def ptabReset (k : Nat) : Tri (BitVec 256) :=
  Tri.same (if k = 0 then ptabRates ||| 0xFFFF01#256 else ptabRates)

def Slot.reset : Slot := ⟨none, [], none, [], [], [], []⟩

def Part.reset : Part where
  s0 := Slot.reset
  s1 := Slot.reset
  adm := []
  relaxed := false
  rates := ptabRates
  tokens := []
  tokenAt := 0
  capFault := false
  clearDue := false
  hashAt := none
  holdStart := []

def Group.reset : Group := ⟨0, false, false, 0, [], 0, none, 0, 0, [], []⟩

def Port.reset : Port := ⟨[], 0, false, false, false, false, []⟩

/-- The reset column of R308. -/
def Queue.reset : Queue where
  base := Tri.same ⟨false, 0, 0⟩
  cfg := 0
  sqhead := 0
  cqtail := 0
  sqtail := 0
  cqhead := 0
  phase := true
  faulted := false
  closing := false
  hold := []
  unsig := 0
  unsigAt := 0
  last := 0
  stallAt := none
  sent := false
  cut := false
  rung := []

def Twin.reset : Twin where
  linkUp := false
  armed := none
  arming := none
  level := none
  nextK := 0
  cmds := []
  hashes := []
  theirs := []
  crecs := []
  theirRec := []
  theirCmd := []
  theirFail := []
  waiting := none
  heldAt := none
  kept := none
  probing := none
  blocked := false
  record := 0
  buffer := []

/-- The reset columns of R514 to R518. -/
def Dev.reset : Dev where
  errstatus := 0
  w1c := 0
  fatal := false
  critLost := false
  leak := 0x00A
  evbase := 0
  evcfg := 0
  evhead := 0
  evtail := 0
  evphase := true
  evdrop := 0
  evq := []
  evSent := false
  eseq := 0
  time := 0
  timeOn := false
  locked := false
  flagged := false
  trim := 0
  trimAcc := 0
  lastpps := 0
  ppsAt := none
  ppsRun := []
  when := true
  airneed := 0
  env := 3
  envNext := 3
  slotid := 0
  fwrel := 0
  lic := Tri.same none
  limitAt := none
  msixTable := []
  pba := []

def Life.reset : Life := ⟨0, 0, 0, 0, 0, 0, true⟩

def Eeprom.reset : Eeprom where
  defects := Tri.same []
  spareRows := Tri.same []
  env := Tri.same ⟨none, 3⟩
  life := Tri.same ⟨[], 0⟩
  leaf := Tri.same ⟨0, 0⟩
  keys := Config.keys
  keysCrc := Config.keysCrc
  old := none

/-- R501: manufacture burns bit 0 of TREEFUSE. -/
def Fuses.reset : Fuses := ⟨[], 0, 1, 0, 0⟩

def Boot.reset : Boot where
  inRange := true
  rails := false
  thermtrip := false
  stage := .rom
  warm := false
  retStep := 0
  rtemp := []
  retShort := false
  claim := none
  claimAt := 0
  fwSize := none
  image := []
  lastOff := none
  running := []
  verifyBy := none
  fwSeq := 0
  faults := []
  badRows := []

def Floor.reset : Floor where
  defects := Tri.same []
  rows := Tri.same []
  unsaved := false
  gen := 0
  short := false
  below := []
  eepromBad := false
  lostOver := false
  lost := []
  home := []
  comp := Tri.same []
  data := []
  slotMap := []
  migs := []

/-- R446: rthj starts at 0.150 K/W and rthm at 0.120 K/W; R444: θ is 0 at every reset. -/
def Therm.reset : Therm where
  last := []
  lastAt := []
  suspect := []
  roOff := []
  roRun := 0
  pc := []
  pcMin := []
  pcMax := []
  thChange := []
  croftT := []
  croftSrc := []
  cap50 := []
  tileV := []
  tileT := []
  tileSrc := []
  modelled := []
  dbl := []
  coolAt := []
  disAt := []
  tdisAt := []
  canRun := 0
  canT := []
  canHigh := []
  canNow := []
  canOk := []
  canH := []
  canAt := []
  canDue := []
  theta := []
  raised := []
  powers := []
  vpower := []
  modIn := 0
  sqPower := 0
  vcap := []
  mcap := 700000
  rthj := []
  rthm := []
  capAt := 0
  tin := 0
  tout := 0
  flow := 0
  lowFlow := 0
  badFlowAt := none
  badInletAt := none
  goodAt := none
  flowOk := none
  sampleAt := 0
  modSum := 0
  modN := 0
  coolfault := false
  flowstop := false
  coolSince := none
  rota := 0
  life := Tri.same ⟨[], 0⟩
  lifeReset := false
  warmhold := []
  tHist := []
  hitLast := []
  tripHit := false
  vMean := []
  vSum := []
  vN := 0
  flowAt := 0
  inletAt := 0
  raiseAt := 0
  lowerAt := []
  cycAt := 0
  lifeAt := 0

def Decoder.reset : Decoder := ⟨0, 0, 0, false, false, false, 0⟩

/-- PERST# reads low, asserted, until the host drives it: its contact is pulled down (R488, R492). -/
def Link.reset : Link where
  perst := true
  up := false
  width := 0
  rate := 0
  deg := false
  downAt := 0
  downEnds := 0
  downDone := false
  back := none
  decoders := []
  reqs := []
  nextReq := 0
  hostLines := []
  portQ := []
  bisn := []
  cxlDev := []
  ide := .off
  ideKeys := 0
  out := []

/-- R479: the write length of the port is 1,048,589 B. -/
def I3c.reset : I3c where
  dyn := none
  ibiEn := true
  hjEn := true
  hjSent := false
  readyAt := 0
  mwl := 1048589
  mrl := 8
  resp := .none
  fwStat := 0
  alert := false
  ibis := []

def Sec.reset : Sec := ⟨0, 0, false, false, [], false⟩

/-- The machine right after reset: a cold start has begun with the values the spec states (R392 to R394, R513). -/
def State.reset : State where
  pending := []
  now := 0
  free := 0
  boot := Boot.reset
  fuses := Fuses.reset
  eeprom := Eeprom.reset
  crofts := []
  ls := []
  lsPoison := []
  lsTaint := []
  lsErr := []
  slices := []
  mem := []
  undef := []
  shards := []
  sess := []
  ptab := []
  parts := []
  sqc := []
  found := []
  brought := []
  uses := 0
  sieves := []
  bells := []
  bellQ := []
  sems := []
  semQ := []
  ports := []
  reeves := []
  reeveMem := []
  reeveErr := []
  fwMem := []
  fwErr := []
  queues := []
  cmds := []
  nextCmd := 0
  nextOrd := 0
  twin := Twin.reset
  dev := Dev.reset
  ctr := []
  elog := []
  elogN := 0
  sqBucket := 0
  floor := Floor.reset
  therm := Therm.reset
  link := Link.reset
  i3c := I3c.reset
  sec := Sec.reset

end Sys2Proof.Machine
end

