-- ==== Sys2Proof/Machine/Map.lean ====
section
/-! DEFINITION. Reading and writing the sparse tables. `d k` is what an unlisted key `k` reads as. A write keeps the canonical
form: keys strictly rising and no entry equal to what its key would read as unlisted. -/

namespace Sys2Proof.Machine

/-- The value at key `k`. -/
def tget {α : Type} (d : Nat → α) : Table α → Nat → α
  | [], k => d k
  | (j, v) :: r, k => if j = k then v else tget d r k

/-- The table without key `k`. -/
def tdel {α : Type} (t : Table α) (k : Nat) : Table α := t.filter fun e => e.1 != k

/-- The table with an entry put in before the first key above `k`. -/
def tins {α : Type} : Table α → Nat → α → Table α
  | [], k, v => [(k, v)]
  | (j, w) :: r, k, v => if k < j then (k, v) :: (j, w) :: r else (j, w) :: tins r k v

/-- The table with `v` at key `k`. -/
def tset {α : Type} [DecidableEq α] (d : Nat → α) (t : Table α) (k : Nat) (v : α) : Table α :=
  if v = d k then tdel t k else tins (tdel t k) k v

/-- Keys strictly rising from above `lo`, none listed with its unlisted value. -/
def tableWfFrom {α : Type} [DecidableEq α] (d : Nat → α) : Nat → Table α → Bool
  | _, [] => true
  | lo, (k, v) :: r => decide (lo ≤ k) && decide (v ≠ d k) && tableWfFrom d (k + 1) r

/-- The canonical form of a table. -/
def tableWf {α : Type} [DecidableEq α] (d : Nat → α) (t : Table α) : Bool := tableWfFrom d 0 t

/-- Write consecutive keys from `k`. -/
def tsetList {α : Type} [DecidableEq α] (d : Nat → α) (t : Table α) : Nat → List α → Table α
  | _, [] => t
  | k, v :: vs => tsetList d (tset d t k v) (k + 1) vs

/-- Read `n` consecutive keys from `k`. -/
def tgetList {α : Type} (d : Nat → α) (t : Table α) : Nat → Nat → List α
  | _, 0 => []
  | k, n + 1 => tget d t k :: tgetList d t (k + 1) n

/-- Write listed cells. -/
def tsetCells {α : Type} [DecidableEq α] (d : Nat → α) (t : Table α) (cs : List (Nat × α)) : Table α :=
  cs.foldl (fun t c => tset d t c.1 c.2) t

def zero8 (_ : Nat) : Byte := 0
def zeroN (_ : Nat) : Nat := 0
def zeroI (_ : Nat) : Int := 0
def zeroB (_ : Nat) : Bool := false
def zeroW (_ : Nat) : Word := 0

end Sys2Proof.Machine
end

