-- ==== Sys2Proof/Machine/Ops.lean ====
section
/-! DEFINITION. The named operations over the state: reading and changing one unit, the counters, the free values, and the
partition's view of its crofts and slices. -/

namespace Sys2Proof.Machine

/-! ### What an unlisted key reads as -/

def croft0 (_ : Nat) : Croft := Croft.reset
def slice0 (_ : Nat) : Slice := Slice.reset
def shard0 (_ : Nat) : Shard := Shard.reset
def sess0 (_ : Nat) : Sess := Sess.reset
def part0 (_ : Nat) : Part := Part.reset
def port0 (_ : Nat) : Port := Port.reset
def group0 (_ : Nat) : Group := Group.reset
def queue0 (_ : Nat) : Queue := Queue.reset
def reeve0 (_ : Nat) : ReeveSt := .healthy
def sieve0 (_ : Nat) : SieveSt := ⟨[]⟩
def word0 (_ : Nat) : BitVec 32 := 0
def elog0 (_ : Nat) : BitVec 256 := 0
def life0 (_ : Nat) : Life := Life.reset
def decoder0 (_ : Nat) : Decoder := Decoder.reset
def glUnit0 (_ : Nat) : GlUnit := ⟨0, 0, none, none, []⟩
def bar0 (_ : Nat) : Bar := ⟨0, 0, []⟩
def memErr0 (_ : Nat) : MemErr := .sound
def pair0 (_ : Nat) : Nat × Nat := (0, 0)

/-! ### Units -/

def State.croft (s : State) (p : Nat) : Croft := tget croft0 s.crofts p
def State.slice (s : State) (p : Nat) : Slice := tget slice0 s.slices p
def State.part (s : State) (k : Nat) : Part := tget part0 s.parts k
def State.queue (s : State) (q : Nat) : Queue := tget queue0 s.queues q
def State.port (s : State) (v : Nat) : Port := tget port0 s.ports v
def State.shard (s : State) (p t : Nat) : Shard := tget shard0 s.shards (256 * p + t)
def State.ses (s : State) (i : Nat) : Sess := tget sess0 s.sess i
def State.reeve (s : State) (r : Nat) : ReeveSt := tget reeve0 s.reeves r
def State.sieve (s : State) (v : Nat) : SieveSt := tget sieve0 s.sieves v

def setCroft (s : State) (p : Nat) (c : Croft) : State := { s with crofts := tset croft0 s.crofts p c }
def setSlice (s : State) (p : Nat) (x : Slice) : State := { s with slices := tset slice0 s.slices p x }
def setPart (s : State) (k : Nat) (x : Part) : State := { s with parts := tset part0 s.parts k x }
def setQueue (s : State) (q : Nat) (x : Queue) : State := { s with queues := tset queue0 s.queues q x }
def setPort (s : State) (v : Nat) (x : Port) : State := { s with ports := tset port0 s.ports v x }
def setShard (s : State) (p t : Nat) (x : Shard) : State := { s with shards := tset shard0 s.shards (256 * p + t) x }
def setSes (s : State) (i : Nat) (x : Sess) : State := { s with sess := tset sess0 s.sess i x }
def setReeve (s : State) (r : Nat) (x : ReeveSt) : State := { s with reeves := tset reeve0 s.reeves r x }
def setSieve (s : State) (v : Nat) (x : SieveSt) : State := { s with sieves := tset sieve0 s.sieves v x }

def modCroft (s : State) (p : Nat) (f : Croft → Croft) : State := setCroft s p (f (s.croft p))
def modSlice (s : State) (p : Nat) (f : Slice → Slice) : State := setSlice s p (f (s.slice p))
def modPart (s : State) (k : Nat) (f : Part → Part) : State := setPart s k (f (s.part k))
def modQueue (s : State) (q : Nat) (f : Queue → Queue) : State := setQueue s q (f (s.queue q))
def modPort (s : State) (v : Nat) (f : Port → Port) : State := setPort s v (f (s.port v))
def modSes (s : State) (i : Nat) (f : Sess → Sess) : State := setSes s i (f (s.ses i))

/-- Lane group `g` of direction `dir` of a port (R249). -/
def Port.group (x : Port) (dir g : Nat) : Group := tget group0 x.groups (16 * dir + g)

def modGroup (s : State) (v dir g : Nat) (f : Group → Group) : State :=
  modPort s v fun x => { x with groups := tset group0 x.groups (16 * dir + g) (f (x.group dir g)) }

/-- Sub-channel `u` of a slice. -/
def Slice.sub (x : Slice) (u : Nat) : SubCh :=
  if u = 0 then x.u0 else if u = 1 then x.u1 else if u = 2 then x.u2 else x.u3

def Slice.setSub (x : Slice) (u : Nat) (y : SubCh) : Slice :=
  if u = 0 then { x with u0 := y } else if u = 1 then { x with u1 := y } else if u = 2 then { x with u2 := y }
  else { x with u3 := y }

def modSub (s : State) (p u : Nat) (f : SubCh → SubCh) : State := modSlice s p fun x => x.setSub u (f (x.sub u))

/-- Execution slot `e` of a partition (R328). -/
def Part.slot (x : Part) (e : Nat) : Slot := if e = 0 then x.s0 else x.s1

def Part.setSlot (x : Part) (e : Nat) (y : Slot) : Part := if e = 0 then { x with s0 := y } else { x with s1 := y }

def State.slot (s : State) (k e : Nat) : Slot := (s.part k).slot e

def modSlot (s : State) (k e : Nat) (f : Slot → Slot) : State := modPart s k fun x => x.setSlot e (f (x.slot e))

/-- Execution context `e` of a croft (R324). -/
def Croft.ctx (x : Croft) (e : Nat) : Ctx := if e = 0 then x.c0 else x.c1

def Croft.setCtx (x : Croft) (e : Nat) (y : Ctx) : Croft := if e = 0 then { x with c0 := y } else { x with c1 := y }

def State.ctx (s : State) (c : CtxId) : Ctx := (s.croft c.p).ctx c.e

def setCtx (s : State) (c : CtxId) (y : Ctx) : State := modCroft s c.p fun x => x.setCtx c.e y

def modCtx (s : State) (c : CtxId) (f : Ctx → Ctx) : State := setCtx s c (f (s.ctx c))

/-- Scalar register `i` of a context (R23). -/
def Ctx.reg (x : Ctx) (i : Nat) : Word := tget zeroW x.regs i

def Ctx.setReg (x : Ctx) (i : Nat) (v : Word) : Ctx := { x with regs := tset zeroW x.regs i v }

/-! ### Counters (R520): `s.ctr` holds the counter at byte 8·k of the telemetry space under key `k` -/

def ctrErr (i : Nat) : Nat := i
def ctrDev (i : Nat) : Nat := 24 + i
def ctrSquare (i : Nat) : Nat := 64 + i
def ctrVillage (v i : Nat) : Nat := 1536 + 8 * v + i
def ctrSieve (v i : Nat) : Nat := 1568 + 8 * v + i
def ctrPort (v dir i : Nat) : Nat := 1600 + 8 * (2 * v + dir) + i
def ctrPart (k i : Nat) : Nat := 1664 + 16 * k + i
def ctrReeve (r : Nat) : Nat := 1792 + r
def ctrCroft (p i : Nat) : Nat := 8192 + 16 * p + i
def ctrQueue (q i : Nat) : Nat := 16384 + 4 * q + i
def ctrSlice (p i : Nat) : Nat := 32768 + 64 * p + i

/-- Add `n` to counter `k`. -/
def bump (s : State) (k n : Nat) : State := { s with ctr := tset zeroN s.ctr k (tget zeroN s.ctr k + n) }

/-- Take `n` from counter `k`, stopping at 0 (R373 withdraws corrections from CE_COUNT). -/
def unbump (s : State) (k n : Nat) : State := { s with ctr := tset zeroN s.ctr k (tget zeroN s.ctr k - n) }

/-! ### Free values -/

/-- The next free value of a run, `w` bits wide (log entry 4). -/
def freeVal (w : Nat) (s : State) : BitVec w := Config.freeBits w s.free

/-- The state after a free value is drawn. -/
def drew (s : State) : State := { s with free := s.free + 1 }

/-! ### Copies in threes (R385, R386) -/

/-- The value two copies agree on, copies that decode as uncorrectable taking no part. -/
def Tri.vote {α : Type} [DecidableEq α] (t : Tri α) : Option α :=
  if t.c0.bad = false ∧ t.c1.bad = false ∧ t.c0.val = t.c1.val then some t.c0.val
  else if t.c0.bad = false ∧ t.c2.bad = false ∧ t.c0.val = t.c2.val then some t.c0.val
  else if t.c1.bad = false ∧ t.c2.bad = false ∧ t.c1.val = t.c2.val then some t.c1.val
  else none

/-- The value in use: the voted one, or copy 0's when the vote fails. -/
def Tri.use {α : Type} [DecidableEq α] (t : Tri α) : α := t.vote.getD t.c0.val

/-- Copies that a vote rewrites. -/
def Tri.stale {α : Type} [DecidableEq α] (t : Tri α) : Nat :=
  match t.vote with
  | none => 0
  | some v => ([t.c0, t.c1, t.c2].filter fun c => c.bad ∨ c.val ≠ v).length

/-! ### Partitions -/

/-- The table entry of a partition (R213). -/
def State.pent (s : State) (k : Nat) : BitVec 256 := (tget ptabReset s.ptab k).use

def pentValid (w : BitVec 256) : Bool := w.getLsbD 0
def pentRelaxed (w : BitVec 256) : Bool := w.getLsbD 1
/-- CLEVEL (R346). -/
def pentLevel (w : BitVec 256) : Bool := w.getLsbD 2
def pentMask (w : BitVec 256) : BitVec 16 := w.extractLsb' 8 16
def pentSalt (w : BitVec 256) : BitVec 32 := w.extractLsb' 32 32
def pentTbl (w : BitVec 256) : Nat := (w.extractLsb' 64 9).toNat
def pentSpool (w : BitVec 256) : Nat := (w.extractLsb' 96 19).toNat

/-- RATE of regulator `i` (0 SQC, 1 D2D, 2 CXL, 3 GACT). -/
def pentRate (w : BitVec 256) (i : Nat) : Nat := (w.extractLsb' (128 + 32 * i) 11).toNat
/-- BURST of regulator `i`. -/
def pentBurst (w : BitVec 256) (i : Nat) : Nat := (w.extractLsb' (144 + 32 * i) 8).toNat

/-- Device hamlet of a physical croft (R4). -/
def hamletOf (p : Nat) : Nat := p / 32

/-- Village of a physical croft (R4). -/
def villageOf (p : Nat) : Nat := p / 128

/-- The first partition whose entry is valid and holds the croft's hamlet, looking at `n` more from `k`. -/
def partFrom (s : State) (p k : Nat) : Nat → Option Nat
  | 0 => none
  | n + 1 => if pentValid (s.pent k) ∧ (pentMask (s.pent k)).getLsbD (hamletOf p) then some k else partFrom s p (k + 1) n

/-- The valid partition that holds a croft's hamlet (R212). -/
def partOf (s : State) (p : Nat) : Option Nat := partFrom s p 0 8

/-- Physical croft that computes index `i` of partition `k`. -/
def computeOf (s : State) (k i : Nat) : Option Nat :=
  match tget zeroN s.floor.comp.use (512 * k + i) with
  | 0 => none
  | p + 1 => some p

/-- Physical croft whose slice holds index `i` of partition `k` (R417, R418). -/
def dataOf (s : State) (k i : Nat) : Option Nat :=
  match tget zeroN s.floor.data (512 * k + i) with
  | 0 => none
  | p + 1 => some p

/-- Np: the crofts numbered in the partition (R163, R186); a croft that fails in service keeps its number. -/
def partN (s : State) (k : Nat) : Nat := (s.floor.home.filter fun e => decide (512 * k ≤ e.1 ∧ e.1 < 512 * k + 512)).length

/-- Partition croft index of a slice (R163). -/
def indexOf (s : State) (k p : Nat) : Option Nat := (List.range 512).find? fun i => dataOf s k i == some p

/-- The slice that serves device slot `d` (R187). -/
def slotSlice (s : State) (d : Nat) : Option Nat :=
  match tget zeroN s.floor.slotMap d with
  | 0 => none
  | p + 1 => some p

/-- The device slot a slice serves. -/
def sliceSlot (s : State) (p : Nat) : Option Nat := (List.range 512).find? fun d => slotSlice s d == some p

/-- Device physical address of a slice offset, 0 when the slice serves no slot. -/
def dpaOf (s : State) (p off : Nat) : Nat :=
  match sliceSlot s p with
  | some d => d * Config.sliceBytes + off
  | none => 0

/-! ### Little things -/

/-- Ceiling of a quotient. -/
def cdiv (a b : Nat) : Nat := (a + b - 1) / b

/-- The bits of a number from `lo`, `n` of them. -/
def bitsOf (x lo n : Nat) : Nat := x / 2 ^ lo % 2 ^ n

/-- Insert in rising order of a key, before equal keys. -/
def insertBy {α : Type} (key : α → Nat) (x : α) : List α → List α
  | [] => [x]
  | y :: ys => if key y < key x then y :: insertBy key x ys else x :: y :: ys

/-- Stable sort by rising key. -/
def sortBy {α : Type} (key : α → Nat) : List α → List α
  | [] => []
  | x :: xs => insertBy key x (sortBy key xs)

/-- Update the elements of a list that satisfy a test. -/
def mapIf {α : Type} (t : α → Bool) (f : α → α) (l : List α) : List α := l.map fun x => if t x then f x else x

/-- The message leaves the QH9 (newest first). -/
def emit (s : State) (m : Out) : State := { s with link := { s.link with out := m :: s.link.out } }

/-- What an unlisted word of the MSI-X table reads as: an entry whose vector control masks it, as PCIe resets it (log entry 16). -/
def msix0 (i : Nat) : Word := if i % 2 = 1 then 0x100000000 else 0

/-- Whether the host has masked a vector. -/
def msixMasked (s : State) (v : Nat) : Bool := (tget msix0 s.dev.msixTable (2 * v + 1)).getLsbD 32

/-- An MSI-X message of a vector; it stays pending while its entry is masked (R510; log entry 16). -/
def sendMsix (s : State) (v : Nat) : State :=
  if msixMasked s v then { s with dev := { s.dev with pba := tset zeroB s.dev.pba v true } } else emit s (.msix v)

/-- Whether the link is down: records and events are held (R467). -/
def linkHeld (s : State) : Bool := !s.link.up && s.link.width != 0

/-- The request an access is made with (R473, R475): host memory is read with RdCurr, and written with ItoMWr where whole 64 B lines are written.
The lines of submission rings, which COMMAND_FETCH reads with RdShared, are no access of this kind. -/
def reqKind (peer : Bool) (addr : Nat) (write : Bool) (len : Nat) : ReqKind :=
  if peer then (if write then .uioWrite else .uioRead)
  else if !write then .rdCurr
  else if addr % 64 == 0 && len % 64 == 0 then .itoMWr else .wrCur

/-- Issue an access to host memory or a peer (R473 to R475); it waits while the link is down (R467). -/
def hostAccess (s : State) (peer : Bool) (addr : Nat) (write : Bool) (len : Nat) (data : List Byte) (poison : Bool)
    (why : Purpose) : State :=
  { s with link := { s.link with
      reqs := s.link.reqs ++ [⟨s.link.nextReq, peer, reqKind peer addr write len, addr, write, len, data, poison, why, s.now, !s.link.up⟩]
      nextReq := s.link.nextReq + 1 } }

/-- GEN rises by 1 at a change to the floor-plan record (R405). -/
def genUp (s : State) : State := { s with floor := { s.floor with gen := s.floor.gen + 1 } }

/-- The village, DRAM and square logic rails are good from 8 ms on, and PWRGD is high from 9 ms on (R487). -/
def logicRails (s : State) : Bool := s.boot.rails && decide (8000000 ≤ s.now)

def pwrgd (s : State) : Bool := s.boot.rails && decide (9000000 ≤ s.now)

end Sys2Proof.Machine
end

