-- ==== Sys2Proof/Machine/Ecc.lean ====
section
/-! DEFINITION. The [80,64] code of R356 to R363, and the CRCs of the part. A stored code word is 80 bits: d0 to d63 in bits 0
to 63 and k0 to k15 in bits 64 to 79. -/

namespace Sys2Proof.Machine

/-- A location: bank slot (layer·8 + bank), row before sparing, 32 B column, code word of the column (R358). -/
structure Loc where
  k   : Nat
  row : Nat
  col : Nat
  w   : Nat
deriving DecidableEq, Repr

/-- The 28-bit location L (R358): layer, bank, row, column, code word. -/
def Loc.bits (l : Loc) : Nat := l.k * 2 ^ 21 + l.row % 8192 * 2 ^ 8 + l.col * 4 + l.w

/-- Exclusive-or of the low `n` bits of a number. -/
def parity (x : Nat) : Nat → Bool
  | 0 => false
  | n + 1 => xor (x.testBit n) (parity x n)

/-- AG (R358). -/
def addrGuard (l : Loc) : Bool := parity l.bits 28

/-- One step of the division by g(x) = 0x4377 (R357). -/
def gStep (r : Nat) (b : Bool) : Nat :=
  let t := 2 * r + b.toNat
  if 2 ^ 14 ≤ t then t ^^^ 0x4377 else t

/-- The remainder modulo g(x) of the `n` low coefficients of a polynomial. -/
def gRem (c : Nat) : Nat → Nat → Nat
  | 0, r => r
  | n + 1, r => gRem c n (gStep r (c.testBit n))

/-- x^j mod g(x) for j from 0 to 77. -/
def gPow : Nat → Nat
  | 0 => 1
  | j + 1 => gStep (gPow j) false

/-- x^j mod g(x) for `n` rising j, from `r`. -/
def gPows : Nat → Nat → List Nat
  | 0, _ => []
  | n + 1, r => r :: gPows n (gStep r false)

/-- The first position that holds `x`, counting from `i`. -/
def findPos (x : Nat) : List Nat → Nat → Option Nat
  | [], _ => none
  | y :: ys, i => if x = y then some i else findPos x ys (i + 1)

/-- The first pair of positions whose powers sum to `x`. -/
def findPair (x : Nat) : List Nat → Nat → Option (Nat × Nat)
  | [], _ => none
  | y :: ys, i =>
    match findPos (x ^^^ y) ys (i + 1) with
    | some j => some (i, j)
    | none => findPair x ys (i + 1)

/-- The check bits k0 to k13 of data (R357). -/
def bchBits (d : BitVec 64) : Nat := gRem (d.toNat * 2 ^ 14) 78 0

/-- The word stored for data at a location (R356 to R358). -/
def encodeWord (l : Loc) (d : BitVec 64) : BitVec 80 :=
  let low := d.toNat + bchBits d * 2 ^ 64
  let ag := addrGuard l
  let p := xor (parity low 78) ag
  BitVec.ofNat 80 (low + p.toNat * 2 ^ 78 + ag.toNat * 2 ^ 79)

/-- A marked word (R363): data zero, BCH bits `mark`, AG of the location and P its inverse. -/
def markedWord (l : Loc) (mark : Nat) : BitVec 80 :=
  let ag := addrGuard l
  BitVec.ofNat 80 (mark * 2 ^ 64 + (!ag).toNat * 2 ^ 78 + ag.toNat * 2 ^ 79)

def neverWord (l : Loc) : BitVec 80 := markedWord l 3
def poisonWord (l : Loc) : BitVec 80 := markedWord l 5

/-- Positions 0 to 77 of the code polynomial: k0 to k13, then d0 to d63 (R357). -/
def codePoly (c : BitVec 80) : Nat := bitsOf c.toNat 64 14 + bitsOf c.toNat 0 64 * 2 ^ 14

/-- The syndrome of R359. -/
def syndrome (l : Loc) (c : BitVec 80) : BitVec 16 :=
  let s := gRem (codePoly c) 78 0
  let p := parity c.toNat 80
  let a := xor (c.getLsbD 79) (addrGuard l)
  BitVec.ofNat 16 (s + p.toNat * 2 ^ 14 + a.toNat * 2 ^ 15)

/-- Class of a word read at a location (R360). -/
inductive WClass where
  | clean
  /-- Correctable; the bits corrected, numbered as BIT0 and BIT1 of R389. -/
  | corr (b0 : Nat) (b1 : Option Nat)
  | uncorr | guard | never | poison
deriving DecidableEq, Repr

/-- The word bit that position `j` of the code polynomial is (R357), numbered as in R389. -/
def posBit (j : Nat) : Nat := if j < 14 then 64 + j else j - 14

/-- The class of a word with a non-zero syndrome that is no marked word: the table of R360. -/
def classTable (s : Nat) (p a : Bool) : WClass :=
  if s = 0 then
    match p, a with
    | false, true => .guard
    | true, false => .corr 78 none
    | true, true => .corr 79 none
    | false, false => .clean
  else
    match findPos s (gPows 78 1) 0 with
    | some j =>
      match p, a with
      | true, false => .corr (posBit j) none
      | true, true => .guard
      | false, false => .corr (posBit j) (some 78)
      | false, true => .corr (posBit j) (some 79)
    | none =>
      match findPair s (gPows 78 1) 0 with
      | some (i, j) => if p = false ∧ a = false then .corr (posBit i) (some (posBit j)) else .uncorr
      | none => .uncorr

/-- The class of a word (R360, R363). -/
def classify (l : Loc) (c : BitVec 80) : WClass :=
  let y := syndrome l c
  if y = 0 then .clean
  else if c = neverWord l then .never
  else if c = poisonWord l then .poison
  else classTable (y.extractLsb' 0 14).toNat (y.getLsbD 14) (y.getLsbD 15)

/-- The word with bit `i` inverted. -/
def flipBit (c : BitVec 80) (i : Nat) : BitVec 80 := c ^^^ BitVec.twoPow 80 i

/-- The word as corrected under its class. -/
def WClass.fix (k : WClass) (c : BitVec 80) : BitVec 80 :=
  match k with
  | .corr b0 none => flipBit c b0
  | .corr b0 (some b1) => flipBit (flipBit c b0) b1
  | _ => c

/-- The data bits of a word. -/
def wordData (c : BitVec 80) : BitVec 64 := c.extractLsb' 0 64

/-! ### CRCs -/

/-- One bit of a reflected CRC with polynomial `poly`. -/
def crcBits (poly : Nat) : Nat → Nat → Nat
  | 0, c => c
  | n + 1, c => crcBits poly n (if c % 2 = 1 then (c / 2) ^^^ poly else c / 2)

/-- A reflected CRC over bytes. -/
def crcFold (poly : Nat) (c : Nat) (bs : List Byte) : Nat := bs.foldl (fun c b => crcBits poly 8 (c ^^^ b.toNat)) c

/-- CRC-32C (R385, R480): the Castagnoli polynomial, reflected, initial and final value all ones. -/
def crc32c (bs : List Byte) : BitVec 32 := BitVec.ofNat 32 (crcFold 0x82F63B78 0xFFFFFFFF bs ^^^ 0xFFFFFFFF)

/-- CRC-64/XZ (R299): the ECMA-182 polynomial, reflected, initial and final value all ones. -/
def crc64 (bs : List Byte) : BitVec 64 :=
  BitVec.ofNat 64 (crcFold 0xC96C5795D7870F42 0xFFFFFFFFFFFFFFFF bs ^^^ 0xFFFFFFFFFFFFFFFF)

end Sys2Proof.Machine
end

