-- ==== Sys2Proof/Machine/Place.lean ====
section
/-! DEFINITION. Where a byte of a slice lies: the regions of a slice (R189), the interleave (R190, R191), the placement of shard
rows (R125, R126), row sparing (R381) and the routing of a migration (R416); and partition and device physical addresses
(R186, R187). -/

namespace Sys2Proof.Machine

/-- Live sub-channels of a mapping, in increasing order. -/
def SliceMap.lives (m : SliceMap) : List Nat := (List.range 4).filter fun u => m.live.getLsbD u

/-- Bank slots in use: 96, 72, 48 or 24, or none (R190). -/
def SliceMap.slots (m : SliceMap) : Nat := 24 * m.lives.length

/-- slot[j]: the live bank slots in increasing order (R190). -/
def SliceMap.slotAt (m : SliceMap) (j : Nat) : Nat :=
  let banks := m.lives.flatMap fun u => [2 * u, 2 * u + 1]
  8 * (j / banks.length) + banks.getD (j % banks.length) 0

/-- TBL in bytes. -/
def SliceMap.tblBytes (m : SliceMap) : Nat := m.tbl * 65536

/-- HC (R189). -/
def SliceMap.hc (m : SliceMap) : Nat := m.slots * (Config.bankBytes - m.tblBytes)

/-- Offset at which the session pool begins (R189). -/
def SliceMap.poolBase (m : SliceMap) : Nat := m.hc - m.spool * 4096

/-- Offset at which the table region begins (R189). -/
def SliceMap.tableBase (m : SliceMap) : Nat := 96 * (Config.bankBytes - m.tblBytes)

/-- Bit `i` of x (R191). -/
def hashBit (b : Nat) (salt : BitVec 32) (i : Nat) : Bool :=
  if i = 15 then
    xor (xor (xor (b.testBit 0) (b.testBit 5)) (xor (b.testBit 10) (salt.getLsbD 15))) (b.testBit 14 && salt.getLsbD 31)
  else
    xor (xor (xor (b.testBit i) (b.testBit ((i + 5) % 15))) (salt.getLsbD i))
      (b.testBit ((i + 11) % 15) && salt.getLsbD (16 + i))

/-- The number with bits `f 0` to `f (n - 1)`. -/
def ofBits (f : Nat → Bool) : Nat → Nat
  | 0 => 0
  | n + 1 => ofBits f n + (f n).toNat * 2 ^ n

/-- The 16-bit x of R191. -/
def hashX (b : Nat) (salt : BitVec 32) : Nat := ofBits (hashBit b salt) 16

/-- The interleave of R190: location of the 32 B column that holds offset `o`, code word included. -/
def interleave (m : SliceMap) (o : Nat) : Loc :=
  let n := m.slots
  let st := o / 512
  let b := st / n
  ⟨m.slotAt ((st % n + hashX b m.psalt % n) % n), b / 4, 16 * (b % 4) + o % 512 / 32, o % 32 / 8⟩

/-- PITCH, DM and ROWSM1 of a shard as sizes (R122). -/
def Shard.pitchBytes (d : Shard) : Nat := 32 * (d.pitch.toNat + 1)
def Shard.rows (d : Shard) : Nat := d.rowsm1.toNat + 1
def Shard.dim (d : Shard) : Nat := 32 * (d.dm.toNat + 1)

/-- Bytes of a shard's table window (R126). -/
def Shard.window (d : Shard) : Nat := d.rows * d.pitchBytes

/-- Bank slot of row `r` (R125). -/
def rowSlot (salt16 : BitVec 16) (r : Nat) : Nat :=
  (r % 96 + (BitVec.ofNat 16 (r / 96 * 40503) ^^^ salt16).toNat) % 96

/-- Byte offset of row `r` within its bank (R125). -/
def Shard.rowOffset (d : Shard) (r : Nat) : Nat := 32 * d.band.toNat + r / 96 * d.pitchBytes

/-- Location of byte `j` of row `r` of a shard (R125). -/
def Shard.locate (d : Shard) (r j : Nat) : Loc :=
  let o := d.rowOffset r + j
  ⟨rowSlot d.salt16 r, o / 2048, o % 2048 / 32, o % 32 / 8⟩

/-- The valid shards of a slice, as (TID, descriptor). -/
def shardsOf (s : State) (p : Nat) : List (Nat × Shard) :=
  (s.shards.filter fun e => 256 * p ≤ e.1 ∧ e.1 < 256 * p + 256 ∧ e.2.valid).map fun e => (e.1 - 256 * p, e.2)

/-- The slice that holds the table region of a slice's own addresses (R416: the substitute's once phase 1 has ended). -/
def tableSlice (s : State) (p : Nat) : Nat :=
  match s.floor.migs.find? fun m => m.failed == p && m.phase2 with
  | some m => m.subst
  | none => p

/-- The shard whose table window holds partition address `a` (R126). -/
def windowAt (s : State) (p a : Nat) : Option (Nat × Shard) :=
  (shardsOf s (tableSlice s p)).find? fun e => decide (e.2.wbase.toNat ≤ a ∧ a < e.2.wbase.toNat + e.2.window)

/-- Cause codes of an access (R221). -/
def causeAddr : Nat := 0x14
def causeRetired : Nat := 0x18

/-- Sub-channel of a bank slot (R190). -/
def slotSub (k : Nat) : Nat := k % 8 / 2

/-- Whether a sub-channel is retired. -/
def isRetired (s : State) (p u : Nat) : Bool := ((s.slice p).sub u).width == .retired

/-- Order of a row in a migration: increasing bank slot, then row, the rows of phase 2 alone counted (R415). -/
def migOrd (m : SliceMap) (k row : Nat) : Nat := k * ((Config.bankBytes - m.tblBytes) / 2048) + row

/-- The slice whose bank holds a row now: rows exchanged in phase 2 of a migration have changed places (R416). -/
def routeRow (s : State) (p k row : Nat) : Nat :=
  match s.floor.migs.find? fun m => m.phase2 && (m.failed == p || m.subst == p) with
  | none => p
  | some m =>
    let sm := (s.slice m.failed).map
    if row < (Config.bankBytes - sm.tblBytes) / 2048 ∧ migOrd sm k row < m.row then
      if m.failed = p then m.subst else m.failed
    else p

/-- Where an access to offset `off` of slice `p` lands: the slice whose banks hold it and the location, or the cause it fails
under. `idx` is the slice's partition croft index, which table windows are addressed by (R126, R187). -/
def locate (s : State) (p idx off : Nat) : Except Nat (Nat × Loc) :=
  let m := (s.slice p).map
  if off < m.hc then
    let l := interleave m off
    if isRetired s (routeRow s p l.k l.row) (slotSub l.k) then .error causeRetired else .ok (p, l)
  else if off < m.tableBase then .error causeAddr
  else if Config.sliceBytes ≤ off then .error causeAddr
  else
    let a := idx * Config.sliceBytes + off
    match windowAt s p a with
    | none => .error causeAddr
    | some (_, d) =>
      let q := tableSlice s p
      let l := d.locate ((a - d.wbase.toNat) / d.pitchBytes) ((a - d.wbase.toNat) % d.pitchBytes)
      if isRetired s q (slotSub l.k) then .error causeRetired else .ok (q, l)

/-- The partition croft index that a slice's table windows are addressed by; 0 where no partition holds it. -/
def sliceIndex (s : State) (p : Nat) : Nat :=
  match partOf s p with
  | some k => (indexOf s k p).getD 0
  | none => 0

/-- The physical row that serves row `row` of bank slot `k` (R381). -/
def physRow (s : State) (p k row : Nat) : Nat :=
  match tget zeroN (s.slice p).spares (8208 * k + row) with
  | 0 => row
  | r => r

/-- Key in `mem` of byte 0 of the code word at a physical row (R356). -/
def wordKey (p k prow col w : Nat) : Nat := ((((p * 96 + k) * 8208 + prow) * 64 + col) * 4 + w) * 10

/-- What an unlisted byte of the code words reads as: the never-written word of its place (R363, R364). -/
def memDefault (key : Nat) : Byte :=
  let cw := key / 10
  let l : Loc := ⟨cw / 4 / 64 / 8208 % 96, cw / 4 / 64 % 8208, cw / 4 % 64, cw % 4⟩
  BitVec.ofNat 8 ((neverWord l).toNat / 2 ^ (8 * (key % 10)))

/-- Key of a location in the banks of slice `q`, through its spare map. -/
def bankKey (s : State) (q : Nat) (l : Loc) : Nat := wordKey q l.k (physRow s q l.k l.row) l.col l.w

/-- The row that physical row `prow` of bank slot `k` serves: a spare in use serves the row remapped to it (R381). -/
def rowServed (s : State) (p k prow : Nat) : Nat :=
  if prow < 8192 then prow
  else match (s.slice p).spares.find? fun e => e.1 / 8208 == k && e.2 == prow with
    | some e => e.1 % 8208
    | none => prow

/-- Whether a region of undefined contents holds the code word of key / 10 = `cw`. -/
def Undef.covers (s : State) (u : Undef) (cw : Nat) : Bool :=
  let k := cw / 256 / 8208 % 96
  let row := rowServed s u.p k (cw / 256 % 8208)
  cw / 256 / 8208 / 96 == u.p && decide (u.lo ≤ row ∧ row < u.hi)

/-- The free contents of a code word that nothing has written since they became undefined. -/
def undefAt (s : State) (cw : Nat) : Option (BitVec 80) :=
  (s.undef.find? fun u => u.covers s cw && !tget zeroB u.written cw).map fun u => Config.undefWord u.epoch cw

/-- Rows `lo` up to `hi` of a slice become undefined; a region they cover is forgotten. -/
def makeUndef (s : State) (p lo hi : Nat) : State :=
  drew { s with undef := ⟨p, lo, hi, s.free, []⟩ :: s.undef.filter fun u => ¬ (u.p = p ∧ lo ≤ u.lo ∧ u.hi ≤ hi) }

/-- The code word stored at a key. -/
def wordAt (s : State) (key : Nat) : BitVec 80 :=
  match undefAt s (key / 10) with
  | some w => w
  | none => BitVec.ofNat 80 (leNat (tgetList memDefault s.mem key 10))

/-- The state with a code word stored at a key. -/
def putAt (s : State) (key : Nat) (c : BitVec 80) : State :=
  { s with
    mem := tsetList memDefault s.mem key (leBytes 10 c.toNat)
    undef := mapIf (fun u => u.covers s (key / 10)) (fun u => { u with written := tset zeroB u.written (key / 10) true }) s.undef }

/-- The stored code word of a location, through the routing of a migration. -/
def getWord (s : State) (p : Nat) (l : Loc) : BitVec 80 := wordAt s (bankKey s (routeRow s p l.k l.row) l)

/-- The state with a code word stored at a location. -/
def setWord (s : State) (p : Nat) (l : Loc) (c : BitVec 80) : State := putAt s (bankKey s (routeRow s p l.k l.row) l) c

/-- The offset of slice `p` that a location serves: by the interleave, or by the shard whose band holds it. -/
def offsetOf (s : State) (p : Nat) (l : Loc) : Option Nat :=
  let m := (s.slice p).map
  let o := l.row * 2048 + l.col * 32
  if o < Config.bankBytes - m.tblBytes then
    match (List.range m.slots).find? fun j => m.slotAt j == l.k with
    | none => none
    | some j =>
      let b := l.row * 4 + l.col / 16
      some (512 * (b * m.slots + (j + m.slots - hashX b m.psalt % m.slots) % m.slots) + l.col % 16 * 32 + 8 * l.w)
  else
    match (shardsOf s p).find? fun e => decide (32 * e.2.band.toNat ≤ o ∧
        o < 32 * e.2.band.toNat + cdiv e.2.rows 96 * e.2.pitchBytes) with
    | none => none
    | some (_, d) =>
      let blk := (o - 32 * d.band.toNat) / d.pitchBytes
      let t := (BitVec.ofNat 16 (blk * 40503) ^^^ d.salt16).toNat % 96
      let r := 96 * blk + (l.k + 96 - t) % 96
      if r < d.rows then
        some ((d.wbase.toNat + r * d.pitchBytes + (o - 32 * d.band.toNat) % d.pitchBytes + 8 * l.w) % Config.sliceBytes)
      else none

/-! ### Addresses -/

/-- An address resolved to a slice: the slice of the map and the offset within it. -/
structure Where where
  p   : Nat
  idx : Nat
  off : Nat
deriving DecidableEq, Repr

/-- A partition address of partition `k` (R186): cause 0x14 beyond Np crofts or where no slice holds the index. -/
def partAddr (s : State) (k a : Nat) : Except Nat Where :=
  match dataOf s k (a / Config.sliceBytes) with
  | none => .error causeAddr
  | some p => if a / Config.sliceBytes < 512 then .ok ⟨p, a / Config.sliceBytes, a % Config.sliceBytes⟩ else .error causeAddr

/-- A device physical address (R187). -/
def devAddr (s : State) (a : Nat) : Except Nat Where :=
  if a / Config.sliceBytes < 512 then
    match slotSlice s (a / Config.sliceBytes) with
    | none => .error causeAddr
    | some p => .ok ⟨p, sliceIndex s p, a % Config.sliceBytes⟩
  else .error causeAddr

/-- A range cut at multiples of `unit`: (first byte, length) of each piece. -/
def piecesFrom (unit : Nat) : Nat → Nat → Nat → List (Nat × Nat)
  | 0, _, _ => []
  | f + 1, a, n =>
    if n = 0 then [] else
      let k := min n (unit - a % unit)
      (a, k) :: piecesFrom unit f (a + k) (n - k)

/-- The range of `n` bytes from `a` cut at multiples of `unit`. -/
def piecesOf (unit a n : Nat) : List (Nat × Nat) := piecesFrom unit (n / unit + 2) a n

/-- The requests that move `n` bytes from an address of the host or of a peer: a peer's are of at most 256 B, and a write to the host goes by its
whole lines and by the parts of lines before and after them (R473, R475). -/
def requestsOf (peer write : Bool) (a n : Nat) : List (Nat × Nat) :=
  if peer then piecesOf 256 a n
  else if write then
    let h := min n ((64 - a % 64) % 64)
    let m := (n - h) / 64 * 64
    [(a, h), (a + h, m), (a + h + m, n - h - m)].filter fun x => decide (0 < x.2)
  else [(a, n)]

/-- Move bytes from or to host memory or a peer: HL_UIO counts the requests to peers (R475, R495). -/
def hostMove (s : State) (peer : Bool) (a : Nat) (write : Bool) (n : Nat) (data : List Byte) (poison : Bool) (why : Purpose) : State :=
  let rs := requestsOf peer write a n
  let s := if peer then bump s (ctrSquare 54) rs.length else s
  rs.foldl (fun s x => hostAccess s peer x.1 write x.2 ((data.drop (x.1 - a)).take x.2) poison why) s

/-- The cause an address fails under, none where it resolves. -/
def addrCause (s : State) (res : Nat → Except Nat Where) (a : Nat) : Option Nat :=
  match res a with
  | .error c => some c
  | .ok w => match locate s w.p w.idx w.off with
    | .error c => some c
    | .ok _ => none

/-- The lowest cause an access to `n` bytes from `a` fails under: the place is one for every byte of a 32 B sector. -/
def spanCause (s : State) (res : Nat → Except Nat Where) (a n : Nat) : Option Nat :=
  let cs := (piecesOf 32 a n).filterMap fun x => addrCause s res x.1
  if cs.contains causeAddr then some causeAddr else cs.head?

end Sys2Proof.Machine
end

