-- ==== Sys2Proof/Machine/Queue.lean ====
section
/-! DEFINITION. The queues of the sub-channels (R142, R144, R205, R219, R230, R232): when an access to a granule waits, and for what. -/

namespace Sys2Proof.Machine

/-- The slice whose banks hold the granule at an offset, and its location. -/
def placeOf (s : State) (p off : Nat) : Option (Nat × Loc) :=
  match locate s p (sliceIndex s p) off with
  | .ok (q, l) => some (routeRow s q l.k l.row, l)
  | .error _ => none

/-- Number 4·layer + unit of the gleaner of a bank slot's pair. -/
def slotPair (k : Nat) : Nat := 4 * (k / 8) + slotSub k

/-- The row a gleaner has begun and not finished in a bank's pair (R144). -/
def openRow (s : State) (q k : Nat) : Option OpenRow := (tget glUnit0 (s.slice q).glUnits (slotPair k)).row

/-- The bank slot a waiting access goes to. -/
def QEntry.bank (s : State) (e : QEntry) : Option Nat :=
  match e.act with
  | .row _ _ k _ _ => some k
  | _ => (placeOf s e.p e.off).map (·.2.k)

/-- The pair a waiting access goes to. -/
def QEntry.pair (s : State) (e : QEntry) : Option Nat := (e.bank s).map slotPair

/-- A waiting access writes. -/
def QEntry.writes (e : QEntry) : Bool :=
  match e.act with
  | .read _ _ _ _ => false
  | _ => true

/-- Who waits for an access. -/
def QEntry.who (e : QEntry) : Asker :=
  match e.act with
  | .read _ _ w _ => w
  | .write _ _ w _ => w
  | .atom c id _ _ _ _ _ _ _ => .engine c id
  | .staged x _ _ _ => .epoch x.part x.e
  | _ => .inside

/-- Whether a waiting access is to the line of an offset. -/
def QEntry.ofLine (e : QEntry) (p off : Nat) : Bool :=
  match e.act with
  | .row _ _ _ _ _ => false
  | _ => e.p == p && e.off / 128 == off / 128

/-- Whether a granule holds bytes of a row. -/
def OpenRow.meets (o : OpenRow) (off : Nat) : Bool := decide (off / 64 * 64 < o.off + o.len ∧ o.off < off / 64 * 64 + 64)

/-- Whether a waiting access is to bytes of the row a gleaner has begun. -/
def QEntry.meets (s : State) (e : QEntry) (o : OpenRow) : Bool :=
  match e.act with
  | .row _ _ k row _ => o.k == k && ((placeOf s e.p o.off).map (·.2.row)) == some row
  | _ => o.meets e.off

/-- A granule waits for its resent copy (R230). -/
def awaitsResend (y : SubCh) (p off : Nat) : Bool := y.resend.any fun r => r.1 == p && r.2.1 / 64 == off / 64

/-- Where earlier accesses to the line of an offset wait: those to one line are served in the order of their arrival (R205). -/
def lineWaits (s : State) (p off : Nat) : Option (Nat × Nat) :=
  ([off / 128 * 128, off / 128 * 128 + 64].filterMap fun o => (placeOf s p o).map fun x => (x.1, slotSub x.2.k)).find? fun x =>
    ((s.slice x.1).sub x.2).queue.any fun e => e.ofLine p off

/-- Whether a sub-channel takes no access now: it is held (R232), or a layer discards what it is sent until resent copies arrive
(R229). -/
def SubCh.stopped (y : SubCh) : Bool := y.held || decide (0 < y.tries)

/-- Where an access to the banks of the granule at an offset must wait, as slice and sub-channel: an earlier access to the line or to the
pair waits (R15, R205), the sub-channel takes no access (R229, R232) or has no free entry (R219), a gleaner runs on the pair (R142), or
the granule is to be resent (R230). -/
def mustQueue (s : State) (p off : Nat) : Option (Nat × Nat) :=
  match lineWaits s p off, placeOf s p off with
  | some x, _ => some x
  | none, none => none
  | none, some (q, l) =>
    let y := (s.slice q).sub (slotSub l.k)
    if y.stopped || decide (64 ≤ y.queue.length) || (openRow s q l.k).isSome || awaitsResend y p off ||
        y.queue.any (fun e => e.pair s == some (slotPair l.k)) then some (q, slotSub l.k) else none

/-- Whether an offset lies in a table window whose writes wait: the table region of its slice is being copied to a substitute's (R416). -/
def windowHeld (s : State) (p off : Nat) : Bool :=
  match s.floor.migs with
  | [] => false
  | m :: _ => m.failed == p && !m.phase2 && decide ((s.slice p).map.hc ≤ off) && (windowAt s p (sliceIndex s p * Config.sliceBytes + off)).isSome

/-- Where a write must wait. -/
def writeQueue (s : State) (p off : Nat) : Option (Nat × Nat) :=
  match mustQueue s p off with
  | some x => some x
  | none => if windowHeld s p off then (placeOf s p off).map fun x => (x.1, slotSub x.2.k) else none

/-- Whether a waiting access is a write to such a window. -/
def QEntry.windowed (s : State) (e : QEntry) : Bool :=
  match e.act with
  | .row _ _ _ _ _ => false
  | _ => e.writes && windowHeld s e.p e.off

/-- Whether an access to a whole row of a bank slot must wait, as `mustQueue` does. -/
def rowQueue (s : State) (q k : Nat) : Bool :=
  let y := (s.slice q).sub (slotSub k)
  y.stopped || decide (64 ≤ (y.queue.filter fun e => !e.windowed s).length) || (openRow s q k).isSome ||
    y.queue.any fun e => e.pair s == some (slotPair k) && !e.windowed s

/-- Whether the square cache holds the line of an offset. -/
def cachedLine (s : State) (p off : Nat) : Bool := s.sqc.any fun l => l.p == p && l.line == off / 128

/-- Where a read must wait: a line that the square cache holds is served by it, behind the accesses to the line that wait (R205). -/
def readQueue (s : State) (p off : Nat) : Option (Nat × Nat) := if cachedLine s p off then lineWaits s p off else mustQueue s p off

/-- Whether a waiting access is a write that R144 holds: to the row that a gleaner has begun and not finished. -/
def rowHolds (s : State) (q : Nat) (e : QEntry) : Bool :=
  match e.bank s with
  | none => false
  | some k => e.writes && ((openRow s q k).map (e.meets s)).getD false

/-- Writes to the row a gleaner has begun are held (R144): GL_WRHOLD counts each once (R154). -/
def noteHeldWrite (s : State) (q : Nat) (e : QEntry) : QEntry × State :=
  if rowHolds s q e && !e.wrHeld then ({ e with wrHeld := true }, bump s (ctrSlice q 7) 1) else (e, s)

/-- An access joins the queue of its sub-channel. -/
def enqueue (s : State) (q u : Nat) (e : QEntry) : State :=
  let r := noteHeldWrite s q e
  modSub r.2 q u fun y => { y with queue := y.queue ++ [r.1] }

/-- Whether a waiting access waits for BIRsp too (R208, R471). -/
def QEntry.untold (e : QEntry) : Bool :=
  match e.act with
  | .staged _ _ _ told => !told
  | _ => false

/-- Whether an access of an asker waits for its bank (R219) or for BIRsp (R471). -/
def owed (s : State) (who : Asker) : Bool :=
  (s.slices.any fun x => (List.range 4).any fun u => (x.2.sub u).queue.any fun e => e.who == who) ||
    s.link.bisn.any fun b => match b.act with
      | .bytes _ _ _ w => w == who
      | .atom c id _ _ _ _ _ _ _ => who == .engine c id
      | .staged => false

/-- A write of the host or of a peer is answered once all of it is stored. -/
def answer (s : State) (who : Asker) : State :=
  match who with
  | .port _ => if owed s who then s else emit s .writeDone
  | _ => s

/-- Whether a waiting access can be served now: its sub-channel takes accesses, its granule is not to be resent, no earlier entry of its
line or of its pair waits (one that R144 or R416 holds apart), and, unless the gleaner has yielded, none runs on its pair. -/
def canServe (s : State) (q u : Nat) (before : List QEntry) (yielded : Bool) (e : QEntry) : Bool :=
  let y := (s.slice q).sub u
  !e.untold && !e.windowed s && !y.stopped && !awaitsResend y e.p e.off && !(before.any fun b => b.ofLine e.p e.off || (b.pair s == e.pair s && !rowHolds s q b && !b.windowed s)) &&
  match e.bank s with
  | none => true
  | some k => (openRow s q k).isNone || (yielded && !rowHolds s q e)

/-- The first waiting access that can be served, with those before and after it. -/
def firstReady (s : State) (q u : Nat) (t : QEntry → Bool) (yielded : Bool) : List QEntry → List QEntry → Option (List QEntry × QEntry × List QEntry)
  | _, [] => none
  | before, e :: rest =>
    if t e && canServe s q u before yielded e then some (before, e, rest) else firstReady s q u t yielded (before ++ [e]) rest

/-- An entry leaves the queue; where a request waited at its source for an entry, it takes this one, and SC_CREDIT_WAIT counts its
wait in mesh cycles of 2.4 GHz (R219, R222). -/
def takeEntry (s : State) (q u : Nat) (left : List QEntry) : State :=
  let s := match left[63]? with
    | some e => bump s (ctrSlice q 19) (24 * (s.now - e.at0) / 10)
    | none => s
  modSub s q u fun y => { y with queue := left }

/-- The links a command crosses: command links 0 to 14, as 320 + i (R226, R228). -/
def cmdLinks : List Nat := (List.range 15).map (· + 320)

/-- Every data link a granule crosses at a width (R235). -/
def linksOf (w : Width) : List Nat :=
  (List.range 320).filter fun l => match w with
    | .foldL => [0, 1, 2, 3, 8].contains (l / 32)
    | .foldH => [4, 5, 6, 7, 9].contains (l / 32)
    | _ => true

end Sys2Proof.Machine
end

