-- ==== Sys2Proof/Machine/Store.lean ====
section
/-! DEFINITION. Storing whole code words: the banks, the write-combining buffer (R197), lines the square cache holds (R205), and
the writes that wait for a back-invalidation (R471). Nothing here reads a stored word, so nothing here finds an error. -/

namespace Sys2Proof.Machine

/-- A sub-channel has sent `n` commands and `w` write granules: those of the last 8 ns are what an error return has resent (R229). -/
def noteSent (s : State) (q u n : Nat) (w : Nat := 0) : State :=
  modSub s q u fun y => { y with sent := (y.sent.filter fun e => decide (s.now ≤ e.1 + 8)) ++ [(s.now, n, w)] }

/-- `n` refreshes of a bank are issued, `late` of them after being held (R242, R243): the rows go round, and a gleaner with a row open
in the bank pauses, each refresh for 130 ns, and reopens its row in 14 ns (R141, R241). -/
def refreshBank (s : State) (q k n late : Nat) : State :=
  let s := bump (bump s (ctrSlice q 30) n) (ctrSlice q 31) late
  let open? := match (tget glUnit0 (s.slice q).glUnits (slotPair k)).row with
    | some o => o.k == k
    | none => false
  modSlice (noteSent (if open? then bump s (ctrSlice q 4) (130 * n + 14) else s) q (slotSub k) n) q fun x => { x with
    refPend := tset zeroN x.refPend k (tget zeroN x.refPend k - late)
    refRow := tset zeroN x.refRow k ((tget zeroN x.refRow k + n) % 8192) }

/-- With 4 refreshes pending, a bank's next one comes before any other access to it (R243). -/
def refreshFirst (s : State) (q k : Nat) : State :=
  if 4 ≤ tget zeroN (s.slice q).refPend k then refreshBank s q k 1 1 else s

/-- A granule moved on a sub-channel (R218, R222), behind a refresh that is due; `n` counts what the links were sent for it: a
command, and a write granule with it (R229). -/
def countGran (s : State) (q k : Nat) (n : Nat := 1) : State :=
  let u := slotSub k
  let s := bump (refreshFirst s q k) (ctrSlice q (11 + u)) 1
  noteSent (modSlice s q fun x => { x with gran := tset zeroN x.gran u (tget zeroN x.gran u + 1) }) q u 1 (n - 1)

/-- A row of a bank is read whole: its 32 granules moved, each at a command (R218, R222, R229, R376). -/
def countRow (s : State) (q k : Nat) : State :=
  let u := slotSub k
  noteSent (modSlice (bump (refreshFirst s q k) (ctrSlice q (11 + u)) 32) q fun x => { x with gran := tset zeroN x.gran u (tget zeroN x.gran u + 32) })
    q u 32

/-- `n` granules or rows' granules of slice `q` were read again in a sub-channel (R231): VL_REREAD counts them, and each was a command. -/
def countReread (s : State) (q u n : Nat) : State := if n = 0 then s else noteSent (bump s (ctrSlice q 22) n) q u n

/-- Count the granule at an offset, where it lies in a bank. -/
def countAt (s : State) (p idx off : Nat) (n : Nat := 1) : State :=
  match locate s p idx off with
  | .error _ => s
  | .ok (q, l) => countGran s q l.k n

/-- A word is written: a correction of it that was still to be stored is replaced (R372). -/
def unnote (s : State) (q : Nat) (l : Loc) : State :=
  if (s.slice q).noted.contains l.bits then modSlice s q fun x => { x with noted := x.noted.filter (· ≠ l.bits) } else s

/-- Store one code word at an 8 B aligned offset, as data or as the poison word (R365); discarded where the offset has no place
(R237). -/
def putWord (s : State) (p idx off : Nat) (d : BitVec 64) (poison : Bool) : State :=
  match locate s p idx off with
  | .error _ => s
  | .ok (q, l) => setWord (unnote s (routeRow s q l.k l.row) l) q l (if poison then poisonWord l else encodeWord l d)

/-- Store consecutive code words from an 8 B aligned offset: `n` of them from the bytes. -/
def putWords (s : State) (p idx off : Nat) (data : List Byte) (poison : Bool) : Nat → State
  | 0 => s
  | n + 1 => putWord (putWords s p idx off data poison n) p idx (off + 8 * n)
      (BitVec.ofNat 64 (leNat ((data.drop (8 * n)).take 8))) poison

/-! ### The write-combining buffer -/

/-- The bytes of code word `w` of a buffered line. -/
def WcLine.word (l : WcLine) (w : Nat) : List Byte := tgetList zero8 l.bytes (8 * w) 8

/-- Whether a buffered byte of code word `w` of a line fails its parity (R371). -/
def WcLine.wordBad (l : WcLine) (w : Nat) : Bool := l.bad.extractLsb' (8 * w) 8 != 0

/-- An error has been found, to be counted and logged. -/
def find (s : State) (f : Found) : State := { s with found := s.found ++ [f] }

/-- Store one buffered code word, as the poison word where a byte of it fails its parity (R371). -/
def putBuffered (s : State) (p idx off : Nat) (d : BitVec 64) (bad : Bool) : State :=
  putWord (if bad then find s (.buffer p off) else s) p idx off d bad

/-- Code words of one granule, by slice offset, with their poison, go to the bank in one access. -/
def storeWords (s : State) (p : Nat) (ws : List (Nat × BitVec 64 × Bool)) : State :=
  match ws with
  | [] => s
  | w :: _ => countAt (ws.foldl (fun s w => putWord s p (sliceIndex s p) w.1 w.2.1 w.2.2) s) p (sliceIndex s p) w.1 2

/-- Code words of one granule that a buffer or the square cache gives back: they wait for their bank as every ordinary write does (R144,
R199, R219), unless the access that makes them go has the bank already (`own`). -/
def giveBack (s : State) (p : Nat) (ws : List (Nat × BitVec 64 × Bool)) (src : Src) (own : Bool) : State :=
  match ws with
  | [] => s
  | w :: _ =>
    match if own then none else writeQueue s p w.1 with
    | some (q, u) => enqueue s q u ⟨p, w.1, .words ws, src, s.now, false⟩
    | none => storeWords s p ws

/-- The valid code words of half `h` of a line, by slice offset: one whose bytes fail their parity goes as poison (R371). -/
def WcLine.half (l : WcLine) (h : Nat) : List (Nat × BitVec 64 × Bool) :=
  ((List.range 8).filter fun i => l.valid.getLsbD (8 * h + i)).map fun i =>
    (128 * l.line + 64 * h + 8 * i, BitVec.ofNat 64 (leNat (l.word (8 * h + i))), l.wordBad (8 * h + i))

/-- Drain one line: masked granule writes that need no read (R197). -/
def drainLine (s : State) (p : Nat) (l : WcLine) (own : Bool := false) : State :=
  let ws := l.half 0 ++ l.half 1
  let s := { s with found := s.found ++ (ws.filter fun w => w.2.2).map fun w => .buffer p w.1 }
  let s := modSlice s p fun x => { x with wcb := x.wcb.filter fun y => y.line ≠ l.line }
  giveBack (giveBack s p (l.half 0) .croft own) p (l.half 1) .croft own

/-- The least recently written line. -/
def oldestLine (ls : List WcLine) : Option WcLine := ls.head?

/-- A line just written stands behind every other. -/
def newestLine (ls : List WcLine) (l : WcLine) : List WcLine := (ls.filter fun y => y.line ≠ l.line) ++ [l]

/-- The line with consecutive code words of one write put in from word `w`. -/
def WcLine.put (l : WcLine) (w : Nat) (data : List Byte) (now : Nat) : WcLine :=
  { l with
    valid := (List.range (data.length / 8)).foldl (fun v i => v ||| BitVec.twoPow 16 (w + i)) l.valid
    bytes := tsetList zero8 l.bytes (8 * w) data
    bad := (List.range data.length).foldl (fun v i => v &&& ~~~ BitVec.twoPow 128 (8 * w + i)) l.bad
    last := now }

/-- Whole code words of one line enter the write-combining buffer (R197). -/
def wcPut (s : State) (p off : Nat) (data : List Byte) : State :=
  let line := off / 128
  let w := off % 128 / 8
  let x := s.slice p
  match x.wcb.find? fun l => l.line == line with
  | some l =>
    let l' := l.put w data s.now
    let s := bump s (ctrSlice p 15) 1
    let s := modSlice s p fun x => { x with wcb := newestLine x.wcb l' }
    if l'.valid = BitVec.allOnes 16 then drainLine s p l' else s
  | none =>
    let s := if 64 ≤ x.wcb.length then
        match oldestLine x.wcb with
        | some l => drainLine s p l
        | none => s
      else s
    let l' := (WcLine.mk line 0 [] 0 0).put w data s.now
    if l'.valid = BitVec.allOnes 16 then drainLine s p l'
    else modSlice s p fun x => { x with wcb := x.wcb ++ [l'] }

/-- Newer data replaces what the buffers hold of `n` code words from an 8 B aligned offset. -/
def unbuffer (s : State) (p off n : Nat) : State :=
  modSlice s p fun x => { x with
    wcb := (x.wcb.map fun l => { l with valid := l.valid &&& ~~~ ((List.range n).foldl
        (fun v i => if (off + 8 * i) / 128 = l.line then v ||| BitVec.twoPow 16 ((off + 8 * i) % 128 / 8) else v) 0) }).filter
      fun l => l.valid ≠ 0
    mgb := x.mgb.filter fun m => ¬ (off / 8 ≤ m.word ∧ m.word < off / 8 + n) }

/-! ### Lines the square cache holds -/

/-- Words of a line, from word `w` for `n` of them, that its code finds in error (R383). -/
def SqLine.errs (l : SqLine) (w n : Nat) : Table MemErr := l.err.filter fun e => decide (w ≤ e.1 ∧ e.1 < w + n)

/-- Words of a line are read: a single error is corrected, and a double error poisons its sector, whose mark stands for it from then
on (R383, R384). -/
def SqLine.scan (l : SqLine) (w n : Nat) : SqLine :=
  { l with
    poison := (l.errs w n).foldl (fun v e => if e.2 = .double then v ||| BitVec.twoPow 4 (e.1 / 4) else v) l.poison
    err := l.err.filter fun e => ¬ (w ≤ e.1 ∧ e.1 < w + n ∧ e.2 = .double) }

/-- The errors that the scan of words of a line finds. -/
def SqLine.finds (l : SqLine) (w n : Nat) : List Found :=
  (l.errs w n).map fun e => .sqWord (e.2 == .double) l.p (128 * l.line + 8 * e.1)

/-- Words of a line that the square cache holds are read. -/
def scanSq (s : State) (p line w n : Nat) : State :=
  match s.sqc.find? fun l => l.p == p && l.line == line with
  | none => s
  | some l =>
    if (l.errs w n).isEmpty then s
    else { s with sqc := mapIf (fun y => y.p == p && y.line == line) (fun y => y.scan w n) s.sqc, found := s.found ++ l.finds w n }

/-- The code words of half `h` of a line that the square cache holds: a poisoned sector goes back as poison words (R365). -/
def SqLine.half (l : SqLine) (h : Nat) : List (Nat × BitVec 64 × Bool) :=
  (List.range 8).map fun i => (128 * l.line + 64 * h + 8 * i, BitVec.ofNat 64 (leNat (tgetList zero8 l.bytes (64 * h + 8 * i) 8)),
    l.poison.getLsbD (2 * h + i / 4))

/-- The square cache writes back a line of a slice and drops it (R205). An access that has the bank of the granule at `own` takes that
granule's words with it. -/
def dropSq (s : State) (p line : Nat) (own : Option Nat := none) : State :=
  let s := scanSq s p line 0 16
  match s.sqc.find? fun l => l.p == p && l.line == line with
  | none => s
  | some l =>
    let s := { s with sqc := s.sqc.filter fun y => ¬ (y.p = p ∧ y.line = line) }
    (List.range 2).foldl (fun s h => giveBack s p (l.half h) .square (own.map (· / 64) == some (2 * line + h))) s

/-! ### Whole-word writes -/

/-- Whole code words of one granule arrive at the slice (R196): a whole granule, or poisoned words, go to the bank directly, the
rest to the write-combining buffer. -/
def writeWords (s : State) (p idx off : Nat) (data : List Byte) (poison : Bool) : State :=
  let s := dropSq s p (off / 128) (some off)
  if data.length = 64 ∨ poison then
    countAt (putWords (unbuffer s p off (data.length / 8)) p idx off data poison (data.length / 8)) p idx off 2
  else
    let s := modSlice s p fun x => { x with mgb := x.mgb.filter fun m =>
      ¬ (off / 8 ≤ m.word ∧ m.word < (off + data.length) / 8) }
    wcPut s p off data

/-- Whether a write to the 64 B line at an offset sends BISnpInv first (R470, R471). -/
def biTracked (s : State) (p off : Nat) (src : Src) : Bool :=
  tget zeroB (s.slice p).bi (off / 4096) && src != .host && src != .gleaner && (sliceSlot s p).isSome

/-- A write waits for BIRsp (R471): at most 256 BISnps are outstanding, and a later write waits for one of them. -/
def biHold (s : State) (p line : Nat) (a : BiAct) : State :=
  let s' := { s with link := { s.link with bisn := s.link.bisn ++ [⟨p, line, a, s.now⟩] } }
  if s.link.bisn.length < 256 then bump (emit s' (.bisnp p line)) (ctrSquare 51) 1 else s'

/-- A write of whole code words of one granule, behind its back-invalidation (R471) and in its bank's queue (R219). -/
def writeAligned (s : State) (p idx off : Nat) (data : List Byte) (poison : Bool) (src : Src) (who : Asker) : State :=
  match writeQueue s p off with
  | some (q, u) => enqueue s q u ⟨p, off, .write data poison who false, src, s.now, false⟩
  | none => if biTracked s p off src then biHold s p (off / 64) (.bytes off data poison who) else writeWords s p idx off data poison

end Sys2Proof.Machine
end

