-- ==== Sys2Proof/Machine/Events.lean ====
section
/-! DEFINITION. Events (R350 to R352, R515 to R518, R481) and the error log (R389). -/

namespace Sys2Proof.Machine

/-- Bytes of a number, `n` of them, little-endian. -/
def le (n x : Nat) : List Byte := leBytes n x

/-- The payload of an event: `(byte, width, value)` fields at their offsets from byte 16, other bytes zero (R350). -/
def payload (fs : List (Nat × Nat × Nat)) : BitVec 128 :=
  BitVec.ofNat 128 (fs.foldl (fun a f => a + f.2.2 % 2 ^ (8 * f.2.1) * 2 ^ (8 * (f.1 - 16))) 0)

/-- The ERRSTATUS bit of an event (R515). -/
def errBit (code : Nat) : Option Nat :=
  [0x0101, 0x0102, 0x0103, 0x0104, 0x0105, 0x0106, 0x0107, 0x0004, 0x0002, 0x0005, 0x0202, 0x0204, 0x0205, 0x0008,
   0x0301, 0x0303, 0x0305, 0x0306, 0x0402, 0x0403, 0x0009, 0x000A, 0x000B, 0x00FE].idxOf? code

/-- Hardware sets an ERRSTATUS bit (R515, R516). -/
def setErr (s : State) (i : Nat) : State :=
  bump { s with dev := { s.dev with errstatus := s.dev.errstatus ||| BitVec.twoPow 64 i } } (ctrErr i) 1

/-- Hardware sets W1C bit `16 + i` of DEVSTATUS (R514, R516). -/
def setDevBit (s : State) (i : Nat) : State :=
  bump { s with dev := { s.dev with w1c := s.dev.w1c ||| BitVec.twoPow 4 i } } (ctrDev i) 1

/-- ALERT# is asserted and an IBI requested (R481). -/
def alertFor (s : State) (code sev : Nat) : State :=
  let s := setDevBit { s with i3c := { s.i3c with alert := true } } 0
  if s.i3c.ibiEn then
    let w := BitVec.ofNat 32 (0x80 + sev + code * 2 ^ 8 + s.dev.eseq.toNat % 256 * 2 ^ 24)
    emit { s with i3c := { s.i3c with ibis := s.i3c.ibis ++ [(w, 0, s.now)] } } (.ibi w)
  else s

/-- What raising an event does beside its record: the W1C bits and the alert. -/
def noteEvent (s : State) (code sev : Nat) : State :=
  let s := match errBit code with
    | some i => setErr s i
    | none => s
  let s := setDevBit s (if 2 ≤ sev then 1 else if sev = 1 then 2 else 3)
  if 2 ≤ sev then alertFor s code sev else s

/-! ### The ring -/

def evEn (d : Dev) : Bool := d.evcfg.getLsbD 0
def evDevMem (d : Dev) : Bool := d.evcfg.getLsbD 1
def evIen (d : Dev) : Bool := d.evcfg.getLsbD 2
def evSize (d : Dev) : Nat := 2 ^ ((d.evcfg.extractLsb' 8 4).toNat + 4)
def evVec (d : Dev) : Nat := (d.evcfg.extractLsb' 16 11).toNat

/-- Entries a new record can still take: at most size − 1 records are unconsumed (R518). -/
def evRoom (d : Dev) : Nat :=
  let n := evSize d
  n - 1 - ((d.evtail + n - d.evhead) % n + d.evq.length)

/-- Address of the entry EVTAIL names. -/
def evAddr (d : Dev) : Nat := d.evbase.toNat + 32 * d.evtail

/-- A record is dropped and counted (R352, R523); a dropped EVENT_LOST gives its own count back. -/
def evDrop (s : State) (r : BitVec 256) : State :=
  let back := if r.extractLsb' 0 16 = 0x00FE then (r.extractLsb' 128 32).toNat else 0
  bump { s with dev := { s.dev with evdrop := s.dev.evdrop + 1 + back } } (ctrSquare 20) 1

/-- The record at EVTAIL is written: EVTAIL advances, the phase turns over at the end of the ring, and VEC is sent (R313, R518). -/
def evWritten (s : State) : State :=
  let d := s.dev
  let t := (d.evtail + 1) % evSize d
  let s := bump { s with dev := { d with evtail := t, evphase := if t = 0 then !d.evphase else d.evphase } } (ctrSquare 19) 1
  if evIen d then sendMsix s (evVec d) else s

/-- The record with the phase of the entry it goes to (R313, R350). -/
def evBits (s : State) (r : BitVec 256) : BitVec 256 := if s.dev.evphase then r ||| BitVec.twoPow 256 31 else r

/-- Whether an event record write is in progress. -/
def evBusy (s : State) : Bool := (s.link.reqs.any fun r => r.why == .event) || (s.dev.evSent && owed s .event)

/-- The first waiting record has been written. -/
def evStored (s : State) : State := evWritten { s with dev := { s.dev with evq := s.dev.evq.drop 1, evSent := false } }

/-- Write the waiting records, one at a time: one for device memory is written when it is stored there (R219, R471). -/
def evPump : Nat → State → State
  | 0, s => s
  | f + 1, s =>
    match s.dev.evq with
    | [] => s
    | r :: rest =>
      if evBusy s || linkHeld s then s
      else if s.dev.evSent then evPump f (evStored s)
      else if evDevMem s.dev then
        let s' := { s with dev := { s.dev with evq := rest } }
        match devAddr s (evAddr s.dev) with
        | .error _ => evPump f (evDrop s' r)
        | .ok w =>
          match locate s w.p w.idx w.off with
          | .error _ => evPump f (evDrop s' r)
          | .ok _ => evPump f (writeAligned { s with dev := { s.dev with evSent := true } } w.p w.idx w.off (le 32 (evBits s r).toNat) false .square .event)
      else hostAccess s false (evAddr s.dev) true 32 (le 32 (evBits s r).toNat) false .event

/-- A host write of an event record has completed (R473, R523). -/
def evDone (s : State) (ok : Bool) : State :=
  match s.dev.evq with
  | [] => s
  | r :: rest =>
    let s := { s with dev := { s.dev with evq := rest } }
    let s := if ok then evWritten s else evDrop s r
    evPump (2 * s.dev.evq.length + 1) s

/-- Raise one event: the bits, ESEQ, and its record, dropped while the ring is disabled or full (R350, R352, R518). DESIGN CHOICE (log entry
100): ESEQ counts the events raised before the one that carries it, so that the first after a cold start has ESEQ 0. -/
def raiseOne (s : State) (code sev : Nat) (pl : BitVec 128) : State :=
  let r : BitVec 256 := BitVec.ofNat 256 (code + sev * 2 ^ 16 + s.dev.eseq.toNat * 2 ^ 32 + s.dev.time % 2 ^ 64 * 2 ^ 64 +
    pl.toNat * 2 ^ 128)
  let s := noteEvent s code sev
  let s := { s with dev := { s.dev with eseq := s.dev.eseq + 1 } }
  if evEn s.dev ∧ 0 < evRoom s.dev then
    let s := { s with dev := { s.dev with evq := s.dev.evq ++ [r] } }
    evPump (2 * s.dev.evq.length + 1) s
  else evDrop s r

/-- EVENT_LOST with the count of dropped records, where one is due and an entry is free (R352). -/
def flushLost (s : State) : State :=
  if 0 < s.dev.evdrop ∧ evEn s.dev ∧ 0 < evRoom s.dev then
    raiseOne { s with dev := { s.dev with evdrop := 0 } } 0x00FE 1 (payload [(16, 4, s.dev.evdrop)])
  else s

/-- Raise an event, EVENT_LOST coming before it where one is due (R352). -/
def raise (s : State) (code sev : Nat) (fs : List (Nat × Nat × Nat)) : State :=
  raiseOne (flushLost s) code sev (payload fs)

/-! ### The error log -/

/-- One record of R389 before it is packed. -/
structure LogRec where
  etype  : Nat
  source : Nat
  pcroft : Nat
  layer  : Nat := 0xFF
  bank   : Nat := 0xFF
  row    : Nat := 0
  spare  : Bool := false
  col    : Nat := 0
  word   : Nat := 0
  syn    : BitVec 16 := 0
  bit0   : Nat := 0xFF
  bit1   : Nat := 0xFF
  part   : Nat := 0xFF
  hits   : Nat := 0
  addr   : Nat := 0
deriving DecidableEq, Repr

/-- The 32 B of a record (R389). -/
def LogRec.bits (r : LogRec) (time : Nat) : BitVec 256 :=
  BitVec.ofNat 256 (leNat (le 8 time ++ le 1 r.etype ++ le 1 r.source ++ le 2 r.pcroft ++ le 1 r.layer ++ le 1 r.bank ++
    le 2 (r.row % 8192 + r.spare.toNat * 2 ^ 15) ++ le 1 r.col ++ le 1 r.word ++ le 2 r.syn.toNat ++ le 1 r.bit0 ++ le 1 r.bit1 ++
    le 1 r.part ++ le 1 r.hits ++ le 8 r.addr))

/-- Append to the log: a ring of 4,096 in which the newest record overwrites the oldest (R389). -/
def logError (s : State) (r : LogRec) : State :=
  let s' := { s with elog := tset elog0 s.elog (s.elogN % 4096) (r.bits s.dev.time), elogN := s.elogN + 1 }
  if 4096 ≤ s.elogN then bump s' (ctrSquare 36) 1 else s'

/-- The SOURCE code of R389. -/
def srcCode : Src → Nat
  | .croft => 0
  | .gleaner => 1
  | .host => 2
  | .peer => 3
  | .sweeper => 4
  | .rmw => 5
  | .reeve => 6
  | .sieve => 7
  | .square => 8
  | .rowCopy => 9

/-! ### Error buckets (R373) -/

/-- An addition to a bucket: at 64 it overflows and is set to 32. -/
def bucketAdd (b : Nat) : Nat × Bool := if 64 ≤ b then (32, true) else (b + 1, false)

/-- CE_BUCKET of a slice starts a check of the canaries of every tile of its hamlet (R439). -/
def canariesDue (s : State) (p : Nat) : State :=
  { s with therm := { s.therm with
    canDue := (List.range 48).foldl (fun t i => tset zeroN t (48 * (p / 32) + i) (s.now + 1)) s.therm.canDue } }

/-- Add 1 to a slice's bucket; CE_BUCKET when it was at 64. -/
def addBucket (s : State) (p : Nat) : State :=
  let r := bucketAdd (s.slice p).bucket
  let s := modSlice s p fun x => { x with bucket := r.1 }
  if r.2 then raise (canariesDue (bump s (ctrSlice p 40) 1) p) 0x0101 0 [(16, 2, p), (20, 8, tget zeroN s.ctr (ctrSlice p 33))] else s

/-- Add 1 to the square's bucket. -/
def addSqBucket (s : State) : State :=
  let r := bucketAdd s.sqBucket
  let s := { s with sqBucket := r.1 }
  if r.2 then raise (bump s (ctrSquare 28) 1) 0x0101 0 [(16, 2, 0xFFFF), (20, 8, tget zeroN s.ctr (ctrSquare 21))] else s

/-! ### Errors of the other memories (R383, R384) -/

/-- An error found in a memory of a croft, whose slice is `slice`, or of the square: corrected, or uncorrectable or of parity when
`ue`. It is counted, logged, and enters the bucket. `addr` is the byte address within the memory. -/
def otherError (s : State) (slice : Option Nat) (ue : Bool) (src : Src) (addr : Nat) : State :=
  let e : LogRec := { etype := if ue then 9 else 8, source := srcCode src, pcroft := slice.getD 0xFFFF, addr := addr }
  match slice with
  | some p => addBucket (logError (bump s (ctrSlice p (if ue then 46 else 45)) 1) e) p
  | none => addSqBucket (logError (bump s (ctrSquare (if ue then 34 else 33)) 1) e)

/-- An error found while a store was made is counted and logged (R371, R384). -/
def accountOne (s : State) : Found → State
  | .buffer p off =>
    let l := match locate s p (sliceIndex s p) off with
      | .ok (_, l) => l
      | .error _ => ⟨0, 0, 0, 0⟩
    addBucket (logError (bump s (ctrSlice p 39) 1)
      { etype := 7, source := srcCode .rmw, pcroft := p, layer := l.k / 8, bank := l.k % 8, row := l.row, col := l.col, word := l.w,
        addr := dpaOf s p off }) p
  | .sqWord ue p off => otherError s none ue .square (dpaOf s p off)

/-- Count and log what has been found, `n` errors at most. -/
def accountN : Nat → State → State
  | 0, s => s
  | n + 1, s =>
    match s.found with
    | [] => s
    | f :: fs => accountN n (accountOne { s with found := fs } f)

/-- Count and log what has been found: an event record that its own write stores may find more. -/
def account (s : State) : State := accountN (2 * s.found.length + 8) s

end Sys2Proof.Machine
end

