-- ==== Sys2Proof/Machine/Critical.lean ====
section
/-! DEFINITION. Votes of the critical words of the square critical store and of the EEPROM (R385 to R388). -/

namespace Sys2Proof.Machine

/-- Copies rewritten by a vote are counted and logged (R386, R387, R389). -/
def countRewrite (s : State) (kind idx n : Nat) : State :=
  if n = 0 then s
  else logError (bump s (ctrSquare 35) n) { etype := 10, source := 8, pcroft := 0xFFFF, addr := kind + idx * 2 ^ 8 }

/-- A word of the square critical store is lost: FATAL, which only a cold start clears (R386, R388). -/
def lostWord (s : State) (kind idx : Nat) : State :=
  let s := logError s { etype := 11, source := 8, pcroft := 0xFFFF, addr := kind + idx * 2 ^ 8 }
  raise { s with dev := { s.dev with fatal := true, critLost := true } } 0x0107 3 [(16, 1, kind), (17, 1, 0), (20, 4, idx)]

/-- A copy of a word of the square critical store is read: an error that its code corrects or detects is counted for the square (R384). -/
def copyFind {α : Type} (kind idx : Nat) (s : State) (c : Copy α) : State :=
  if c.bad then otherError s none true .square (kind + idx * 2 ^ 8)
  else if c.one then otherError s none false .square (kind + idx * 2 ^ 8) else s

/-- The word has been lost before: nothing more is found in it (R388). -/
def Tri.gone {α : Type} (t : Tri α) (s : State) : Bool := t.c0.bad && t.c1.bad && t.c2.bad && s.dev.critLost

/-- No copy takes part in a vote any more. -/
def Tri.spoil {α : Type} (t : Tri α) : Tri α := ⟨{ t.c0 with bad := true }, { t.c1 with bad := true }, { t.c2 with bad := true }⟩

/-- A read of a critical word votes: the word with its copies mended, and the state (R386). -/
def voteWord {α : Type} [DecidableEq α] (t : Tri α) (kind idx : Nat) (s : State) : Tri α × State :=
  if t.gone s then (t, s)
  else
    let s := [t.c0, t.c1, t.c2].foldl (copyFind kind idx) s
    match t.vote with
    | some v => (Tri.same v, countRewrite s kind idx t.stale)
    | none => (t.spoil, lostWord s kind idx)

/-- A vote among the copies of the EEPROM (R387): none where it fails, which is logged (R389) and raised. -/
def voteEeprom {α : Type} [DecidableEq α] (t : Tri α) (kind : Nat) (s : State) : Option α × Tri α × State :=
  match t.vote with
  | some v => (some v, Tri.same v, countRewrite s kind 0 t.stale)
  | none => (none, t, raise (logError s { etype := 11, source := 8, pcroft := 0xFFFF, addr := kind }) 0x0107 3 [(16, 1, kind), (17, 1, 1), (20, 4, 0)])

/-- A write of a kind to the EEPROM begins: what it replaces is known until the next (R387). -/
def eepromWas (s : State) (o : EepromOld) : State := { s with eeprom := { s.eeprom with old := some (o, s.now) } }

/-- Copies of a kind whose write was interrupted in copy 0: the other two hold the older value (R387). -/
def Tri.torn {α : Type} (t : Tri α) (o : α) : Tri α := { Tri.same o with c0 := { t.c0 with bad := true } }

/-- The EEPROM after a loss of power that interrupted its last write. -/
def Eeprom.interrupted (x : Eeprom) (o : EepromOld) : Eeprom :=
  match o with
  | .defects l rows => { x with defects := x.defects.torn l, spareRows := x.spareRows.torn rows, old := none }
  | .env w => { x with env := x.env.torn w, old := none }
  | .life w => { x with life := x.life.torn w, old := none }
  | .leaf w => { x with leaf := x.leaf.torn w, old := none }

/-- Three equal copies without an error: a vote finds nothing to mend. -/
def Tri.clean {α : Type} [DecidableEq α] (t : Tri α) : Bool := decide (t = Tri.same t.c0.val)

/-- Kind 2: the entry of a partition is read. -/
def votePart (s : State) (k : Nat) : State :=
  let t := tget ptabReset s.ptab k
  if t.clean then s
  else
    let r := voteWord t 2 k s
    { r.2 with ptab := tset ptabReset r.2.ptab k r.1 }

/-- The entries of all eight partitions are read. -/
def voteParts (s : State) : State := (List.range 8).foldl votePart s

/-- Kind 3: the bases of a pair are read. -/
def voteQueue (s : State) (q : Nat) : State :=
  if (s.queue q).base.clean then s
  else
    let r := voteWord (s.queue q).base 3 q s
    modQueue r.2 q fun x => { x with base := r.1 }

/-- Kind 1: the croft map is read. -/
def voteMap (s : State) : State :=
  if s.floor.comp.clean then s
  else
    let r := voteWord s.floor.comp 1 0 s
    { r.2 with floor := { r.2.floor with comp := r.1 } }

/-- Kind 0: the runtime defect map is read. -/
def voteDefects (s : State) : State :=
  if s.floor.defects.clean then s
  else
    let r := voteWord s.floor.defects 0 0 s
    { r.2 with floor := { r.2.floor with defects := r.1 } }

/-- Kind 0: the bank spare maps are read. -/
def voteRows (s : State) : State :=
  if s.floor.rows.clean then s
  else
    let r := voteWord s.floor.rows 0 1 s
    { r.2 with floor := { r.2.floor with rows := r.1 } }

/-- Kind 4: the envelope licence is read. -/
def voteLic (s : State) : State :=
  if s.dev.lic.clean then s
  else
    let r := voteWord s.dev.lic 4 0 s
    { r.2 with dev := { r.2.dev with lic := r.1 } }

/-- Kind 5: the thermal life counters are read. -/
def voteLife (s : State) : State :=
  if s.therm.life.clean then s
  else
    let r := voteWord s.therm.life 5 0 s
    { r.2 with therm := { r.2.therm with life := r.1 } }

end Sys2Proof.Machine
end

