-- ==== Sys2Proof/Machine/Fp.lean ====
section
/-! DEFINITION. Number formats and conversions of R65 to R80, the vector operations of R88, and the exponent and reciprocal of R89
to R91. A finite number is held exactly, as a sign, a mantissa and a power of two; rounding happens once, on encoding. -/

namespace Sys2Proof.Machine

/-- An exact number, an infinity or NaN. -/
inductive Num where
  /-- (−1)^neg · m · 2^e; m = 0 is a signed zero. -/
  | fin (neg : Bool) (m : Nat) (e : Int)
  | inf (neg : Bool)
  | nan
deriving DecidableEq, Repr

/-- m / 2^k rounded to nearest, ties to even. -/
def rne (m k : Nat) : Nat :=
  let q := m / 2 ^ k
  let r := m % 2 ^ k
  if 2 ^ k < 2 * r ∨ (2 * r = 2 ^ k ∧ q % 2 = 1 ∧ k ≠ 0) then q + 1 else q

/-- Magnitude bits of m · 2^e rounded once to a format with `mw` mantissa bits whose least bit is 2^emin, with no upper limit
on the exponent (R66, R77). -/
def roundBits (mw : Nat) (emin : Int) (m : Nat) (e : Int) : Nat :=
  if m = 0 then 0 else
    let q := max (e + (Nat.log2 m : Int) - mw) emin
    let k := if q ≤ e then m * 2 ^ (e - q).toNat else rne m (q - e).toNat
    (q - emin).toNat * 2 ^ mw + k

/-- Mantissa and exponent of magnitude bits. -/
def splitBits (mw : Nat) (emin : Int) (mag : Nat) : Nat × Int :=
  if mag < 2 ^ mw then (mag, emin) else (mag % 2 ^ mw + 2 ^ mw, emin + (mag / 2 ^ mw : Nat) - 1)

/-- An IEEE-shaped format: mantissa bits, least exponent, magnitude bits of infinity, sign bit, canonical NaN (R65, R67). -/
structure Ieee where
  mw   : Nat
  emin : Int
  inf  : Nat
  sign : Nat
  nan  : Nat
deriving DecidableEq, Repr

def fmt32 : Ieee := ⟨23, -149, 0x7F800000, 31, 0x7FC00000⟩
def fmtBf : Ieee := ⟨7, -133, 0x7F80, 15, 0x7FC0⟩
def fmt16 : Ieee := ⟨10, -24, 0x7C00, 15, 0x7E00⟩
def fmtE5 : Ieee := ⟨2, -16, 0x7C, 7, 0x7E⟩

/-- Bits to number (R65). -/
def Ieee.dec (f : Ieee) (b : Nat) : Num :=
  let neg := b.testBit f.sign
  let mag := b % 2 ^ f.sign
  if f.inf < mag then .nan
  else if mag = f.inf then .inf neg
  else .fin neg (splitBits f.mw f.emin mag).1 (splitBits f.mw f.emin mag).2

/-- Number to bits, rounded once (R67, R77). -/
def Ieee.enc (f : Ieee) (x : Num) : Nat :=
  match x with
  | .nan => f.nan
  | .inf n => f.inf + n.toNat * 2 ^ f.sign
  | .fin n m e => min (roundBits f.mw f.emin m e) f.inf + n.toNat * 2 ^ f.sign

def dec32 (b : BitVec 32) : Num := fmt32.dec b.toNat
def enc32 (x : Num) : BitVec 32 := BitVec.ofNat 32 (fmt32.enc x)

/-- E4M3 (R65): two NaN encodings and no infinity. -/
def decE4 (b : Nat) : Num :=
  let mag := b % 128
  if mag = 127 then .nan else .fin (b.testBit 7) (splitBits 3 (-9) mag).1 (splitBits 3 (-9) mag).2

/-- FP32 to E4M3 at contract level 2, or at level 1 (R78). -/
def encE4 (level1 : Bool) (x : Num) : Nat :=
  match x with
  | .nan => 0x7F
  | .inf n => if level1 then 0x7F else 0x7E + n.toNat * 128
  | .fin n m e =>
    let b := roundBits 3 (-9) m e
    if b ≤ 0x7E then b + n.toNat * 128 else if level1 then 0x7F else 0x7E + n.toNat * 128

/-! ### Exact arithmetic -/

/-- The signed mantissa at exponent `e`, which is at most the number's own. -/
def signedAt (neg : Bool) (m : Nat) (e0 e : Int) : Int :=
  let v : Int := (m * 2 ^ (e0 - e).toNat : Nat)
  if neg then -v else v

/-- Exact sum, with the IEEE rules for zeros, infinities and NaN (R85). -/
def addN : Num → Num → Num
  | .nan, _ => .nan
  | _, .nan => .nan
  | .inf a, .inf b => if a = b then .inf a else .nan
  | .inf a, _ => .inf a
  | _, .inf b => .inf b
  | .fin n1 m1 e1, .fin n2 m2 e2 =>
    let e := min e1 e2
    let v := signedAt n1 m1 e1 e + signedAt n2 m2 e2 e
    if v = 0 then .fin (n1 && n2 && decide (m1 = 0) && decide (m2 = 0)) 0 e else .fin (decide (v < 0)) v.natAbs e

/-- Exact product. -/
def mulN : Num → Num → Num
  | .nan, _ => .nan
  | _, .nan => .nan
  | .inf a, .inf b => .inf (xor a b)
  | .inf a, .fin b m _ => if m = 0 then .nan else .inf (xor a b)
  | .fin a m _, .inf b => if m = 0 then .nan else .inf (xor a b)
  | .fin a m1 e1, .fin b m2 e2 => .fin (xor a b) (m1 * m2) (e1 + e2)

def negN : Num → Num
  | .nan => .nan
  | .inf a => .inf (!a)
  | .fin a m e => .fin (!a) m e

/-- A power of two applied exactly. -/
def scaleN (k : Int) : Num → Num
  | .fin a m e => .fin a m (e + k)
  | x => x

/-- An integer as a number. -/
def intN (i : Int) : Num := .fin (decide (i < 0)) i.natAbs 0

def add32 (a b : BitVec 32) : BitVec 32 := enc32 (addN (dec32 a) (dec32 b))
def mul32 (a b : BitVec 32) : BitVec 32 := enc32 (mulN (dec32 a) (dec32 b))
def fma32 (a b c : BitVec 32) : BitVec 32 := enc32 (addN (mulN (dec32 a) (dec32 b)) (dec32 c))

/-- Order of the bits of an IEEE-shaped number without NaN: −0 below +0 (R88). -/
def Ieee.key (f : Ieee) (b : Nat) : Int := if b.testBit f.sign then -((b % 2 ^ f.sign : Nat) : Int) - 1 else (b : Int)

def Ieee.isNan (f : Ieee) (b : Nat) : Bool := decide (f.inf < b % 2 ^ f.sign)

/-- MAX and MIN of R88. -/
def Ieee.max (f : Ieee) (a b : Nat) : Nat :=
  if f.isNan a || f.isNan b then f.nan else if f.key a < f.key b then b else a

def Ieee.min (f : Ieee) (a b : Nat) : Nat :=
  if f.isNan a || f.isNan b then f.nan else if f.key b < f.key a then b else a

/-! ### Integers -/

/-- An integer clamped to `w` bits of two's complement, and whether the clamp took effect. -/
def clampInt (w : Nat) (i : Int) : Int × Bool :=
  let hi : Int := 2 ^ (w - 1) - 1
  let lo : Int := -(2 ^ (w - 1))
  if hi < i then (hi, true) else if i < lo then (lo, true) else (i, false)

/-- FP32 to an integer of `w` bits: nearest-even, clamped, NaN to 0; whether a clamp or a NaN was met (R80). -/
def toInt (w : Nat) : Num → Int × Bool
  | .nan => (0, true)
  | .inf n => (if n then -(2 ^ (w - 1)) else 2 ^ (w - 1) - 1, true)
  | .fin n m e =>
    let v : Int := if 0 ≤ e then (m * 2 ^ e.toNat : Nat) else (rne m (-e).toNat : Nat)
    clampInt w (if n then -v else v)

/-- Two's-complement bits of an integer. -/
def intBits (w : Nat) (i : Int) : Nat := (i % (2 ^ w : Nat)).toNat

/-- The integer two's-complement bits hold. -/
def bitsInt (w : Nat) (b : Nat) : Int := if b.testBit (w - 1) then (b % 2 ^ w : Nat) - (2 ^ w : Nat) else (b % 2 ^ w : Nat)

/-! ### MX elements (R65, R69, R79) -/

/-- Element formats of the MX codes. -/
inductive MxElem where
  | e4m3 | e5m2 | e3m2 | e2m3 | e2m1 | int8
deriving DecidableEq, Repr

/-- Bits of an element. -/
def mxWidth : MxElem → Nat
  | .e4m3 => 8
  | .e5m2 => 8
  | .e3m2 => 6
  | .e2m3 => 6
  | .e2m1 => 4
  | .int8 => 8

/-- Element bits to number, unscaled (R65, R69). -/
def mxDec (f : MxElem) (b : Nat) : Num :=
  match f with
  | .e4m3 => decE4 b
  | .e5m2 => fmtE5.dec b
  | .e3m2 => .fin (b.testBit 5) (splitBits 2 (-4) (b % 32)).1 (splitBits 2 (-4) (b % 32)).2
  | .e2m3 => .fin (b.testBit 5) (splitBits 3 (-3) (b % 32)).1 (splitBits 3 (-3) (b % 32)).2
  | .e2m1 => .fin (b.testBit 3) (splitBits 1 (-1) (b % 8)).1 (splitBits 1 (-1) (b % 8)).2
  | .int8 => scaleN (-6) (intN (bitsInt 8 b))

/-- Element with its block scale: a scale of 0xFF is NaN (R69). -/
def mxVal (f : MxElem) (b scale : Nat) : Num := if scale = 0xFF then .nan else scaleN (scale - 127 : Int) (mxDec f b)

/-- The positive largest-magnitude encoding (R79). -/
def mxTop : MxElem → Nat
  | .e4m3 => 0x7E
  | .e5m2 => 0x7B
  | .e3m2 => 0x1F
  | .e2m3 => 0x1F
  | .e2m1 => 0x7
  | .int8 => 0x7F

/-- emax of R79. -/
def mxEmax : MxElem → Int
  | .e4m3 => 8
  | .e5m2 => 15
  | .e3m2 => 4
  | .e2m3 => 2
  | .e2m1 => 2
  | .int8 => 0

/-- A finite number already divided by 2^X, to element bits: nearest-even, clamped (R79). -/
def mxEnc (f : MxElem) (x : Num) : Nat :=
  match x with
  | .fin n m e =>
    match f with
    | .e4m3 => min (roundBits 3 (-9) m e) 0x7E + n.toNat * 128
    | .e5m2 => min (roundBits 2 (-16) m e) 0x7B + n.toNat * 128
    | .e3m2 => min (roundBits 2 (-4) m e) 0x1F + n.toNat * 32
    | .e2m3 => min (roundBits 3 (-3) m e) 0x1F + n.toNat * 32
    | .e2m1 => min (roundBits 1 (-1) m e) 0x7 + n.toNat * 8
    | .int8 => intBits 8 (toInt 8 (.fin n m (e + 6))).1
  | _ => mxTop f

/-- Magnitude order of two finite numbers. -/
def magLt (m1 : Nat) (e1 : Int) (m2 : Nat) (e2 : Int) : Bool :=
  let e := min e1 e2
  decide (m1 * 2 ^ (e1 - e).toNat < m2 * 2 ^ (e2 - e).toNat)

/-- Block conversion of R79: the scale byte and the element bits. -/
def mxBlock (f : MxElem) (xs : List Num) : Nat × List Nat :=
  if xs.any fun x => match x with
      | .fin _ _ _ => false
      | _ => true
  then (0xFF, xs.map fun _ => mxTop f)
  else
    let top : Nat × Int := xs.foldl (fun a x => match x with
      | .fin _ m e => if magLt a.1 a.2 m e then (m, e) else a
      | _ => a) (0, 0)
    let x : Int := if top.1 = 0 then -127 else max (-127) (min 127 (top.2 + (Nat.log2 top.1 : Int) - mxEmax f))
    ((x + 127).toNat, xs.map fun v => mxEnc f (scaleN (-x) v))

/-! ### The exponent (R89, R90) -/

/-- The largest k below 2^25 with k^64 at most `n`, by bits from bit `b - 1`. -/
def root64 (n : Nat) : Nat → Nat → Nat
  | 0, k => k
  | b + 1, k => if (k + 2 ^ b) ^ 64 ≤ n then root64 n b (k + 2 ^ b) else root64 n b k

/-- t[i]: 2^(i/64) rounded to nearest in FP32. The root is taken to one bit more than the mantissa, and no tie arises. -/
def expTab (i : Nat) : Num := .fin false ((root64 (2 ^ (i + 1536)) 25 0 + 1) / 2) (-23)

/-- Floor of a finite number, an integer. -/
def floorN (neg : Bool) (m : Nat) (e : Int) : Int :=
  let v : Int := if neg then -(m : Int) else m
  if 0 ≤ e then v * 2 ^ e.toNat else v / (2 ^ (-e).toNat : Nat)

/-- One FP32 rounding. -/
def rnd (x : Num) : Num := dec32 (enc32 x)

def expC1 : Num := dec32 0x3F317218
def expC2 : Num := dec32 0x3E75FDF0
def expC3 : Num := dec32 0x3D635847

/-- The steps of R89 after y, for a finite y in range. -/
def expCore (neg : Bool) (m : Nat) (e : Int) : BitVec 32 :=
  let n0 := floorN neg m e
  let f0 := rnd (addN (.fin neg m e) (intN (-n0)))
  let one := addN f0 (.fin true 1 0)
  let full := match one with
    | .fin _ 0 _ => true
    | _ => false
  let n := if full then n0 + 1 else n0
  let f := if full then Num.fin false 0 0 else f0
  let i := match f with
    | .fin _ fm fe => (floorN false fm (fe + 6)).toNat
    | _ => 0
  let r := addN f (.fin true i (-6))
  let a := rnd (addN (mulN expC3 r) expC2)
  let a := rnd (addN (mulN a r) expC1)
  let a := rnd (mulN a r)
  let t := expTab i
  let v := rnd (addN (mulN t a) t)
  enc32 (scaleN n v)

/-- EXP (R89). -/
def exp32 (b : BitVec 32) : BitVec 32 :=
  match dec32 b with
  | .nan => 0x7FC00000
  | x =>
    match rnd (mulN x (dec32 0x3FB8AA3B)) with
    | .nan => 0x7FC00000
    | .inf n => if n then 0 else 0x7F800000
    | .fin n m e =>
      match addN (.fin n m e) (intN (-128)), addN (.fin n m e) (intN 152) with
      | .fin false _ _, _ => 0x7F800000
      | _, .fin true _ _ => 0
      | _, _ => expCore n m e

/-! ### The reciprocal (R91) -/

/-- g[j]: 128 / (129 + 2·j) rounded to nearest in FP32; the divisor is odd, so no tie arises. -/
def rcpSeed (j : Nat) : Num := .fin false ((2 ^ 32 + (129 + 2 * j)) / (2 * (129 + 2 * j))) (-24)

/-- RCP (R91). -/
def rcp32 (b : BitVec 32) : BitVec 32 :=
  match dec32 b with
  | .nan => 0x7FC00000
  | .inf n => if n then 0x80000000 else 0
  | .fin n 0 _ => if n then 0xFF800000 else 0x7F800000
  | .fin n m e =>
    let l := Nat.log2 m
    let x : Num := .fin true m (-(l : Int))
    let s := rcpSeed ((m - 2 ^ l) * 64 / 2 ^ l)
    let d := rnd (addN (mulN x s) (.fin false 1 0))
    let s := rnd (addN (mulN s d) s)
    let d := rnd (addN (mulN x s) (.fin false 1 0))
    let s := rnd (addN (mulN s d) s)
    match scaleN (-(e + l)) s with
    | .fin _ sm se => enc32 (.fin n sm se)
    | y => enc32 y

/-- The bits of an FP32 value as the QH9 produces it: a NaN is the canonical one, without its payload (R67). -/
def canon32 (x : BitVec 32) : BitVec 32 := if 0x7F800000#32 < x &&& 0x7FFFFFFF then 0x7FC00000 else x

end Sys2Proof.Machine
end

