-- ==== Sys2Proof/Machine/Memory.lean ====
section
/-! DEFINITION. Reads and writes of a slice with checking, correction, error accounting and sparing (R196 to R200, R231, R232,
R360 to R382), and the lines the square cache takes (R204, R205). -/

namespace Sys2Proof.Machine

/-! ### Defects found in service -/

/-- NEW_DEFECT (R429): each new entry of the runtime defect map raises it. The spec gives no layout of the location (log
entry 9). -/
def newDefect (s : State) (kind unit loc : Nat) : State :=
  let s := bump { s with floor := { s.floor with unsaved := true, gen := s.floor.gen + 1 } } (ctrSquare 43) 1
  raise s 0x0206 0 [(16, 1, kind), (18, 2, unit), (20, 4, loc)]

/-- A spared row enters the runtime defect map (R402); its EEPROM copy is written later. -/
def addRowDefect (s : State) (q k row : Nat) : State :=
  let s := voteRows s
  newDefect { s with floor := { s.floor with rows := Tri.same (s.floor.rows.use ++ [(q, k, row)]) } } 4 q (k * 2 ^ 21 + row % 8192 * 2 ^ 8)

/-- Kind, unit and location of a defect as NEW_DEFECT gives them (log entry 9). -/
def defectFields : UnitFault → Nat × Nat × Nat
  | .croft p => (0, p, 0)
  | .lane p l => (1, p, l)
  | .gleaner p l u => (2, p, 4 * l + u)
  | .chain p l u => (2, p, 4 * l + u + 2 ^ 8)
  | .link p u l => (3, p, l + 512 * u)
  | .cmdLink p u l via => (3, p, 320 + l + 16 * via + 512 * u)
  | .clock p u => (3, p, 352 + 512 * u)
  | .subch p u => (5, p, u)
  | .sliceCtl p => (0, p, 1)
  | .village v => (6, v, 64)
  | .portLane v d g => (6, v, 16 * d + g)
  | .bellLane v d => (6, v, 32 + d)
  | .reeve r => (7, 0, r)
  | .sieve v => (7, v, 1)
  | .squareCache => (7, 0, 2)
  | .crossbar => (7, 0, 0)
  | .hostPort => (7, 0, 0)
  | .criticalStore => (7, 0, 0)

/-- A new unit in the runtime defect map (R402); a lane of a group or of the bells is entered once for each lost, and a link or a hop of a chain
again when its spare is lost. -/
def addDefect (s : State) (d : UnitFault) : State :=
  let many := match d with
    | .portLane _ _ _ => true
    | .bellLane _ _ => true
    | .link _ _ _ => true
    | .chain _ _ _ => true
    | _ => false
  let s := voteDefects s
  if s.floor.defects.use.contains d && !many then s
  else
    let f := defectFields d
    newDefect { s with floor := { s.floor with defects := Tri.same (s.floor.defects.use ++ [d]) } } f.1 f.2.1 f.2.2

/-! ### Row sparing (R381, R382) -/

/-- The word a row copy writes for one it reads: corrected, or poison for one it cannot correct. -/
def copyWord (l : Loc) (c : BitVec 80) : BitVec 80 :=
  match classify l c with
  | .corr b0 b1 => (WClass.corr b0 b1).fix c
  | .uncorr => poisonWord l
  | .guard => poisonWord l
  | _ => c

/-- A confirmed error of a word is counted, logged and reported (R360, R369, R372, R373, R389 to R391); `hits` is the tracking count
after it, and `first` the word as first read, whose SYN the record gives. The sweeper passes over never-written and poison words
(R378). -/
def countFault (s : State) (q : Nat) (l : Loc) (c : BitVec 80) (src : Src) (part addr hits : Nat)
    (spare : Bool := decide (8192 ≤ physRow s q l.k l.row)) (first : BitVec 80 := c) : State :=
  let rec0 : LogRec :=
    { etype := 0, source := srcCode src, pcroft := q, layer := l.k / 8, bank := l.k % 8, row := l.row,
      spare := spare, col := l.col, word := l.w, syn := syndrome l first, part := part, addr := addr }
  match classify l c with
  | .clean => s
  | .corr b0 b1 =>
    let s := bump s (ctrSlice q 33) 1
    let s := if b1.isSome then bump s (ctrSlice q 34) 1 else s
    addBucket (logError s { rec0 with etype := if b1.isSome then 1 else 0, bit0 := b0, bit1 := b1.getD 0xFF, hits := hits }) q
  | .uncorr =>
    raise (logError (bump s (ctrSlice q 35) 1) { rec0 with etype := 2 }) 0x0102 2
      [(16, 2, q), (18, 1, part), (19, 1, srcCode src), (20, 8, addr)]
  | .guard =>
    raise (logError (bump s (ctrSlice q 36) 1) { rec0 with etype := 5 }) 0x0103 2
      [(16, 2, q), (18, 1, part), (19, 1, srcCode src), (20, 8, addr)]
  | .never => if src = .sweeper then s else logError (bump s (ctrSlice q 37) 1) { rec0 with etype := 3 }
  | .poison => if src = .sweeper then s else logError (bump s (ctrSlice q 38) 1) { rec0 with etype := 4 }

/-- Words of row `row` of a bank as a row copy reads them: never-written and poison words are copied as they are (R381). -/
def rowWords (s : State) (q k row : Nat) : List (BitVec 80) :=
  (List.range 256).map fun n => wordAt s (bankKey s q ⟨k, row, n / 4, n % 4⟩)

/-- Granules of a row's words with a syndrome that is not zero: each is read again (R231). -/
def rowRereads (k row : Nat) (ws : List (BitVec 80)) : Nat :=
  ((List.range 32).filter fun g => (List.range 8).any fun i =>
    syndrome ⟨k, row, 2 * g + i / 4, i % 4⟩ (ws.getD (8 * g + i) 0) != 0).length

/-- A row copy meets a word: an error in it is counted, unless it is the word at `known`, whose error was counted when it was confirmed.
`spare` says whether the row read lies on a spare row. -/
def copyFault (s : State) (q : Nat) (l : Loc) (c : BitVec 80) (known : Option Loc) (spare : Bool) : State :=
  match classify l c with
  | .never => s
  | .poison => s
  | _ => if known = some l then s else countFault s q l c .rowCopy 0xFF (dpaOf s q ((offsetOf s q l).getD 0)) 0 spare

/-- Write the words of a row where it now lies, each corrected or poisoned. -/
def putRow (s : State) (q k row : Nat) (ws : List (BitVec 80)) (known : Option Loc) (spare : Bool) : State :=
  ws.zipIdx.foldl (fun s e =>
    let l : Loc := ⟨k, row, e.2 / 4, e.2 % 4⟩
    putAt (copyFault s q l e.1 known spare) (bankKey s q l) (copyWord l e.1)) s

/-- A row has taken the spare row `j` of its bank: it is counted, logged and raised as ROW_SPARED (R381). -/
def reportSpare (s : State) (q k row j : Nat) : State :=
  let s := logError (bump s (ctrSlice q 42) 1) { etype := 6, source := 9, pcroft := q, layer := k / 8, bank := k % 8, row := row, spare := true,
                                                 addr := dpaOf s q ((offsetOf s q ⟨k, row, 0, 0⟩).getD 0) }
  raise s 0x0104 0 [(16, 2, q), (18, 1, k / 8), (19, 1, k % 8), (20, 2, row), (22, 1, 15 - j)]

/-- The first free spare of a bank at or past number `j` that is not itself bad. -/
def goodSpare (bad : List (Nat × Nat × Nat)) (p k j : Nat) : Option Nat :=
  (List.range 16).find? fun i => decide (j ≤ i) && !bad.contains (p, k, 8192 + i)

/-- Spare row `row` of bank slot `k` of slice `q`: the copy, the remap and its records; or ROWSPARE_EXHAUSTED, once for the
bank. A spare row that serves none has nothing to spare. `known` is the word whose error, counted already, is the cause. -/
def spareRow (s : State) (q k row : Nat) (known : Option Loc := none) : State :=
  if 8192 ≤ row then s
  else match goodSpare s.floor.rows.use q k (tget zeroN (s.slice q).spCount k) with
  | some j =>
    let ws := rowWords s q k row
    let spare := decide (8192 ≤ physRow s q k row)
    let s := countReread s q (slotSub k) (rowRereads k row ws)
    let s := modSlice s q fun x => { x with
      spares := tset zeroN x.spares (8208 * k + row) (8192 + j)
      spCount := tset zeroN x.spCount k (j + 1)
      track := x.track.filter fun t => ¬ (t.loc / 2 ^ 8 = k * 2 ^ 13 + row % 8192) }
    let s := putRow s q k row ws known spare
    addRowDefect (reportSpare s q k row j) q k row
  | none =>
    if tget zeroB (s.slice q).spExh k then s
    else
      raise (modSlice s q fun x => { x with spExh := tset zeroB x.spExh k true }) 0x0105 1
        [(16, 2, q), (18, 1, k / 8), (19, 1, k % 8)]

/-! ### Location tracking (R374) -/

/-- The entry with the oldest first correction. -/
def oldestTrack : List Track → Option Track
  | [] => none
  | t :: ts =>
    match oldestTrack ts with
    | none => some t
    | some u => if t.first ≤ u.first then some t else some u

/-- A stored correctable error at a location: the table after it, its count, and whether an entry was replaced. -/
def trackAdd (ts : List Track) (loc now : Nat) : List Track × Nat × Bool :=
  match ts.find? fun t => t.loc == loc with
  | some t => (mapIf (fun u => u.loc == loc) (fun u => { u with count := min 3 (u.count + 1) }) ts, min 3 (t.count + 1), false)
  | none =>
    if ts.length < 64 then (ts ++ [⟨loc, 1, now⟩], 1, false)
    else match oldestTrack ts with
      | some o => (ts.filter (fun u => u.loc ≠ o.loc) ++ [⟨loc, 1, now⟩], 1, true)
      | none => ([⟨loc, 1, now⟩], 1, false)

/-! ### Suspect links (R232) -/

/-- Code word whose links carry code word `w` of a beat: its own, or one of the working half's after a fold (R227, R235). -/
def halfWord (y : Width) (w : Nat) : Nat :=
  match y with
  | .foldL => w % 2
  | .foldH => 2 + w % 2
  | _ => w

/-- Data link that carries bit `b` (numbered as in R389) of code word `w` (R227, R235). -/
def linkOf (y : Width) (w b : Nat) : Nat :=
  if b < 64 then 64 * halfWord y w + b else 256 + 16 * halfWord y w + (b - 64)

/-- Bits of code word `w` that data links carry, numbered as in R389. -/
def linkBits (y : Width) (w : Nat) (links : List Nat) : List Nat :=
  links.filterMap fun l => (List.range 80).find? fun b => linkOf y w b == l

/-- Links become suspect: the sub-channel is held for the link test (R232). -/
def suspectLinks (s : State) (q u : Nat) (links : List Nat) : State :=
  let y := (s.slice q).sub u
  let new := links.filter fun l => ¬ y.suspect.contains l
  if new.isEmpty then s
  else bump (modSub s q u fun y => { y with
      suspect := y.suspect ++ new, held := true, heldAt := if y.held then y.heldAt else s.now }) (ctrSlice q 23) new.length

/-- An error in a granule at a data link: 16 different granules within 1 ms make the link suspect. `corr` numbers the stored
correction it was counted as. -/
def linkHit (s : State) (q u link gran : Nat) (corr : Option Corr) : State :=
  let s := modSub s q u fun y => { y with
    hits := (y.hits.filter fun h => s.now < h.at0 + 1000000) ++ [⟨link, gran, s.now, corr⟩] }
  if 16 ≤ (((((s.slice q).sub u).hits.filter fun h => h.link = link).map (·.gran)).eraseDups).length then suspectLinks s q u [link] else s

/-! ### One code word as read -/

/-- Whether a buffer holds newer data for the word at an offset (R199, R372). -/
def bufferedWord (s : State) (p off : Nat) : Bool :=
  (s.slice p).wcb.any (fun l => l.line == off / 128 && l.valid.getLsbD (off % 128 / 8)) ||
    (s.slice p).mgb.any fun m => m.word == off / 8

/-- The write-back of a corrected word (R372): a newer write that a buffer holds replaces it, and the hold of R144 delays it. Whether it was
stored. -/
def writeBack (s : State) (q : Nat) (l : Loc) (fixed : BitVec 80) (src : Src) (off : Option Nat) (newer : Bool) : Bool × State :=
  let held : Bool := match openRow s q l.k, off with
    | some o, some a => o.meets a && src != .gleaner
    | _, _ => false
  if newer then (false, s)
  else if held then (false, enqueue s q (slotSub l.k) ⟨q, off.getD 0, .words [(off.getD 0, wordData fixed, false)], src, s.now, false⟩)
  else (true, putAt s (bankKey s q l) fixed)

/-- A stored correctable error of a word: the write-back, then the counts, the tracking table and the links, and the row spared at the third.
A correction that is counted and not stored yet is not counted again (R372 to R374). `more` says that the read is a read-modify-write's,
which replaces the word. -/
def settleCorr (s : State) (q : Nat) (l : Loc) (c : BitVec 80) (b0 : Nat) (b1 : Option Nat) (src : Src) (part : Nat) (off : Option Nat)
    (first : BitVec 80) (more : Bool) : State :=
  let newer : Bool := more || match off with
    | some o => bufferedWord s q o
    | none => false
  if (s.slice q).noted.contains l.bits then s
  else
    let b := writeBack s q l ((WClass.corr b0 b1).fix c) src off newer
    let t := trackAdd (b.2.slice q).track l.bits s.dev.time
    let s := modSlice b.2 q fun x => { x with track := t.1, noted := if b.1 then x.noted else x.noted ++ [l.bits] }
    let s := if t.2.2 then bump s (ctrSlice q 41) 1 else s
    let n : Corr := ⟨s.elogN, l.bits, b1.isSome⟩
    let addr := match off with
      | some o => dpaOf s q o
      | none => 0
    let s := countFault s q l c src part addr t.2.1 (first := first)
    let u := slotSub l.k
    let w := ((s.slice q).sub u).width
    let s := linkHit s q u (linkOf w l.w b0) (l.bits / 8) (some n)
    let s := match b1 with
      | some b => linkHit s q u (linkOf w l.w b) (l.bits / 8) (some n)
      | none => s
    if t.2.1 = 3 then spareRow s q l.k l.row (some l) else s

/-- A word that cannot be used: its error is counted and reported when it is first confirmed, and its row is spared (R375, R390). -/
def settleBad (s : State) (q : Nat) (l : Loc) (c : BitVec 80) (src : Src) (part : Nat) (off : Option Nat) (first : BitVec 80) : State :=
  let key := bankKey s q l
  if (s.slice q).confirmed.contains (key, c) then s
  else
    let addr := match off with
      | some o => dpaOf s q o
      | none => 0
    spareRow (countFault (modSlice s q fun x => { x with confirmed := x.confirmed ++ [(key, c)] }) q l c src part addr 0 (first := first))
      q l.k l.row (some l)

/-- A confirmed error of a word (R360 to R375): the data delivered, whether it is poisoned, and the state with the correction
written back, the counts, the log, the events and the sparing. `off` is the slice offset the word serves, when it serves one, and `first`
the word as first read. -/
def settleWord (s : State) (q : Nat) (l : Loc) (c : BitVec 80) (src : Src) (part : Nat) (off : Option Nat) (first : BitVec 80 := c)
    (more : Bool := false) : (BitVec 64 × Bool) × State :=
  let addr := match off with
    | some o => dpaOf s q o
    | none => 0
  match classify l c with
  | .clean => ((wordData c, false), s)
  | .corr b0 b1 => ((wordData ((WClass.corr b0 b1).fix c), false), settleCorr s q l c b0 b1 src part off first more)
  | .uncorr => ((freeVal 64 s, true), drew (settleBad s q l c src part off first))
  | .guard => ((freeVal 64 s, true), drew (settleBad s q l c src part off first))
  | .never => ((freeVal 64 s, true), drew (countFault s q l c src part addr 0 (first := first)))
  | .poison => ((freeVal 64 s, true), drew (countFault s q l c src part addr 0 (first := first)))

/-- One word of a row that a migration moves (R415): it is read and settled as any word that a reeve reads, and goes corrected, or as the
poison word, as does one of a retired sub-channel (R237). -/
def moveWord (s : State) (q : Nat) (l : Loc) : BitVec 80 × State :=
  if isRetired s q (slotSub l.k) then (poisonWord l, s)
  else
    let c := wordAt s (bankKey s q l)
    (copyWord l c, match classify l c with
      | .never => s
      | .poison => s
      | _ => (settleWord s q l c .reeve ((partOf s q).getD 0xFF) (offsetOf s q l)).2)

/-- Row `row` of bank slot `k` moves from slice `a` to slice `b`, each through its own spares, or the two exchange it; a word keeps its
location (R415, R417). -/
def moveRow (s : State) (a b k row : Nat) (exchange : Bool) : State :=
  let s := countReread s a (slotSub k) (rowRereads k row (rowWords s a k row))
  let s := if exchange then countReread s b (slotSub k) (rowRereads k row (rowWords s b k row)) else s
  (List.range 256).foldl (fun s n =>
    let l : Loc := ⟨k, row, n / 4, n % 4⟩
    let x := moveWord s a l
    let y := if exchange then moveWord x.2 b l else (0, x.2)
    let s := putAt y.2 (bankKey y.2 b l) x.1
    if exchange then putAt s (bankKey s a l) y.1 else s) s

/-! ### Sectors and granules -/

/-- What a sector read found: re-reads made, whether a transfer error was found, and the four words. -/
structure SectorRead where
  rereads : Nat
  xfer    : Bool
  words   : List (BitVec 64 × Bool)
deriving DecidableEq, Repr

/-- A code word as received when data links `links` deliver inverted bits. -/
def received (y : Width) (c : BitVec 80) (w : Nat) (links : List Nat) : BitVec 80 := (linkBits y w links).foldl flipBit c

/-- The bits inverted on the links of a granule, by data link, with the reads on which each shows: bit 0 the first read, bits 1 to 3
the re-reads. -/
abbrev Flips := List (Nat × BitVec 4)

/-- The four words of a sector as read number `i` receives them. -/
def readTry (y : Width) (stored : List (BitVec 80)) (fs : Flips) (i : Nat) : List (BitVec 80) :=
  (List.range 4).map fun w => received y (stored.getD w 0) w ((fs.filter fun f => f.2.getLsbD i).map (·.1))

/-- Their syndromes. -/
def synsOf (l : Loc) (cs : List (BitVec 80)) : List (BitVec 16) := (List.range 4).map fun w => syndrome { l with w := w } (cs.getD w 0)

/-- How the checks of R231 end: the number of the read delivered and whether its words are clean; none when three re-reads have all
failed differently. DESIGN CHOICE (log entry 91): "the same syndromes" are those of any earlier read. -/
def readEnd (l : Loc) (y : Width) (stored : List (BitVec 80)) (fs : Flips) : Option (Nat × Bool) :=
  let syn := fun i => synsOf l (readTry y stored fs i)
  let clean := fun i => (syn i).all (· == 0)
  let same := fun i => (List.range i).any fun j => syn j == syn i
  if clean 0 then some (0, true)
  else match (List.range 3).find? fun i => clean (i + 1) || same (i + 1) with
    | some i => some (i + 1, clean (i + 1))
    | none => none

/-- The stored words of a sector. -/
def sectorWords (s : State) (q : Nat) (l : Loc) : List (BitVec 80) := (List.range 4).map fun w => wordAt s (bankKey s q { l with w := w })

/-- Settle the four words of a sector. -/
def settleWords (s : State) (q : Nat) (l : Loc) (cs firsts : List (BitVec 80)) (src : Src) (part : Nat) (off : Option Nat) :
    Nat → List (BitVec 64 × Bool) × State
  | 0 => ([], s)
  | n + 1 =>
    let r := settleWords s q l cs firsts src part off n
    let x := settleWord r.2 q { l with w := n } (cs.getD n 0) src part (off.map (· + 8 * n)) (firsts.getD n 0)
    (r.1 ++ [x.1], x.2)

/-- Read one sector from the banks with the checks of R231. A read that fails three re-reads is not delivered (R232): its words
here are poisoned, and the callers that can meet one hold it back. -/
def readSector (s : State) (q : Nat) (l : Loc) (src : Src) (part : Nat) (off : Option Nat) (fs : Flips) : SectorRead × State :=
  let u := slotSub l.k
  let y := ((s.slice q).sub u).width
  let stored := sectorWords s q l
  match readEnd l y stored fs with
  | none => (⟨3, true, List.replicate 4 (0, true)⟩, s)
  | some (i, clean) =>
    let got := readTry y stored fs i
    let xfer := decide (synsOf l (readTry y stored fs 0) ≠ synsOf l got)
    let s := if xfer then (fs.map (·.1)).foldl (fun s k => linkHit s q u k (l.bits / 8) none) s else s
    if clean then (⟨i, xfer, got.map fun c => (wordData c, false)⟩, s)
    else
      let r := settleWords s q l got (readTry y stored fs 0) src part off 4
      (⟨i, xfer, r.1⟩, r.2)

/-- Bytes of words, each with its word's poison. -/
def wordBytes (ws : List (BitVec 64 × Bool)) : List (Byte × Bool) :=
  ws.flatMap fun w => (leBytes 8 w.1.toNat).map fun b => (b, w.2)

/-- The bytes a buffer holds for byte `off` of a slice: write-combining buffer, then merge buffer (R199). -/
def bufferedByte (x : Slice) (off : Nat) : Option Byte :=
  match x.mgb.find? fun m => m.word == off / 8 && m.mask.getLsbD (off % 8) with
  | some m => some (tget zero8 m.bytes (off % 8))
  | none =>
    match x.wcb.find? fun l => l.line == off / 128 && l.valid.getLsbD (off % 128 / 8) with
    | some l => some (tget zero8 l.bytes (off % 128))
    | none => none

/-- A byte as read, buffered bytes first: a whole buffered word is clean, a partly buffered one keeps the mark of its word. -/
def overlay (x : Slice) (off : Nat) (b : Byte × Bool) : Byte × Bool :=
  match bufferedByte x off with
  | none => b
  | some v => (v, if x.wcb.any (fun l => l.line == off / 128 && l.valid.getLsbD (off % 128 / 8)) then false else b.2)

/-- Bytes of a line held by the square cache. -/
def sqBytes (l : SqLine) (i n : Nat) : List (Byte × Bool) :=
  (List.range n).map fun j => (tget zero8 l.bytes (i + j), l.poison.getLsbD ((i + j) / 32))

/-- A line of the square cache is used: `f` is what becomes of it (R204). -/
def useSq (s : State) (p line : Nat) (f : SqLine → SqLine) : State :=
  { s with sqc := mapIf (fun y => y.p == p && y.line == line) (fun y => { f y with used := s.uses }) s.sqc, uses := s.uses + 1 }

/-- What the read of a sector came to: re-reads made, whether a transfer error was found, whether the banks moved it, and its bytes. -/
structure SectorOut where
  rereads : Nat
  xfer    : Bool
  moved   : Bool
  bytes   : List (Byte × Bool)

/-- Read the sector at a 32 B aligned offset of slice `p`: from the square cache when it holds the line (R205), else from the
banks with the buffers' bytes over them (R199). An offset with no place reads poisoned. -/
def readAt (s : State) (p idx off : Nat) (src : Src) (part : Nat) (fs : Flips) : SectorOut × State :=
  let s := scanSq s p (off / 128) (off % 128 / 8) 4
  match s.sqc.find? fun l => l.p == p && l.line == off / 128 with
  | some l =>
    (⟨0, false, false, sqBytes l (off % 128) 32⟩, useSq s p (off / 128) id)
  | none =>
    match locate s p idx off with
    | .error _ => (⟨0, false, false, List.replicate 32 (0, true)⟩, s)
    | .ok (q0, l) =>
      let r := readSector s (routeRow s q0 l.k l.row) l src part (some off) fs
      let bs := wordBytes r.1.words
      let x := s.slice p
      (⟨r.1.rereads, r.1.xfer, true, (List.range 32).map fun j => overlay x (off + j) (bs.getD j (0, true))⟩, r.2)

/-- The links disturbed in the granule at an offset. -/
def flipsAt (flips : List (Nat × Nat × BitVec 4)) (off : Nat) : Flips := (flips.filter fun f => f.1 = off / 64).map (·.2)

/-- Read the sectors of one granule that hold `n` bytes from `off`. `flips` gives the links disturbed, by granule. An access that finds its line
in the square cache counts once (R222). -/
def readGran (s : State) (p idx off n : Nat) (src : Src) (part : Nat) (flips : List (Nat × Nat × BitVec 4)) :
    List (Byte × Bool) × State :=
  let a := off / 32 * 32
  let r0 := readAt s p idx a src part (flipsAt flips off)
  let r1 := if a + 32 < off + n then readAt r0.2 p idx (a + 32) src part (flipsAt flips off) else (⟨0, false, false, []⟩, r0.2)
  let rr := max r0.1.rereads r1.1.rereads
  let s := if r0.1.moved || r1.1.moved then countAt r1.2 p idx off
    else if cachedLine s p off then bump r1.2 (ctrSquare 6) 1 else r1.2
  let (q, u) := match locate s p idx off with
    | .ok (q, l) => (routeRow s q l.k l.row, slotSub l.k)
    | .error _ => (p, 0)
  let s := countReread s q u rr
  let s := if r0.1.xfer || r1.1.xfer then bump s (ctrSlice q 20) 1 else s
  (((r0.1.bytes ++ r1.1.bytes).drop (off - a)).take n, s)

/-- Whether a read would still fail after three re-reads (R232). -/
def readFails (s : State) (p idx off n : Nat) (flips : List (Nat × Nat × BitVec 4)) : Bool :=
  (piecesOf 32 off n).any fun x =>
    !(s.sqc.any fun l => l.p == p && l.line == x.1 / 128) &&
    match locate s p idx (x.1 / 32 * 32) with
    | .error _ => false
    | .ok (q0, l) =>
      let q := routeRow s q0 l.k l.row
      (readEnd l ((s.slice q).sub (slotSub l.k)).width (sectorWords s q l) (flipsAt flips x.1)).isNone

/-- A read meets a buffered byte that fails its parity: its code word goes to the bank as the poison word and leaves the buffer
(R371), so the read is delivered poisoned. -/
def settleParity (s : State) (p idx off n : Nat) : State :=
  let x := s.slice p
  let ws := (x.wcb.flatMap fun l => ((List.range 16).filter fun w => l.valid.getLsbD w && l.wordBad w).map fun w => 16 * l.line + w) ++
    (x.mgb.filter fun m => m.bad &&& m.mask != 0).map (·.word)
  (ws.filter fun w => decide (off < 8 * w + 8 ∧ 8 * w < off + n)).foldl (fun s w =>
    putBuffered (unbuffer s p (8 * w) 1) p idx (8 * w) 0 true) s

/-- Whether a read meets bytes held in the write buffers (R222, SC_FWD). -/
def meetsBuffer (s : State) (p off n : Nat) : Bool :=
  (s.slice p).wcb.any (fun l => decide (l.line * 128 < off + n ∧ off < l.line * 128 + 128) &&
    (List.range 16).any fun w => l.valid.getLsbD w && decide (l.line * 128 + 8 * w < off + n ∧ off < l.line * 128 + 8 * w + 8)) ||
  (s.slice p).mgb.any fun m => decide (m.word * 8 < off + n ∧ off < m.word * 8 + 8)

/-- Read `n` bytes at an offset of a slice, granule by granule. -/
def readSlice (s : State) (p idx off n : Nat) (src : Src) (part : Nat) (flips : List (Nat × Nat × BitVec 4)) :
    List (Byte × Bool) × State :=
  let s := if meetsBuffer s p off n then settleParity (bump s (ctrSlice p 17) 1) p idx off n else s
  let r := (piecesOf 64 off n).foldl (fun r x =>
    let y := readGran r.2 p idx x.1 x.2 src part flips
    (r.1 ++ y.1, y.2)) ([], s)
  (r.1, account r.2)

/-- Read `n` bytes at an address that `res` resolves: bytes of an address with no place are poisoned. -/
def readVia (s : State) (res : State → Nat → Except Nat Where) (a n : Nat) (src : Src) (part : Nat) : List (Byte × Bool) × State :=
  (piecesOf 64 a n).foldl (fun r x =>
    match res r.2 x.1 with
    | .error _ => (r.1 ++ List.replicate x.2 (0, true), r.2)
    | .ok w =>
      let y := readSlice r.2 w.p w.idx w.off x.2 src part []
      (r.1 ++ y.1, y.2)) ([], s)

/-! ### Reads of a reeve -/

/-- Whether a reeve's read of a granule has come and waits to be used. -/
def broughtFor (s : State) (who : Asker) (w : Where) (n : Nat) : Option Brought :=
  s.brought.find? fun b => b.who == who && b.p == w.p && b.off == w.off && b.bytes.length == n

/-- The granules of a reeve's read that must still wait for their banks, each with its place, its length and its queue. -/
def readWaits (s : State) (res : State → Nat → Except Nat Where) (a n : Nat) (who : Asker) : List (Where × Nat × Nat × Nat) :=
  (piecesOf 64 a n).filterMap fun x => match res s x.1 with
    | .error _ => none
    | .ok w => if (broughtFor s who w x.2).isSome then none else (readQueue s w.p w.off).map fun y => (w, x.2, y.1, y.2)

/-- A granule of a reeve's read joins its queue, once. -/
def askGran (who : Asker) (s : State) (x : Where × Nat × Nat × Nat) : State :=
  let act : QAct := .read x.2.1 0 who []
  if ((s.slice x.2.2.1).sub x.2.2.2).queue.any fun e => e.p == x.1.p && e.off == x.1.off && decide (e.act = act) then s
  else enqueue s x.2.2.1 x.2.2.2 ⟨x.1.p, x.1.off, act, .reeve, s.now, false⟩

/-- A reeve reads `n` bytes at an address that `res` resolves (R142, R219): none while granules of them wait for their banks, which then
join their queues, and the reeve reads again. What has come stays until the reeve is done with it. -/
def fetchVia (s : State) (res : State → Nat → Except Nat Where) (a n part : Nat) (who : Asker) : Option (List (Byte × Bool)) × State :=
  match readWaits s res a n who with
  | [] =>
    let r := (piecesOf 64 a n).foldl (fun (r : List (Byte × Bool) × State) x =>
      match res r.2 x.1 with
      | .error _ => (r.1 ++ List.replicate x.2 (0, true), r.2)
      | .ok w =>
        match broughtFor r.2 who w x.2 with
        | some b => (r.1 ++ b.bytes, r.2)
        | none =>
          let y := readSlice r.2 w.p w.idx w.off x.2 .reeve part []
          (r.1 ++ y.1, y.2)) ([], s)
    (some r.1, r.2)
  | ws => (none, ws.foldl (askGran who) s)

/-- What the reads of an asker have brought is done with. -/
def dropBrought (s : State) (who : Asker) : State := { s with brought := s.brought.filter fun b => b.who != who }

/-! ### Writes -/

/-- The read-modify-write of a merge-buffer word (R198, R200): read, merge and write back, or the poison word when the old word
cannot be used (R365). -/
def rmwNow (s : State) (p : Nat) (m : MgWord) : State :=
  let idx := sliceIndex s p
  let off := 8 * m.word
  let s := bump s (ctrSlice p 16) 1
  if m.bad &&& m.mask ≠ 0 then account (putBuffered s p idx off 0 true)
  else match locate s p idx off with
    | .error _ => s
    | .ok (q0, l) =>
      let q := routeRow s q0 l.k l.row
      let c := wordAt s (bankKey s q l)
      let s := countAt s p idx off
      let s := countReread s q (slotSub l.k) (if syndrome l c = 0 then 0 else 1)
      let r := settleWord s q l c .rmw 0xFF (some off) c true
      let old := leBytes 8 r.1.1.toNat
      let new := (List.range 8).map fun i => if m.mask.getLsbD i then tget zero8 m.bytes i else old.getD i 0
      countAt (putWord r.2 p idx off (BitVec.ofNat 64 (leNat new)) r.1.2) p idx off 2

/-- A word leaves the merge buffer by its read-modify-write, which waits for its bank as every ordinary write does (R144, R199, R219), unless
the access that makes it go has the bank already (`own`). -/
def rmwWord (s : State) (p : Nat) (m : MgWord) (own : Bool := false) : State :=
  let s := modSlice s p fun x => { x with mgb := x.mgb.filter fun y => y.word ≠ m.word }
  match if own then none else writeQueue s p (8 * m.word) with
  | some (q, u) => enqueue s q u ⟨p, 8 * m.word, .rmw m, .rmw, s.now, false⟩
  | none => rmwNow s p m

/-- The merge-buffer word that has waited longest. -/
def oldestMerge (ms : List MgWord) : Option MgWord := ms.head?

/-- Part of one code word arrives (R196, R198): it merges into a buffered word, or waits in the merge buffer, whose oldest word
falls back when the buffer is full. -/
def mergePut (s : State) (p off : Nat) (data : List Byte) : State :=
  let x := s.slice p
  let word := off / 8
  let w := off % 128 / 8
  if x.wcb.any fun l => l.line == off / 128 && l.valid.getLsbD w then
    modSlice (bump s (ctrSlice p 15) 1) p fun x =>
      match x.wcb.find? fun l => l.line == off / 128 with
      | none => x
      | some l => { x with wcb := newestLine x.wcb { l with
        bytes := tsetList zero8 l.bytes (off % 128) data, last := s.now
        bad := (List.range data.length).foldl (fun v i => v &&& ~~~ BitVec.twoPow 128 (off % 128 + i)) l.bad } }
  else
    let s := match x.mgb.find? fun m => m.word == word with
      | some _ => s
      | none => if x.mgb.length < 16 then s else match oldestMerge x.mgb with
        | some m => rmwWord s p m
        | none => s
    let m := ((s.slice p).mgb.find? fun m => m.word == word).getD ⟨word, [], 0, s.now, 0⟩
    let m' : MgWord := { m with
      bytes := tsetList zero8 m.bytes (off % 8) data
      mask := (List.range data.length).foldl (fun k i => k ||| BitVec.twoPow 8 (off % 8 + i)) m.mask
      bad := (List.range data.length).foldl (fun k i => k &&& ~~~ BitVec.twoPow 8 (off % 8 + i)) m.bad }
    let out := fun s : State => modSlice s p fun x => { x with mgb := x.mgb.filter fun y => y.word ≠ word }
    if m'.mask = BitVec.allOnes 8 then
      if m'.bad = 0 then wcPut (out s) p (8 * word) (tgetList zero8 m'.bytes 0 8) else putBuffered (out s) p (sliceIndex s p) (8 * word) 0 true
    else modSlice s p fun x => { x with
      mgb := if x.mgb.any fun y => y.word == word then mapIf (fun y => y.word == word) (fun _ => m') x.mgb else x.mgb ++ [m'] }

/-- Bytes of one granule arrive (R196): cut at code-word boundaries, each part going its own way. A poisoned write poisons every
code word it touches (R365). -/
def writePiece (s : State) (p idx off : Nat) (data : List Byte) (poison : Bool) : State :=
  if poison then
    let a := off / 8 * 8
    let n := cdiv (off + data.length) 8 * 8 - a
    writeWords s p idx a (List.replicate n 0) true
  else
    let s := dropSq s p (off / 128) (some off)
    let h := min data.length ((8 - off % 8) % 8)
    let mid := (data.length - h) / 8 * 8
    let s := if 0 < h then mergePut s p off (data.take h) else s
    let s := if 0 < mid then writeWords s p idx (off + h) ((data.drop h).take mid) false else s
    let t := data.drop (h + mid)
    if t.isEmpty then s else mergePut s p (off + h + mid) t

/-- Bytes of one granule have their bank: they are written, behind their back-invalidation where one is due (R471). -/
def writeGran (s : State) (p idx off : Nat) (data : List Byte) (poison : Bool) (src : Src) (who : Asker) : State :=
  if biTracked s p off src then biHold s p (off / 64) (.bytes off data poison who) else account (writePiece s p idx off data poison)

/-- Bytes of one granule for which BIRsp has come, or which need none: they wait for their bank, or are written (R219, R471). -/
def writeTold (s : State) (p off : Nat) (data : List Byte) (poison : Bool) (src : Src) (who : Asker) : State :=
  match writeQueue s p off with
  | some (q, u) => enqueue s q u ⟨p, off, .write data poison who true, src, s.now, false⟩
  | none => account (writePiece s p (sliceIndex s p) off data poison)

/-- One granule of an ordinary write: it waits for its bank (R219), or is written. -/
def sendGran (s : State) (p idx off : Nat) (data : List Byte) (poison : Bool) (src : Src) (who : Asker) : State :=
  match writeQueue s p off with
  | some (q, u) => enqueue s q u ⟨p, off, .write data poison who false, src, s.now, false⟩
  | none => writeGran s p idx off data poison src who

/-- Write bytes at an offset of a slice. -/
def writeSlice (s : State) (p idx off : Nat) (data : List Byte) (poison : Bool) (src : Src) (who : Asker) : State :=
  (piecesOf 64 off data.length).foldl (fun s x => sendGran s p idx x.1 ((data.drop (x.1 - off)).take x.2) poison src who) s

/-- Bytes to be written from an address, cut at granules; `bad i` is the poison mark of byte `i`. A granule whose bytes differ in
their mark is cut at code words. -/
def markedPieces (a : Nat) (data : List Byte) (bad : Nat → Bool) : List (Nat × List Byte × Bool) :=
  let marks := fun x : Nat × Nat => (List.range x.2).map fun i => bad (x.1 - a + i)
  ((piecesOf 64 a data.length).flatMap fun x =>
    if (marks x).all id || !(marks x).any id then [x] else piecesOf 8 x.1 x.2).map fun x =>
      (x.1, (data.drop (x.1 - a)).take x.2, (marks x).any id)

/-- Write bytes at an address that `res` resolves, with their marks. Bytes of an address with no place are discarded. -/
def writeVia (s : State) (res : State → Nat → Except Nat Where) (a : Nat) (data : List Byte) (bad : Nat → Bool) (src : Src) (who : Asker) :
    State :=
  (markedPieces a data bad).foldl (fun s x =>
    match res s x.1 with
    | .error _ => s
    | .ok w => sendGran s w.p w.idx w.off x.2.1 x.2.2 src who) s

/-- Write whole words of one value over `n` bytes (MEM_FILL under R370, the zero fills of R158 and R170). -/
def fillVia (s : State) (res : State → Nat → Except Nat Where) (a n : Nat) (pat : BitVec 64) (src : Src) (who : Asker) : State :=
  (piecesOf 64 a n).foldl (fun s x =>
    match res s x.1 with
    | .error _ => s
    | .ok w => sendGran s w.p w.idx w.off ((List.range x.2).map fun i => BitVec.ofNat 8 (pat.toNat / 2 ^ (8 * ((x.1 + i - a) % 8))))
        false src who) s

/-- Drain what a slice's write buffers hold (R197, R198). -/
def drainSlice (s : State) (p : Nat) : State :=
  let s := (s.slice p).mgb.foldl (fun s m => rmwWord s p m) s
  account ((s.slice p).wcb.foldl (fun s l => drainLine s p l) s)

/-! ### Lines of the square cache (R204, R205) -/

/-- The line of a set that was used longest ago. -/
def oldestSq : List SqLine → Option SqLine
  | [] => none
  | l :: ls =>
    match oldestSq ls with
    | none => some l
    | some m => if l.used ≤ m.used then some l else some m

/-- Sets of 16 lines of the 384 MiB square cache beside its staging of 16 MiB, and the set of a device line and of a host line (log
entry 72). -/
def sqSets : Nat := 188416
def devSet (p line : Nat) : Nat := (p * 12582912 + line) % sqSets
def hostSet (n : Nat) : Nat := n % sqSets

/-- The host line of a set that was used longest ago, with the number of that use. -/
def oldestHost (s : State) (set : Nat) : Option (Nat × Nat) :=
  (s.link.hostLines.filter fun e => decide (hostSet e.1 = set ∧ 0 < e.2)).foldl (fun b e =>
    match b with
    | none => some (e.1, e.2 - 1)
    | some c => if e.2 - 1 < c.2 then some (e.1, e.2 - 1) else some c) none

/-- The square cache makes room in a set for a line: of 16, the one used longest ago gives way (R204). A host line is clean; a device
line is written back. -/
def makeRoom (s : State) (set : Nat) : State :=
  let dev := s.sqc.filter fun l => devSet l.p l.line = set
  let hosts := s.link.hostLines.filter fun e => hostSet e.1 = set ∧ 0 < e.2
  if dev.length + hosts.length < 16 then s
  else
    let dropHost := fun n => { s with link := { s.link with hostLines := tset zeroN s.link.hostLines n 0 } }
    match oldestSq dev, oldestHost s set with
    | some l, none => dropSq s l.p l.line
    | none, some (n, _) => dropHost n
    | some l, some (n, t) => if l.used ≤ t then dropSq s l.p l.line else dropHost n
    | none, none => s

/-- Bring a line of a slice into the square cache: a buffered line drains first, a full set of the slice's filter gives up its line
(log entry 72), as does a full set of the cache, and each sector keeps the poison of its words (R366). -/
def takeSq (s : State) (p idx line : Nat) (part : Nat) : State :=
  if s.sqc.any fun l => l.p == p && l.line == line then bump s (ctrSquare 6) 1
  else
    let s := (s.slice p).mgb.foldl (fun s m => if m.word / 16 = line then rmwWord s p m true else s) s
    let s := (s.slice p).wcb.foldl (fun s l => if l.line = line then drainLine s p l true else s) s
    let set := s.sqc.filter fun l => l.p = p ∧ l.line % 1024 = line % 1024
    let s := if set.length < 16 then s else match oldestSq set with
      | some o => bump (dropSq s p o.line) (ctrSquare 10) 1
      | none => s
    let s := makeRoom s (devSet p line)
    let r := readSlice s p idx (128 * line) 128 .square part []
    let bad := (List.range 4).foldl (fun (v : BitVec 4) i =>
      if ((r.1.drop (32 * i)).take 32).any (·.2) then v ||| BitVec.twoPow 4 i else v) 0
    bump { r.2 with sqc := r.2.sqc ++ [⟨p, line, tsetList zero8 [] 0 (r.1.map (·.1)), bad, s.uses, []⟩], uses := s.uses + 1 } (ctrSquare 7) 1

end Sys2Proof.Machine
end

