-- ==== Sys2Proof/Machine/Operands.lean ====
section
/-! DEFINITION. The operand forms of croft instructions: bytes and poison bits of the local store (R52), the gather windows
(R325), the format codes (R47), and elements laid out under R70, R71, R93 to R95. -/

namespace Sys2Proof.Machine

/-! ### The local store -/

def lsKey (p a : Nat) : Nat := Config.lsBytes * p + a
def unitKey (p u : Nat) : Nat := 65536 * p + u

def lsByte (s : State) (p a : Nat) : Byte := tget zero8 s.ls (lsKey p a)

/-- `n` bytes of croft `p`'s local store from `a`. -/
def lsRead (s : State) (p a n : Nat) : List Byte := tgetList zero8 s.ls (lsKey p a) n

/-- Whether unit `u` of croft `p` is poisoned (R52). -/
def lsPoisoned (s : State) (p u : Nat) : Bool := tget zeroB s.lsPoison (unitKey p u)

/-- Whether a range touches a poisoned unit. -/
def poisonedIn (s : State) (p : Nat) (r : Range) : Bool :=
  r.len != 0 && s.lsPoison.any fun e => decide (unitKey p (r.lo / 64) ≤ e.1 ∧ e.1 ≤ unitKey p ((r.lo + r.len - 1) / 64) ∧ e.2)

/-- Words of croft `p`'s local store in a range that its code finds in error (R52), by key, with what it finds. -/
def lsErrs (s : State) (p : Nat) (r : Range) : Table MemErr :=
  s.lsErr.filter fun e => decide (0 < r.len ∧ 8 * e.1 < lsKey p r.lo + r.len ∧ lsKey p r.lo < 8 * e.1 + 8)

/-- Whether a range holds no poisoned unit and no word in error. -/
def lsSound (s : State) (p : Nat) (r : Range) : Bool := !poisonedIn s p r && (lsErrs s p r).isEmpty

/-- Set the poison bit of a unit (R52, R366). -/
def lsPoisonUnit (s : State) (p u : Nat) : State :=
  { s with lsPoison := tset zeroB s.lsPoison (unitKey p u) true, lsTaint := tset zeroN s.lsTaint (unitKey p u) 0 }

/-- One word read in error: a single error is corrected in line, a double error poisons its unit, whose mark stands for it from then
on (R52); either is counted for the croft's slice (R384). -/
def lsFind (p : Nat) (s : State) (e : Nat × MemErr) : State :=
  let a := 8 * e.1 - lsKey p 0
  match e.2 with
  | .sound => s
  | .single => otherError s (some p) false .croft a
  | .double =>
    otherError (lsPoisonUnit { s with lsErr := tset memErr0 s.lsErr e.1 .sound } p (a / 64)) (some p) true .croft a

/-- Ranges of a local store are read: the errors of their words are found. -/
def lsScan (s : State) (p : Nat) (rs : List Range) : State := ((rs.flatMap (lsErrs s p)).eraseDups).foldl (lsFind p) s

/-- The words a write of `n` bytes at `a` writes only in part. -/
def edgeWords (a n : Nat) : List Range :=
  (if a % 8 = 0 then [] else [⟨a / 8 * 8, 8⟩]) ++ (if (a + n) % 8 = 0 then [] else [⟨(a + n) / 8 * 8, 8⟩])

/-- The units a write of `n` bytes at `a` writes whole. -/
def wholeUnits (a n : Nat) : List Nat :=
  let first := cdiv a 64
  (List.range ((a + n) / 64 - first)).map (· + first)

/-- Ranges of a local store have been written: while a partition is armed, they are kept for the next hash point (R299, R300). -/
def markDirty (s : State) (p : Nat) (rs : List Range) : State :=
  if s.twin.armed.isSome then modCroft s p fun x => { x with dirty := rs ++ x.dirty } else s

/-- Write bytes; a unit written whole loses its poison bit (R52), and a word written has new check bits. -/
def lsWrite (s : State) (p a : Nat) (bs : List Byte) : State :=
  let s := { s with
    ls := tsetList zero8 s.ls (lsKey p a) bs
    lsPoison := (wholeUnits a bs.length).foldl (fun t u => tset zeroB t (unitKey p u) false) s.lsPoison
    lsTaint := (wholeUnits a bs.length).foldl (fun t u => tset zeroN t (unitKey p u) 0) s.lsTaint
    lsErr := s.lsErr.filter fun e => ¬ (8 * e.1 < lsKey p a + bs.length ∧ lsKey p a < 8 * e.1 + 8) }
  if bs.isEmpty then s else markDirty s p [⟨a, bs.length⟩]

/-- Write bytes that may end within a word: a word written in part is read first (R52). -/
def lsStore (s : State) (p a : Nat) (bs : List Byte) : State := lsWrite (lsScan s p (edgeWords a bs.length)) p a bs

/-- Write delivered bytes, each with its mark: a unit that receives a poisoned byte becomes poisoned (R52, R366). -/
def lsDeliver (s : State) (p a : Nat) (bs : List (Byte × Bool)) : State :=
  let s := lsStore s p a (bs.map (·.1))
  ((List.range bs.length).filter fun i => ((bs.getD i (0, false)).2)).foldl (fun s i => lsPoisonUnit s p ((a + i) / 64)) s

/-! ### Ranges -/

def Range.overlaps (a b : Range) : Bool := decide (0 < a.len ∧ 0 < b.len ∧ a.lo < b.lo + b.len ∧ b.lo < a.lo + a.len)

/-- Whether a range ends within the local store (R49, cause 0x02). -/
def Range.inStore (r : Range) : Bool := decide (r.len = 0 ∨ r.lo + r.len ≤ Config.lsBytes)

/-- A range clipped at the end of the local store (R51). -/
def Range.clip (r : Range) : Range := ⟨r.lo, min r.len (Config.lsBytes - r.lo)⟩

def unitRange (u : BitVec 16) (len : Nat) : Range := ⟨64 * u.toNat, len⟩

/-! ### The request of a context and its gather windows (R325) -/

/-- The partition that holds a croft, 0 where none does. -/
def partAt (s : State) (p : Nat) : Nat := (partOf s p).getD 0

/-- The request that runs in a context's execution slot. -/
def reqOf (s : State) (c : CtxId) : Option Req := (s.slot (partAt s c.p) c.e).req

/-- A range as the instruction uses it: relocated from window 0 in execution slot 1; none where R325 stops the context. -/
def relocate (s : State) (c : CtxId) (r : Range) : Option Range :=
  match reqOf s c with
  | none => some r
  | some q =>
    if q.gwen = false ∨ r.len = 0 then some r
    else
      let w0 : Range := ⟨64 * q.gw0, 64 * q.gwlen⟩
      let w1 : Range := ⟨64 * q.gw1, 64 * q.gwlen⟩
      if r.overlaps w1 then none
      else if r.overlaps w0 then
        if w0.lo ≤ r.lo ∧ r.lo + r.len ≤ w0.lo + w0.len then
          some (if c.e = 1 then ⟨r.lo + w1.lo - w0.lo, r.len⟩ else r)
        else none
      else some r

/-- Where a range that relocates begins. -/
def relocLo (s : State) (c : CtxId) (r : Range) : Nat := ((relocate s c r).getD r).lo

/-! ### Format codes (R26, R47) -/

/-- Bits of an element; 0 for a reserved code. -/
def fmtWidth (f : BitVec 4) : Nat :=
  match f.toNat with
  | 0 => 16
  | 1 => 16
  | 2 => 8
  | 3 => 8
  | 4 => 8
  | 5 => 8
  | 6 => 6
  | 7 => 6
  | 8 => 4
  | 9 => 8
  | 10 => 8
  | 11 => 4
  | 12 => 32
  | 13 => 32
  | _ => 0

def fmtMx (f : BitVec 4) : Bool := decide (4 ≤ f.toNat ∧ f.toNat ≤ 9)
def fmtInt (f : BitVec 4) : Bool := f == 10 || f == 11 || f == 13
def fmtFloat (f : BitVec 4) : Bool := decide (f.toNat ≤ 9) || f == 12

/-- The element format of an MX code. -/
def fmtElem (f : BitVec 4) : MxElem :=
  match f.toNat with
  | 4 => .e4m3
  | 5 => .e5m2
  | 6 => .e3m2
  | 7 => .e2m3
  | 8 => .e2m1
  | _ => .int8

def up64 (n : Nat) : Nat := cdiv n 64 * 64

/-- Bytes of `n` elements packed under R70. -/
def packed (f : BitVec 4) (n : Nat) : Nat := cdiv (n * fmtWidth f) 8

/-- Bytes of a VEC operand of `n` elements (R71). -/
def vecBytes (f : BitVec 4) (n : Nat) : Nat := if fmtMx f then up64 (packed f n) + n / 32 else packed f n

/-- Element `i` of elements of `w` bits packed little-endian from `base` (R70). -/
def rawElem (s : State) (p base w i : Nat) : Nat :=
  bitsOf (leNat (lsRead s p (base + i * w / 8) (cdiv (i * w % 8 + w) 8))) (i * w % 8) w

/-- Element bits of a floating code, with the scale byte of its block for an MX code, as an exact number (R65, R69). -/
def floatVal (f : BitVec 4) (b scale : Nat) : Num :=
  match f.toNat with
  | 0 => fmtBf.dec b
  | 1 => fmt16.dec b
  | 2 => decE4 b
  | 3 => fmtE5.dec b
  | 12 => fmt32.dec b
  | _ => mxVal (fmtElem f) b scale

/-- Whether element bits encode zero, the block scale playing no part (R29). -/
def zeroEnc (f : BitVec 4) (b : Nat) : Bool :=
  if fmtInt f || f == 9 then b == 0 else b == 0 || b == 2 ^ (fmtWidth f - 1)

/-! ### Values of the vector unit (R54, R88) -/

/-- A value of the vector unit. -/
inductive VVal where
  | f (b : BitVec 32)
  | i (v : Int)
deriving DecidableEq, Repr

/-- Element `i` of a VEC operand of `n` elements, converted under R76 (FP32) or to INT32. -/
def vecElem (s : State) (p base : Nat) (f : BitVec 4) (n i : Nat) : VVal :=
  let b := rawElem s p base (fmtWidth f) i
  if fmtInt f then .i (bitsInt (fmtWidth f) b)
  else
    let sc := if fmtMx f then (lsByte s p (base + up64 (packed f n) + i / 32)).toNat else 0
    .f (enc32 (floatVal f b sc))

/-- The FP32 of a value (R76). -/
def VVal.toF : VVal → BitVec 32
  | .f b => b
  | .i v => enc32 (intN v)

/-- The INT32 of a value, and whether a clamp or a NaN was met (R80). -/
def VVal.toI : VVal → Int × Bool
  | .f b => toInt 32 (dec32 b)
  | .i v => clampInt 32 v

/-- A value to the bits of a format that is not MX (R77, R78, R80): the bits, and whether the saturation flag is set. -/
def VVal.enc (v : VVal) (f : BitVec 4) (level1 : Bool) : Nat × Bool :=
  if fmtInt f then
    let r := match v with
      | .f b => toInt (fmtWidth f) (dec32 b)
      | .i x => clampInt (fmtWidth f) x
    (intBits (fmtWidth f) r.1, r.2)
  else
    let x := dec32 v.toF
    match f.toNat with
    | 0 => (fmtBf.enc x, false)
    | 1 => (fmt16.enc x, false)
    | 2 => (encE4 level1 x, false)
    | 3 => (fmtE5.enc x, false)
    | _ => (fmt32.enc x, false)

/-- Elements of `w` bits packed little-endian (R70), as bytes. -/
def packBits (w : Nat) (es : List Nat) : List Byte :=
  leBytes (cdiv (es.length * w) 8) ((es.zipIdx).foldl (fun a e => a + e.1 % 2 ^ w * 2 ^ (w * e.2)) 0)

/-- Pack in runs of 8 elements, each a whole number of bytes. -/
def packRuns (w : Nat) : Nat → List Nat → List Byte
  | 0, _ => []
  | n + 1, es => if es.isEmpty then [] else packBits w (es.take 8) ++ packRuns w n (es.drop 8)

/-- The blocks of 32 of a list. -/
def blocks32 {α : Type} : Nat → List α → List (List α)
  | 0, _ => []
  | n + 1, l => if l.isEmpty then [] else l.take 32 :: blocks32 n (l.drop 32)

/-- A result vector in its destination format (R71, R77 to R80): the pieces it writes, as offset and bytes, and whether the
saturation flag is set. Bytes between packed MX elements and their scales are not written. -/
def encVector (vs : List VVal) (f : BitVec 4) (level1 : Bool) : List (Nat × List Byte) × Bool :=
  if fmtMx f then
    let bl := (blocks32 vs.length vs).map fun b => mxBlock (fmtElem f) (b.map fun v => dec32 v.toF)
    ([(0, packRuns (fmtWidth f) vs.length (bl.flatMap (·.2))),
      (up64 (packed f vs.length), bl.map fun b => BitVec.ofNat 8 b.1)], false)
  else
    let r := vs.map fun v => v.enc f level1
    ([(0, packRuns (fmtWidth f) vs.length (r.map (·.1)))], r.any (·.2))

end Sys2Proof.Machine
end

