-- ==== Sys2Proof/Machine/Flags.lean ====
section
/-! DEFINITION. The flag computations of a context: event flags (R264, R265), the sticky saturation flag (R81), and the program
position with its stages (R49, R325, R328). -/

namespace Sys2Proof.Machine

/-- Cause codes of R49 and R325. -/
def causeReserved : Nat := 0x01
def causeRegion : Nat := 0x02
def causeOverlap : Nat := 0x03
def causePairing : Nat := 0x04
def causeDepth : Nat := 0x05
def causeAcc : Nat := 0x06
def causePoison : Nat := 0x07
def causeParity : Nat := 0x08
def causeAbort : Nat := 0x09
def causeBell : Nat := 0x1A
def causeBroken : Nat := 0x1D
def causeWindow : Nat := 0x1E
def causePosition : Nat := 0x1F

/-- The cause listed when a check fails. -/
def failIf (b : Bool) (cause : Nat) : List Nat := if b then [cause] else []

/-- The lowest of the causes that apply (R526). -/
def lowest : List Nat → Option Nat
  | [] => none
  | c :: cs =>
    match lowest cs with
    | none => some c
    | some d => some (min c d)

/-! ### Stopping a context -/

/-- Engine instructions of execution slot `e` leave the croft with what they hold (R63). -/
def Croft.dropEngines (x : Croft) (e : Nat) : Croft :=
  let gone := (x.engines.filter fun g => g.e = e).map (·.id)
  let m := x.mma.any fun r => gone.contains r.id
  { x with
    engines := x.engines.filter fun g => g.e ≠ e
    mma := x.mma.filter fun r => ¬ gone.contains r.id
    pipe := if m then [] else x.pipe
    front := if m then { x.front with refs := 0, chunk := none } else x.front
    back := if m then { x.back with refs := 0, chunk := none } else x.back }

/-- Croft clock cycles in a time, at the clock in force when it ends (log entry 71). -/
def cyclesIn (s : State) (p t : Nat) : Nat := t * (s.croft p).mhz / 1000

/-- HEAT_CYC counts the cycles of a croft's heater duty up to now (R464). -/
def countHeat (s : State) (p : Nat) : State :=
  if (s.croft p).heater then
    modCroft (bump s (ctrCroft p 11) (cyclesIn s p (s.now - (s.croft p).heatAt))) p fun x => { x with heatAt := s.now }
  else s

/-- Heater duty of a croft starts or stops (R453). -/
def setHeater (s : State) (p : Nat) (on : Bool) : State :=
  if (s.croft p).heater = on then s else modCroft (countHeat s p) p fun x => { x with heater := on, heatAt := s.now }

/-- The hold of a context's instruction ends: LS_INTERLOCK counts its cycles where R51 held it (R64). -/
def endHold (s : State) (c : CtxId) : State :=
  if (s.ctx c).held.isSome && (s.ctx c).locked then bump s (ctrCroft c.p 5) (cyclesIn s c.p (s.now - (s.ctx c).since)) else s

/-- The slice whose controller a GLEAN waits for (R139). -/
def gleanSlice (s : State) (p : Nat) (i : Instr) : Nat :=
  let q := fun f : GleanF => tableSlice s ((dataOf s (partAt s p) f.shard.toNat).getD 0)
  match i with
  | .gleanSum _ f => q f
  | .gleanMean _ f => q f
  | .gleanGather _ f => q f
  | _ => 0

/-- Index of a regulator among the counters of a partition (R222) and the fields of R213. -/
def regIndex : Regulator → Nat
  | .sqc => 0
  | .d2d => 1
  | .cxl => 2
  | .gact => 3

/-- The wait of an engine instruction ends: for tokens (R222), for a round buffer, in cycles of the 2.4 GHz mesh (R62, R118), or for a
command slot (R154). -/
def endStall (s : State) (p : Nat) (g : Engine) : State :=
  match g.stall, g.gate, g.kind with
  | some t, some r, _ => bump s (ctrPart (partAt s p) (regIndex r)) (s.now - t)
  | some t, none, .sieve => bump s (ctrSieve (villageOf p) 5) (24 * (s.now - t) / 10)
  | some t, none, .glean => bump s (ctrSlice (gleanSlice s p g.instr) 9) (cyclesIn s p (s.now - t))
  | _, _, _ => s

/-- The waits of a context's engine instructions end with it. -/
def endStalls (s : State) (c : CtxId) : State := ((s.croft c.p).engines.filter fun g => g.e == c.e.val).foldl (fun s g => endStall s c.p g) s

/-- A context whose index and slot are given. -/
def mkCtx (p e : Nat) : CtxId := ⟨Fin.ofNat 512 p, Fin.ofNat 2 e⟩

/-- The contexts of a request: partition croft `i` runs logical croft `i` (R163). -/
def slotCtxs (s : State) (k e : Nat) : List CtxId :=
  match (s.slot k e).req with
  | none => []
  | some q => (List.range q.n).filterMap fun i => (computeOf s k i).map fun p => mkCtx p e

/-- Whether every context of a slot's request has reached GEND with its contributions acknowledged. -/
def gathered (s : State) (k e : Nat) : Bool :=
  (slotCtxs s k e).all fun c => let x := s.ctx c; ((x.run == .running && x.wait == .gend) || x.ended) && x.unacked == 0

/-- When the last context of a slot's request reached GEND. -/
def gendSince (s : State) (k e : Nat) (q : Req) : Nat := ((slotCtxs s k e).map fun c => (s.ctx c).since).foldl max q.at0

/-- The wait of a request at GEND ends: PT_GEND_WAIT counts it (R353). -/
def countGend (s : State) (k e : Nat) : State :=
  match (s.slot k e).req with
  | none => s
  | some q => if q.stage = .gather ∧ gathered s k e = true then bump s (ctrPart k 9) (s.now - gendSince s k e q) else s

/-- A context that waits at GEND stops, and its request waits there no more. -/
def leaveGend (s : State) (c : CtxId) : State :=
  if (s.ctx c).run = .running ∧ (s.ctx c).wait = .gend then countGend s (partAt s c.p) c.e else s

/-- The context stops with a cause at an instruction index (R49); causes stop only the context that raised them (R325). A context
in its croft stages that has not retired END gives up the accumulators its croft holds (R63). -/
def stopCtx (s : State) (c : CtxId) (cause : Nat) (idx : BitVec 32) : State :=
  let own := (s.ctx c).inCroft && !(s.ctx c).ended
  let s := endStalls (endHold (leaveGend s c) c) c
  let s := modCroft s c.p fun x =>
    let x := x.dropEngines c.e
    if own then { x with hold := none, acc := [], accBad := [] } else x
  let s := modCtx s c fun x => { x with run := .stopped, cause := cause, causeAt := idx, wait := .none, held := none }
  if cause = 0x19 ∨ cause = causeBroken then bump s (ctrSquare 12) 1 else s

/-- Status CROFT_FAULT with its DETAIL (R321). -/
def faultDetail (cause lc : Nat) (idx : BitVec 32) : BitVec 64 := BitVec.ofNat 64 (cause + lc % 512 * 2 ^ 8 + idx.toNat * 2 ^ 32)

/-- A request's end is decided: the first outcome stays. -/
def failReq (s : State) (k e : Nat) (status : Nat) (detail : BitVec 64) : State :=
  modSlot s k e fun x => { x with req := x.req.map fun q => if q.fail.isSome then q else { q with fail := some (status, detail) } }

/-- Whether a barrier or a collective of a slot is open: a croft has arrived. -/
def waitsOpen (s : State) (k e : Nat) : Bool :=
  (s.slot k e).coll.isSome || (s.slot k e).bars.any fun b => !b.2.arrived.isEmpty

/-- A croft of the open barriers and collective of a slot has stopped: every other croft of them, arrived or not, stops with 0x1D, and
they are broken up (R282). Every logical croft of a RUN belongs to them (R270, R274). -/
def breakWaits (s : State) (k e : Nat) : State :=
  if waitsOpen s k e then
    let cs := (slotCtxs s k e).filter fun c => (s.ctx c).run == .running
    let s := cs.foldl (fun s c => stopCtx s c causeBroken (BitVec.ofNat 32 (s.ctx c).pos)) s
    modSlot s k e fun x => { x with bars := [], coll := none }
  else s

/-- A croft stops at its present instruction and raises the cause to its reeve, which fails the request (R49). The barriers and
the collective of its slot are broken with it (R282). -/
def failAt (s : State) (c : CtxId) (cause : Nat) (idx : BitVec 32) : State :=
  let k := partAt s c.p
  let lc := (s.ctx c).lc
  let s := stopCtx s c cause idx
  let s := failReq s k c.e 0x0008 (faultDetail cause lc idx)
  breakWaits s k c.e

/-- The instruction index a context stands at. -/
def posOf (s : State) (c : CtxId) : BitVec 32 := BitVec.ofNat 32 (s.ctx c).pos

/-! ### The program position -/

/-- An instruction retires: the count of R299 rises. -/
def retire1 (s : State) (c : CtxId) : State := modCtx s c fun x => { x with retired := x.retired + 1 }

/-- The position moves to `tgt`: outside the stream the croft stops with 0x1F
(R49), and at GEND a context in its gather stage waits (R328). A target below 0 has no index in 32 bits that R49 gives: it is a
free value (log entry 6). -/
def moveTo (s : State) (c : CtxId) (tgt : Int) : State :=
  let x := s.ctx c
  if tgt < 0 then failAt (drew s) c causePosition (freeVal 32 s)
  else if (x.count : Int) ≤ tgt then failAt (setCtx s c { x with pos := tgt.toNat }) c causePosition (BitVec.ofNat 32 tgt.toNat)
  else
    let x := { x with pos := tgt.toNat }
    setCtx s c (if x.inCroft = false ∧ x.gend ≤ x.pos then { x with wait := .gend, since := s.now } else x)

/-- The position moves to the next instruction, in a context that still runs. -/
def moveOn (s : State) (c : CtxId) : State :=
  if (s.ctx c).run = .running then moveTo s c ((s.ctx c).pos + 1) else s

/-! ### Event flags -/

/-- Whether an FWAIT's condition holds (R264). -/
def flagsMet (flags mask : BitVec 64) (any : Bool) : Bool := if any then flags &&& mask != 0 else flags &&& mask == mask

/-- A waiting FWAIT whose condition holds ends: WCLR clears the flags of MASK, and the position moves on. -/
def wakeFlags (s : State) (c : CtxId) : State :=
  let x := s.ctx c
  match x.wait with
  | .flags mask any wclr =>
    if x.run = .running ∧ flagsMet x.flags mask any then
      moveOn (retire1 (setCtx s c { x with wait := .none, flags := if wclr then x.flags &&& ~~~ mask else x.flags }) c) c
    else s
  | _ => s

/-- An engine sets a flag of the context that issued it (R264). -/
def raiseFlag (s : State) (c : CtxId) (f : BitVec 6) : State :=
  wakeFlags (modCtx s c fun x => { x with flags := x.flags ||| BitVec.twoPow 64 f.toNat }) c

/-! ### The saturation flag -/

/-- Set the sticky saturation flag of a context when `b` (R81). -/
def satIf (s : State) (c : CtxId) (b : Bool) : State := if b then modCtx s c fun x => { x with sat := true } else s

end Sys2Proof.Machine
end

