-- ==== Sys2Proof/Machine/Issue.lean ====
section
/-! DEFINITION. Issuing a croft instruction (R49, R51, R203, R263, R325, R526): the checks, the ranges it claims, the wait under
the interlock, and the engine that runs it. -/

namespace Sys2Proof.Machine

/-- What an instruction claims before it issues. -/
structure Plan where
  /-- Causes of the checks that fail (R49). -/
  causes  : List Nat
  /-- Whether the gather stage may use it (R325). -/
  gather  : Bool
  reads   : List Range := []
  writes  : List Range := []
  /-- SPACE, remote range and whether it is written (R203). -/
  remote  : Option (Nat × Range × Bool) := none
  engine  : Option EngineKind := none
  flag    : Option (BitVec 6) := none
  /-- Writes outside the local store (R263). -/
  outside : Bool := false
  /-- RING, SSIG, BAR, COLL (R263). -/
  releasing : Bool := false
  /-- Waits until every earlier engine instruction of its context has retired (R299). -/
  drain : Bool := false
  base    : Nat := 0
deriving Repr

/-- FLAG and FLAGEN of an engine instruction. -/
def flagOf (f : BitVec 6) (en : Bool) : Option (BitVec 6) := if en then some f else none

/-- Whether a context can issue an instruction now: it runs, waits for nothing, and holds no other instruction. -/
def canIssue (s : State) (c : CtxId) : Bool :=
  (s.ctx c).run == .running && (s.ctx c).wait == .none && (s.ctx c).held == none

/-- The causes of the stage and the windows (R325). -/
def windowCauses (s : State) (c : CtxId) (pl : Plan) : List Nat :=
  failIf (!(s.ctx c).inCroft && !pl.gather) causeWindow ++
    failIf ((pl.reads ++ pl.writes).any fun r => (relocate s c r).isNone) causeWindow

/-- Whether a claim meets what a running instruction holds (R51, R203). -/
def Engine.blocks (g : Engine) (reads writes : List Range) (remote : Option (Nat × Range × Bool)) : Bool :=
  writes.any (fun w => (g.reads ++ g.writes).any w.overlaps) || reads.any (fun r => g.writes.any r.overlaps) ||
  match remote, g.remote with
  | some (sp, r, w), some (sp', r', w') => sp == sp' && (w || w') && r.overlaps r'
  | _, _ => false

/-- Whether R51 holds an instruction: by the interlock, or by the limit of 16. -/
def interlocked (s : State) (c : CtxId) (pl : Plan) (reads writes : List Range) : Bool :=
  let x := s.croft c.p
  pl.engine.isSome && (decide (16 ≤ x.engines.length) || x.engines.any fun g => g.blocks reads writes pl.remote)

/-- Whether an instruction must wait before it issues: under R51, or under R263. -/
def mustWait (s : State) (c : CtxId) (pl : Plan) (reads writes : List Range) : Bool :=
  let x := s.croft c.p
  interlocked s c pl reads writes ||
  (pl.drain && x.engines.any fun g => g.e == c.e.val) ||
  (pl.releasing && ((x.engines.any fun g => g.e == c.e.val && g.outside) || decide (0 < (s.ctx c).unacked)))

/-- The context holds an instruction under R51 or R263; `locked` says that R51 holds it, whose wait LS_INTERLOCK counts (R64). -/
def holdInstr (s : State) (c : CtxId) (i : Instr) (locked : Bool) : State :=
  modCtx s c fun x => { x with held := some i, locked := locked, since := s.now }

/-- Enter an engine instruction with its ranges; its number is `nextId` of the croft. -/
def addEngine (s : State) (c : CtxId) (i : Instr) (pl : Plan) (reads writes : List Range) (k : EngineKind) : State :=
  modCroft s c.p fun x => { x with
    engines := x.engines ++ [⟨x.nextId, c.e.val, (s.ctx c).pos, k, i, reads, writes, pl.remote, pl.flag, pl.outside, false, pl.base, none, none, (s.ctx c).seq, none, s.now, []⟩]
    nextId := x.nextId + 1 }

/-- An engine instruction enters its engine; another uses none. -/
def enter (s : State) (c : CtxId) (i : Instr) (pl : Plan) (reads writes : List Range) : State :=
  match pl.engine with
  | some k => addEngine s c i pl reads writes k
  | none => s

/-- Relocated ranges. -/
def relocated (s : State) (c : CtxId) (rs : List Range) : List Range := rs.map fun r => (relocate s c r).getD r

/-- Issue an instruction in a context that can: stop on the lowest cause, wait under the interlock, or enter its engine and take
effect. `effect` is given the number of the engine instruction. The position moves on where the effect leaves the context
running; `move` says whether it does. -/
def issue (s : State) (c : CtxId) (i : Instr) (pl : Plan) (effect : Nat → State → State) (move : Bool) : State :=
  if canIssue s c = false then s
  else
    match lowest (pl.causes ++ windowCauses s c pl) with
    | some cause => failAt s c cause (posOf s c)
    | none =>
      let rs := relocated s c pl.reads
      let ws := relocated s c pl.writes
      if mustWait s c pl rs ws then holdInstr s c i (interlocked s c pl rs ws)
      else
        let id := (s.croft c.p).nextId
        let s := effect id (enter s c i pl rs ws)
        if move then moveOn (if pl.engine.isSome then s else retire1 s c) c else s

/-- Change one engine instruction of a croft. -/
def modEngine (s : State) (p id : Nat) (f : Engine → Engine) : State :=
  modCroft s p fun x => { x with engines := mapIf (fun g => g.id == id) f x.engines }

/-- The engine instruction of a number. -/
def engineOf (s : State) (p id : Nat) : Option Engine := (s.croft p).engines.find? fun g => g.id == id

/-- Instruction index of an engine instruction, or of the context's position where it is none. -/
def engIdx (s : State) (c : CtxId) (id : Nat) : BitVec 32 :=
  match engineOf s c.p id with
  | some g => BitVec.ofNat 32 g.idx
  | none => posOf s c

/-- The engine instruction's work is complete: it may retire (R44). -/
def engineReady (s : State) (p id : Nat) : State := modEngine s p id fun g => { g with ready := true }

/-- A request consumes poisoned units: where the poison came from the pages of its session, its slot is to be lost (R183). -/
def noteLoss (s : State) (c : CtxId) (rs : List Range) : State :=
  match (reqOf s c).bind (·.sess) with
  | none => s
  | some (i, _) =>
    if s.lsTaint.any fun e => e.2 == i + 1 && rs.any fun r => decide (0 < r.len ∧
        unitKey c.p (r.lo / 64) ≤ e.1 ∧ e.1 ≤ unitKey c.p ((r.lo + r.len - 1) / 64)) then
      modSlot s (partAt s c.p) c.e fun y => { y with req := y.req.map fun q => if q.fail.isSome then q else { q with lose := true } }
    else s

/-- The croft stops on poisoned units that it reads (R49, R52). -/
def failPoison (s : State) (c : CtxId) (rs : List Range) (idx : BitVec 32) : State := failAt (noteLoss s c rs) c causePoison idx

/-- An instruction reads its operands: a single error of a word is corrected and a double error poisons its unit, and reading a
poisoned unit stops the croft with 0x07 while the instruction runs (R49, R52). -/
def orPoison (s : State) (c : CtxId) (reads : List Range) (f : State → State) : State :=
  let s := lsScan s c.p reads
  if reads.any (poisonedIn s c.p) then failPoison s c reads (posOf s c) else f s

/-- The contract level of a croft's partition: whether it is level 1 (R346). -/
def level1At (s : State) (p : Nat) : Bool := pentLevel (s.pent (partAt s p))

end Sys2Proof.Machine
end

