-- ==== Sys2Proof/Machine/Hash.lean ====
section
/-! DEFINITION. The state hash of lock-step (R299, R300), the messages of the twin link (R301), and the comparison at a hash
point. -/

namespace Sys2Proof.Machine

/-- Whether a croft belongs to the armed partition. -/
def armedAt (s : State) (p : Nat) : Bool := s.twin.armed.isSome && s.twin.armed == partOf s p

/-- Put a number into a rising list without repeats. -/
def insertNat (x : Nat) : List Nat → List Nat
  | [] => [x]
  | y :: ys => if x < y then x :: y :: ys else if x = y then y :: ys else y :: insertNat x ys

/-- The units a range touches. -/
def unitsOf (r : Range) : List Nat :=
  if r.len = 0 then [] else (List.range ((r.lo + r.len - 1) / 64 + 1 - r.lo / 64)).map (· + r.lo / 64)

/-- Units written since the previous hash point, rising. -/
def dirtyUnits (x : Croft) : List Nat := (x.dirty.flatMap unitsOf).foldl (fun l u => insertNat u l) []

/-- The three kinds of terms (R299). -/
def flagsTerm (x : Ctx) : BitVec 64 := crc64 (le 8 x.flags.toNat)

def unitTerm (s : State) (p u : Nat) : BitVec 64 :=
  crc64 (le 4 u ++ lsRead s p (64 * u) 64 ++ le 1 (lsPoisoned s p u).toNat)

def remoteTerm (count space addr : Nat) (sent : List Byte) : BitVec 64 :=
  crc64 (le 8 count ++ le 1 space ++ le 8 addr ++ le 4 sent.length ++ sent)

/-- H of a context (R299). -/
def ctxHash (s : State) (c : CtxId) : BitVec 64 :=
  flagsTerm (s.ctx c) + ((dirtyUnits (s.croft c.p)).map (unitTerm s c.p)).foldl (· + ·) 0 +
    ((s.croft c.p).remote.map (·.2.2)).foldl (· + ·) 0

/-! ### Messages -/

/-- The bytes of a message (R301): type, zero, payload length in 8 B units and pairing number; the payload; the CRC-32C of both, and 4 B of
zeros (log entry 14). -/
def twinMsg (kind k : Nat) (ws : List (BitVec 64)) : List Byte :=
  let body := le 1 kind ++ le 1 0 ++ le 2 ws.length ++ le 4 k ++ ws.flatMap fun w => le 8 w.toNat
  body ++ le 4 (crc32c body).toNat ++ le 4 0

/-- Send a message to the twin; the last 32 are kept for resending (R301). -/
def sendTwin (s : State) (kind : Nat) (k : Nat) (ws : List (BitVec 64)) : State :=
  let m := twinMsg kind k ws
  emit { s with twin := { s.twin with buffer := (s.twin.buffer ++ [m]).drop (s.twin.buffer.length + 1 - 32) } } (.twin m)

/-- Hash-point identifiers: a barrier's channel and instance, and END (R301). -/
def barPoint (ch inst : Nat) : BitVec 32 := BitVec.ofNat 32 (ch + 4 * inst)
def endPoint : BitVec 32 := 0xFFFFFFFF

/-- The hashes kept of a point. -/
def hashesOf (l : List (Nat × BitVec 32 × List (BitVec 64))) (k : Nat) (point : BitVec 32) : Option (List (BitVec 64)) :=
  (l.find? fun h => h.1 == k && h.2.1 == point).map (·.2.2)

/-- The lowest logical croft whose hashes differ. -/
def lowestDiff (a b : List (BitVec 64)) : Nat :=
  ((List.range (max a.length b.length)).find? fun i => a[i]? != b[i]?).getD 0

/-- Whether both units' hashes of a point are in and equal. -/
def agreed (s : State) (k : Nat) (point : BitVec 32) : Bool :=
  match hashesOf s.twin.hashes k point, hashesOf s.twin.theirs k point with
  | some a, some b => a == b
  | _, _ => false

/-- The highest index a PROBE can name. -/
def lastIndex : Nat := 2 ^ 52 - 1

/-- The 16 B of a PROBE: logical croft in bits 15:0, kind in 23:16, and the first and last index asked for, 52 bits each. The spec gives no
layout (log entry 14). -/
def probeWords (lc kind lo hi : Nat) : List (BitVec 64) :=
  let p := lc % 2 ^ 16 + kind % 2 ^ 8 * 2 ^ 16 + lo % 2 ^ 52 * 2 ^ 24 + hi % 2 ^ 52 * 2 ^ 76
  [BitVec.ofNat 64 p, BitVec.ofNat 64 (p / 2 ^ 64)]

/-- Ask for the term hashes of the croft under search: flags, units, remote writes in turn (R302). -/
def askTerms (s : State) (q : Probing) : State :=
  sendTwin { s with twin := { s.twin with probing := some q, waiting := some (q.k, s.now) } } 6 q.k (probeWords q.lc q.kind q.lo lastIndex)

/-- The hold of a pair's crofts at a hash point ends, by release or otherwise: TW_HASH_NS adds its time (R307). -/
def endHashHold (s : State) (k : Nat) : State :=
  match s.twin.heldAt with
  | some (j, t) => if j = k then bump { s with twin := { s.twin with heldAt := none } } (ctrSquare 14) (s.now - t) else s
  | none => s

/-- Compare a hash point for which both sets are in: equal hashes clear the records of R300; a difference holds the partition and
begins the search of R302. -/
def compareAt (s : State) (part e k : Nat) (point : BitVec 32) : State :=
  match hashesOf s.twin.hashes k point, hashesOf s.twin.theirs k point with
  | some a, some b =>
    if s.twin.probing.isSome then s
    else
    let s := bump s (ctrSquare 13) 1
    if a = b then
      let s := endHashHold { s with twin := { s.twin with waiting := none } } k
      (slotCtxs s part e).foldl (fun s c => modCroft s c.p fun x => { x with dirty := [], remote := [] }) s
    else askTerms { s with twin := { s.twin with blocked := true } } ⟨k, point, e, lowestDiff a b, 0, 0⟩
  | _, _ => s

/-- Every croft of a slot's request stands at a hash point: form its hashes, send them and compare (R299, R301). -/
def formHash (s : State) (part e : Nat) (point : BitVec 32) : State :=
  match (s.slot part e).req with
  | none => s
  | some q =>
    let hs := (slotCtxs s part e).map (ctxHash s)
    let s := (slotCtxs s part e).foldl (fun s c => bump s (ctrCroft c.p 10) (dirtyUnits (s.croft c.p)).length) s
    let s := { s with twin := { s.twin with hashes := s.twin.hashes ++ [(q.pairK, point, hs)], waiting := some (q.pairK, s.now), heldAt := some (q.pairK, s.now) } }
    compareAt (sendTwin s 3 q.pairK (BitVec.zeroExtend 64 point :: hs)) part e q.pairK point

/-- A list without the first set of a point. -/
def dropSet (k : Nat) (point : BitVec 32) :
    List (Nat × BitVec 32 × List (BitVec 64)) → List (Nat × BitVec 32 × List (BitVec 64))
  | [] => []
  | h :: hs => if h.1 = k ∧ h.2.1 = point then hs else h :: dropSet k point hs

/-- The hashes of a point are done with; a set that the twin has sent for the same point of its next image stays. -/
def dropHash (s : State) (k : Nat) (point : BitVec 32) : State :=
  { s with twin := { s.twin with
      hashes := dropSet k point s.twin.hashes
      theirs := dropSet k point s.twin.theirs } }

/-- Whether every context of a slot's request has retired END (R328). -/
def allEnded (s : State) (part e : Nat) : Bool := (slotCtxs s part e).all fun c => (s.ctx c).ended

end Sys2Proof.Machine
end

