-- ==== Sys2Proof/Machine/Regulate.lean ====
section
/-! DEFINITION. Partition regulators (R213, R214) and the throttle that lowers GACT_RATE (R444). A bucket is held as what has been
taken from it and not accrued again, so a full bucket is 0. -/

namespace Sys2Proof.Machine

/-- θ of the portion of partition `k` in village `v` (R444). -/
def thetaOf (s : State) (k v : Nat) : Nat := tget zeroN s.therm.theta (4 * k + v)

/-- The effective GACT_RATE of partition `k` in a slice's village (R444). -/
def gactRate (s : State) (k p : Nat) : Nat :=
  max 1 (pentRate (s.part k).rates 3 * (64 - thetaOf s k (villageOf p)) / 64)

/-- Working groups of a direction of a port: 0 to the square, 1 from it (R249, R351). -/
def workingGroups (x : Port) (dir : Nat) : Nat := ((List.range 16).filter fun g => !(x.group dir g).retired).length

/-- Groups of a direction of a port that carry traffic: a group that retrains carries none (R251). -/
def carryingGroups (x : Port) (dir : Nat) : Nat :=
  ((List.range 16).filter fun g => !(x.group dir g).retired && !(x.group dir g).train).length

/-- Bytes per nanosecond of the four ports in a direction: 256 B for each group that carries traffic (R249, R251, R252). -/
def portBytes (s : State) (dir : Nat) : Nat :=
  256 * ((List.range 4).map fun v => if (s.port v).lost then 0 else carryingGroups (s.port v) dir).foldl (· + ·) 0

/-- The regulator of a bucket: 0 SQC; 1 D2D to the square, 3 from it; 2 CXL to the host, 4 from it; 8 + p GACT of slice p. -/
def regOf (key : Nat) : Regulator :=
  if key = 0 then .sqc else if key = 1 ∨ key = 3 then .d2d else if key = 2 ∨ key = 4 then .cxl else .gact

/-- Tokens that accrue each nanosecond, in 1/1,024 B, or in 1/6,144 of an activation for a slice's GACT bucket: 8.2 TB/s of square
cache, the ports' capacity in each direction (R213, R252), the link's payload in each direction scaled by width and rate (R466), and
four activations per 6 ns in each of four sub-channels (R241). -/
def regRate (s : State) (k key : Nat) : Nat :=
  match regOf key with
  | .sqc => 8200 * pentRate (s.part k).rates 0
  | .d2d => portBytes s (if key = 1 then 0 else 1) * pentRate (s.part k).rates 1
  | .cxl => 115 * s.link.width * s.link.rate * pentRate (s.part k).rates 2 / 1024
  | .gact => 16 * gactRate s k (key - 8)

/-- BURST of a bucket, in microseconds. -/
def regBurst (s : State) (k key : Nat) : Nat := pentBurst (s.part k).rates (regIndex (regOf key))

/-- Depth of a bucket: its rate for BURST microseconds. -/
def regDepth (s : State) (k key : Nat) : Nat := regRate s k key * regBurst s k key * 1000

/-- Accrue the tokens of a partition's buckets up to now. -/
def accrue (s : State) (k : Nat) : State :=
  let dt := s.now - (s.part k).tokenAt
  modPart s k fun x => { x with
    tokens := x.tokens.foldl (fun t e => tset zeroN t e.1 (e.2 - regRate s k e.1 * dt)) []
    tokenAt := s.now }

/-- The demands of an access: bucket and tokens, in the bucket's unit. -/
abbrev Demand := List (Nat × Nat)

/-- The first bucket that has too few tokens for its demand; a demand larger than the bucket waits for a full one, and what it takes beyond
accrues before the next (log entry 101). -/
def shortOf (s : State) (k : Nat) (ds : Demand) : Option Nat :=
  (ds.find? fun d => decide (regDepth s k d.1 < tget zeroN (s.part k).tokens d.1 + min d.2 (regDepth s k d.1))).map (·.1)

/-- Take the tokens of an access. -/
def takeTokens (s : State) (k : Nat) (ds : Demand) : State :=
  ds.foldl (fun s d => modPart s k fun x => { x with
    tokens := tset zeroN x.tokens d.1 (tget zeroN x.tokens d.1 + d.2) }) s

/-- A transfer that the square itself begins enters its resources, or waits for their tokens; `at0` says since when it has waited, and
PT_D2D_WAIT counts the wait (R214, R222). -/
def enterRegs (s : State) (k : Nat) (ds : Demand) (at0 : Option Nat) : Option State :=
  let s := accrue s k
  if (shortOf s k ds).isSome then none
  else
    let s := match at0 with
      | some t => bump s (ctrPart k 1) (s.now - t)
      | none => s
    some (takeTokens s k ds)

end Sys2Proof.Machine
end

