-- ==== Sys2Proof/Machine/Session.lean ====
section
/-! DEFINITION. The session store (R155 to R185): geometry, placement of pages, allocation, zero fills, commits, rollbacks and
loss. -/

namespace Sys2Proof.Machine

/-! ### Geometry (R156, R157) -/

def sessLayers (x : Sess) : Nat := x.laym1.toNat + 1
def sessHeads (x : Sess) : Nat := x.headm1.toNat + 1
def sessDh (x : Sess) : Nat := if x.dh128 then 128 else 64
/-- Bytes of an element. -/
def sessW (x : Sess) : Nat := if x.kvfmt = 2 then 2 else 1
def sessCapb (x : Sess) : Nat := x.capbm1.toNat + 1
/-- Bb. -/
def sessBb (x : Sess) : Nat := 128 * sessDh x * sessW x
def sessOpen (x : Sess) : Bool := x.state == 1
def sessLost (x : Sess) : Bool := x.state == 2

/-- Whether a geometry obeys R157. -/
def sessFits (x : Sess) : Bool :=
  x.kvfmt != 3 && decide (sessCapb x ≤ 8192) && decide (sessCapb x * sessLayers x * sessHeads x * sessBb x ≤ 67108864)

/-! ### Placement (R162, R163) -/

/-- Indices of a partition whose home village is `v`, rising. -/
def villageCrofts (s : State) (k v : Nat) : List Nat :=
  (List.range 512).filter fun i => tget zeroN s.floor.home (512 * k + i) == v + 1

/-- The partition's villages, rising. -/
def partVillages (s : State) (k : Nat) : List Nat := (List.range 4).filter fun v => !(villageCrofts s k v).isEmpty

/-- Heads in partition village `j` of `n`. -/
def headsIn (x : Sess) (n j : Nat) : Nat := ((List.range (sessHeads x)).filter fun h => h % n = j).length

/-- Pages of a slot in each partition village: layers × HVk × (CAPB + 1). -/
def pagesIn (x : Sess) (n j : Nat) : Nat := sessLayers x * headsIn x n j * (sessCapb x + 1)

/-- EXT in 4 KiB units (R162). -/
def sessExt (s : State) (k : Nat) (x : Sess) : Nat :=
  let vs := partVillages s k
  ((vs.zipIdx).map fun v => cdiv (pagesIn x vs.length v.2) (villageCrofts s k v.1).length * sessBb x / 4096).foldl max 0

/-- Partition address of unit `u` of the session pool of index `i` (R166, R189). -/
def poolAddr (s : State) (k i u : Nat) : Option Nat :=
  (dataOf s k i).map fun p => i * Config.sliceBytes + (s.slice p).map.poolBase + 4096 * u

/-- Index and page of ring slot `r` of layer `l` and head `h`. -/
def pagePlace (s : State) (k : Nat) (x : Sess) (l h r : Nat) : Nat × Nat :=
  let vs := partVillages s k
  let cs := villageCrofts s k (vs.getD (h % vs.length) 0)
  let e := (l * headsIn x vs.length (h % vs.length) + h / vs.length) * (sessCapb x + 1) + r
  (cs.getD (e % cs.length) 0, e / cs.length)

/-- Partition address of a page; none where its index has no slice. -/
def pageAddr (s : State) (k : Nat) (x : Sess) (l h r : Nat) : Option Nat :=
  let pp := pagePlace s k x l h r
  poolAddr s k pp.1 (x.poff.toNat + pp.2 * (sessBb x / 4096))

/-- Whether a slot has a page in the slice of index `i`. Every page is 16 stripes or more, so it touches every sub-channel (R190). -/
def hasPage (s : State) (k i : Nat) (x : Sess) : Bool :=
  let vs := partVillages s k
  (vs.zipIdx).any fun v => match (villageCrofts s k v.1).idxOf? i with
    | none => false
    | some j => decide (j < pagesIn x vs.length v.2)

/-! ### Zero encodings (R158, R164, R170) -/

/-- Resolver of a partition's addresses. -/
def viaPart (k : Nat) : State → Nat → Except Nat Where := fun s a => partAddr s k a

/-- Zero `n` bytes from partition address `a`. -/
def zeroAt (s : State) (k a n : Nat) : State := fillVia s (viaPart k) a n 0 .reeve .zeros

/-- Zero positions `p0` to `p1 − 1` of one page: their keys, and their element of each value column (R161). -/
def zeroPage (s : State) (k : Nat) (x : Sess) (a p0 p1 : Nat) : State :=
  let dw := sessDh x * sessW x
  if p0 = 0 ∧ p1 = 64 then zeroAt s k a (sessBb x)
  else if p1 ≤ p0 then s
  else
    let s := zeroAt s k (a + p0 * dw) ((p1 - p0) * dw)
    (List.range (sessDh x)).foldl (fun s d => zeroAt s k (a + 64 * dw + d * 64 * sessW x + p0 * sessW x) ((p1 - p0) * sessW x)) s

/-- Zero positions of ring slot `r` in every layer and head. -/
def zeroSlot (s : State) (k : Nat) (x : Sess) (r p0 p1 : Nat) : State :=
  (List.range (sessLayers x)).foldl (fun s l => (List.range (sessHeads x)).foldl (fun s h =>
    match pageAddr s k x l h r with
    | none => s
    | some a => zeroPage s k x a p0 p1) s) s

/-- Zero positions from `from'` to the end of logical block `last`, ring slots counted from FIRST. -/
def zeroSpan (s : State) (k : Nat) (x : Sess) (from' last : Nat) : State :=
  (List.range (last + 1 - from' / 64)).foldl (fun s i =>
    let b := from' / 64 + i
    zeroSlot s k x ((x.first.toNat + b) % (sessCapb x + 1)) (if i = 0 then from' % 64 else 0) 64) s

/-- Zero every page of a slot, ring spares included. -/
def zeroAll (s : State) (k : Nat) (x : Sess) : State :=
  (List.range (sessCapb x + 1)).foldl (fun s r => zeroSlot s k x r 0 64) s

/-- The last logical block of the restore span: that of position L0 + 63, or of L0 + A − 1, of those that the slot's ring holds (R170). -/
def lastBlock (x : Sess) (l0 a : Nat) : Nat := min (sessCapb x) (max ((l0 + 63) / 64) ((l0 + a - 1) / 64))

/-- Restore the span of R170 after a failed outcome: `a` positions were to be appended from L0. -/
def rollback (s : State) (i l0 a : Nat) : State :=
  let x := s.ses i
  if sessOpen x then bump (zeroSpan s x.part.toNat x x.len.toNat (lastBlock x l0 a)) (ctrSquare 3) 1 else s

/-! ### Commits (R168, R169) -/

/-- The outcome of a proposed length. -/
inductive Commit where
  | none | plain | slide | bad
deriving DecidableEq, Repr

/-- What R168 makes of NEWLEN; `most` is 64 for a RUN, and A for a SESSION_APPEND of more (R171). -/
def commitKind (x : Sess) (newlen most : Nat) : Commit :=
  let len := x.len.toNat
  if newlen = len then .none
  else if newlen < len ∨ len + most < newlen then .bad
  else if newlen ≤ 64 * sessCapb x then .plain
  else if x.slide ∧ newlen ≤ len + 64 then .slide
  else .bad

/-- Commit NEWLEN to a slot whose length was L0 at admission; the restore span is zeroed from the new length, or from LEN where nothing is
committed, for what the image wrote of its window (R164, R168). The ring spare of a slide is zeroed before the slot's next admission (R169; `settleCommit`). -/
def commitTo (s : State) (i newlen l0 a : Nat) (c : Commit) : State :=
  let x := s.ses i
  let k := x.part.toNat
  let last := lastBlock x l0 a
  match c with
  | .plain =>
    let y := { x with len := BitVec.ofNat 32 newlen, commits := x.commits + 1 }
    zeroSpan (bump (setSes s i y) (ctrSquare 1) 1) k y newlen last
  | .slide =>
    let y := { x with
      first := BitVec.ofNat 14 ((x.first.toNat + 1) % (sessCapb x + 1))
      len := BitVec.ofNat 32 (newlen - 64)
      commits := x.commits + 1 }
    let s := bump (bump (setSes s i y) (ctrSquare 1) 1) (ctrSquare 2) 1
    zeroSpan s k y (newlen - 64) (last - 1)
  | .none => zeroSpan s k x x.len.toNat last
  | .bad => s

/-! ### Loss (R182, R409) -/

/-- An entry of the lost list; beyond 4,096 a further loss is reported by event only. -/
def addLost (s : State) (kind part tid num : Nat) : State :=
  if 4096 ≤ s.floor.lost.length then { s with floor := { s.floor with lostOver := true, gen := s.floor.gen + 1 } }
  else { s with floor := { s.floor with
    lost := s.floor.lost ++ [BitVec.ofNat 32 (kind + part * 4 + tid * 2 ^ 8 + num * 2 ^ 16)], gen := s.floor.gen + 1 } }

/-- Remove entries of the lost list. -/
def dropLost (s : State) (t : BitVec 32 → Bool) : State :=
  if s.floor.lost.any t then
    { s with floor := { s.floor with lost := s.floor.lost.filter fun w => !t w, gen := s.floor.gen + 1 } }
  else s

/-- The fields of a lost-list entry. -/
def lostKind (w : BitVec 32) : Nat := (w.extractLsb' 0 2).toNat
def lostPart (w : BitVec 32) : Nat := (w.extractLsb' 2 3).toNat
def lostTid (w : BitVec 32) : Nat := (w.extractLsb' 8 8).toNat
def lostNum (w : BitVec 32) : Nat := (w.extractLsb' 16 16).toNat

/-- An OPEN slot becomes LOST. -/
def loseSlot (s : State) (i : Nat) : State :=
  let x := s.ses i
  if sessOpen x then addLost (bump (setSes s i { x with state := 2 }) (ctrSquare 4) 1) 1 x.part.toNat 0 i else s

/-- The slots of a partition that satisfy a test. -/
def slotsOf (s : State) (k : Nat) (t : Sess → Bool) : List Nat :=
  (s.sess.filter fun e => e.2.state ≠ 0 ∧ e.2.part.toNat = k ∧ t e.2).map (·.1)

/-- Every OPEN slot with a page in the slice of an index becomes LOST: how many did. -/
def loseSlotsAt (s : State) (k i : Nat) : Nat × State :=
  let l := slotsOf s k fun x => sessOpen x && hasPage s k i x
  (l.length, l.foldl loseSlot s)

/-! ### Allocation (R158) -/

/-- Whether `ext` units from `o` are free in the pools of a partition. -/
def poolFree (s : State) (k o ext : Nat) : Bool :=
  decide (1 ≤ o ∧ o + ext ≤ pentSpool (s.pent k)) &&
    s.sess.all fun e => e.2.state == 0 || e.2.part.toNat != k ||
      decide (o + ext ≤ e.2.poff.toNat ∨ e.2.poff.toNat + e.2.ext.toNat ≤ o)

/-- The lowest POFF at which `ext` units are free: unit 1, or the end of a slot's range. -/
def poolAlloc (s : State) (k ext : Nat) : Option Nat :=
  (sortBy id (1 :: (slotsOf s k fun _ => true).map fun i => (s.ses i).poff.toNat + (s.ses i).ext.toNat)).find? fun o => poolFree s k o ext

/-- Whether a partition address lies in the pages of a slot. -/
def inPages (s : State) (k i a : Nat) : Bool :=
  let x := s.ses i
  match poolAddr s k (a / Config.sliceBytes) x.poff.toNat with
  | none => false
  | some b => decide (b ≤ a ∧ a < b + 4096 * x.ext.toNat)

end Sys2Proof.Machine
end

