-- ==== Sys2Proof/Machine/Dma.lean ====
section
/-! DEFINITION. The DMA class (R201 to R211, R221): READ, WRITE and the atomics, at the slices, the square cache, the host and
peers. -/

namespace Sys2Proof.Machine

/-! ### The remote address (R188) -/

def spaceOf (a : Word) : Nat := (a.extractLsb' 62 2).toNat
def addrOf (a : Word) : Nat := (a.extractLsb' 0 52).toNat
def addrRsv (a : Word) : Bool := a.extractLsb' 52 10 != 0


/-- Device physical addresses, as a resolver. -/
def viaDev : State → Nat → Except Nat Where := fun s a => devAddr s a

/-- Length of a DMA (R201). -/
def dmaLen (f : DmaF) : Nat := f.lenm1.toNat + 1

/-- Register SR at issue. -/
def srOf (s : State) (c : CtxId) (sr : BitVec 5) : Word := (s.ctx c).reg sr.toNat

/-- Cause 0x14 of a remote address, found before any byte moves (R221). -/
def remoteCauses (s : State) (c : CtxId) (a : Word) (len : Nat) : List Nat :=
  failIf (spaceOf a == 3 || addrRsv a) causeAddr ++
    failIf (spaceOf a == 0 && spanCause s (viaPart (partAt s c.p) s) (addrOf a) len == some causeAddr) causeAddr

/-- What a DMA does. -/
inductive DmaOp where
  | read | write
  | atomic (op : AtomOp)
deriving DecidableEq, Repr

/-- Bytes of a range of a partition's addresses that lie in a village other than `v`. -/
def farBytes (s : State) (k v a n : Nat) : Nat :=
  ((piecesOf Config.sliceBytes a n).map fun x => match partAddr s k x.1 with
    | .ok w => if villageOf w.p = v then 0 else x.2
    | .error _ => 0).foldl (· + ·) 0

/-- Bytes of a range of a partition's addresses that the square cache holds: it serves a read of them (R205). -/
def cachedBytes (s : State) (k a n : Nat) : Nat :=
  if s.sqc.isEmpty then 0
  else ((piecesOf 128 a n).map fun x => match partAddr s k x.1 with
    | .ok w => if s.sqc.any fun l => l.p == w.p && l.line == w.off / 128 then x.2 else 0
    | .error _ => 0).foldl (· + ·) 0

/-- A demand of `n` bytes, where it is any. -/
def demandOf (key n : Nat) : Demand := if n = 0 then [] else [(key, 1024 * n)]

/-- The demands of moving bytes (R214, R259): what the square cache serves or applies takes its tokens; a crossing of a port takes the
tokens of its direction, the host link those of its own. An atomic crosses to the square, and back when it fetches. -/
def dmaDemand (s : State) (c : CtxId) (f : DmaF) (d : DmaOp) (a : Word) : Demand :=
  let n := dmaLen f
  let k := partAt s c.p
  let far := farBytes s k (villageOf c.p) (addrOf a) n
  match d with
  | .atomic _ => demandOf 0 n ++ demandOf 1 n ++ if f.fetch then demandOf 3 n else []
  | .read =>
    if spaceOf a != 0 then demandOf 3 n ++ demandOf 4 n
    else demandOf 0 (cachedBytes s k (addrOf a) n) ++ demandOf 1 far ++ demandOf 3 far
  | .write => if spaceOf a != 0 then demandOf 1 n ++ demandOf 2 n else demandOf 1 far ++ demandOf 3 far

/-! ### Accesses that wait for a bank (R219) -/

/-- Where a read of a partition address must wait. -/
def waitsAt (s : State) (k a : Nat) : Option (Where × Nat × Nat) :=
  match partAddr s k a with
  | .error _ => none
  | .ok w => (readQueue s w.p w.off).map fun x => (w, x.1, x.2)

/-! ### READ and WRITE -/

/-- Bytes of a range before the first sector that its slice refuses under 0x18 (R221). -/
def reachable (s : State) (k a len : Nat) : Nat :=
  match (piecesOf 32 a len).find? fun x => (addrCause s (viaPart k s) x.1).isSome with
  | some x => x.1 - a
  | none => len

/-- Bytes from partition address `a` reach a local store at `lo`. A unit that poison from the pages of the request's session reaches is
noted (R183). -/
def deliverPart (s : State) (c : CtxId) (a lo : Nat) (bs : List (Byte × Bool)) : State :=
  let s := lsDeliver s c.p lo bs
  match (reqOf s c).bind (·.sess) with
  | none => s
  | some (i, _) =>
    if bs.any (·.2) then
      let k := partAt s c.p
      ((List.range bs.length).filter fun j => (bs.getD j (0, false)).2 && inPages s k i (a + j)).foldl (fun s j =>
        { s with lsTaint := tset zeroN s.lsTaint (unitKey c.p ((lo + j) / 64)) (i + 1) }) s
    else s

/-- Bytes for the local store have come from a partition address: the engine keeps them until all of its accesses are done, so that no unit
ever holds a part of them (R63). -/
def keepGot (s : State) (c : CtxId) (id a lo : Nat) (bs : List (Byte × Bool)) : State :=
  modEngine s c.p id fun g => { g with got := g.got ++ [(a, lo, bs)] }

/-- What an engine instruction has got goes to the local store once none of its accesses waits. -/
def flushGot (s : State) (c : CtxId) (id : Nat) : State :=
  match engineOf s c.p id with
  | none => s
  | some g =>
    if g.got.isEmpty || owed s (.engine c id) || (s.link.reqs.any fun r => r.why == .dmaRead c id) then s
    else g.got.foldl (fun s x => deliverPart s c x.1 x.2.1 x.2.2) (modEngine s c.p id fun h => { h with got := [] })

/-- One granule of a READ: it waits for its bank, or its bytes come. -/
def readOne (c : CtxId) (id a lo : Nat) (s : State) (x : Nat × Nat) : State :=
  let k := partAt s c.p
  match waitsAt s k x.1 with
  | some (w, q, u) => enqueue s q u ⟨w.p, w.off, .read x.2 (lo + (x.1 - a)) (.engine c id) [], .croft, s.now, false⟩
  | none =>
    let r := readVia s (viaPart k) x.1 x.2 .croft k
    keepGot r.2 c id x.1 (lo + (x.1 - a)) r.1

/-- The bytes of a READ from a slice move, but for the granules that must wait for their banks (R219). -/
def readPart (s : State) (c : CtxId) (id a n lo : Nat) : State := flushGot ((piecesOf 64 a n).foldl (readOne c id a lo) s) c id

/-- The bytes of a READ move: from the slices, through the host port otherwise. -/
def runRead (s : State) (c : CtxId) (id : Nat) (f : DmaF) (a : Word) : State :=
  let len := dmaLen f
  if spaceOf a = 0 then
    let n := reachable s (partAt s c.p) (addrOf a) len
    let s := readPart s c id (addrOf a) n (relocLo s c (unitRange f.ladr len))
    if n < len then failAt s c causeRetired (engIdx s c id) else engineReady s c.p id
  else
    hostMove s (spaceOf a == 2) (addrOf a) false len [] false (.dmaRead c id)

/-- Consecutive pieces of equal mark joined. -/
def joinRuns : List (Nat × List Byte × Bool) → List (Nat × List Byte × Bool)
  | [] => []
  | (a, b, m) :: r =>
    match joinRuns r with
    | (a', b', m') :: r' => if m = m' then (a, b ++ b', m) :: r' else (a, b, m) :: (a', b', m') :: r'
    | [] => [(a, b, m)]

/-- The command a context's request runs, for the writes its record waits for (R320). -/
def cmdOf (s : State) (c : CtxId) : Nat := ((reqOf s c).map (·.cid)).getD 0

/-- One piece of a WRITE goes to its slice, or waits for its bank (R219). -/
def writePart (c : CtxId) (id : Nat) (s : State) (x : Nat × List Byte × Bool) : State :=
  match partAddr s (partAt s c.p) x.1 with
  | .error _ => s
  | .ok w => sendGran s w.p w.idx w.off x.2.1 x.2.2 .croft (.engine c id)

/-- The bytes of a WRITE move, with the poison marks of the units they come from (R52, R365). -/
def runWrite (s : State) (c : CtxId) (id : Nat) (f : DmaF) (a : Word) : State :=
  let len := dmaLen f
  let lo := relocLo s c (unitRange f.ladr len)
  let s := lsScan s c.p [⟨lo, len⟩]
  let data := lsRead s c.p lo len
  let bad := fun i => lsPoisoned s c.p ((lo + i) / 64)
  let s := modEngine s c.p id fun g => { g with
    sent := some (spaceOf a, if spaceOf a = 0 then addrOf a else 0, data) }
  if spaceOf a = 0 then
    let k := partAt s c.p
    let n := reachable s k (addrOf a) len
    let s := (markedPieces (addrOf a) (data.take n) bad).foldl (writePart c id) s
    if n < len then failAt s c causeRetired (engIdx s c id) else engineReady s c.p id
  else
    let runs := joinRuns ((piecesOf 64 (addrOf a) len).map fun x =>
      (x.1, (data.drop (x.1 - addrOf a)).take x.2, (List.range x.2).any fun i => bad (x.1 - addrOf a + i)))
    let s := runs.foldl (fun s r => hostMove s (spaceOf a == 2) r.1 true r.2.1.length r.2.1 r.2.2 (.dmaWrite (cmdOf s c))) s
    engineReady s c.p id

/-! ### Atomics (R202, R206 to R211) -/

def atomSize : AtomTy → Nat
  | .fp32 => 4
  | .fp16 => 2
  | .bf16 => 2
  | .int32 => 4
  | .int64 => 8

/-- The type of an ATYPE code; none when reserved. -/
def atomTy (b : BitVec 3) : Option AtomTy :=
  match b.toNat with
  | 0 => some .fp32
  | 1 => some .fp16
  | 2 => some .bf16
  | 3 => some .int32
  | 4 => some .int64
  | _ => none

/-- The floating format of a type. -/
def atomFmt : AtomTy → Option Ieee
  | .fp32 => some fmt32
  | .fp16 => some fmt16
  | .bf16 => some fmtBf
  | .int32 => none
  | .int64 => none

/-- The value an atomic writes (R206). -/
def atomResult (op : AtomOp) (ty : AtomTy) (old operand newVal : BitVec 64) : BitVec 64 :=
  let w := 8 * atomSize ty
  let a := old.toNat % 2 ^ w
  let b := operand.toNat % 2 ^ w
  BitVec.ofNat 64 (match op with
    | .cas => if a = b then newVal.toNat % 2 ^ w else a
    | .swap => b
    | .and => a &&& b
    | .or => a ||| b
    | .xor => a ^^^ b
    | .add => match atomFmt ty with
      | some f => f.enc (addN (f.dec a) (f.dec b))
      | none => (a + b) % 2 ^ w
    | .min => match atomFmt ty with
      | some f => f.min a b
      | none => if bitsInt w b < bitsInt w a then b else a
    | .max => match atomFmt ty with
      | some f => f.max a b
      | none => if bitsInt w a < bitsInt w b then b else a)

/-- Apply one element at the square cache, in arrival order per line (R207): the old value, none on poison (R221, R366). -/
def applySq (s : State) (w : Where) (part : Nat) (op : AtomOp) (ty : AtomTy) (operand newVal : BitVec 64) :
    Option (BitVec 64) × State :=
  let s := takeSq s w.p w.idx (w.off / 128) part
  let s := account (scanSq s w.p (w.off / 128) (w.off % 128 / 8) 1)
  match s.sqc.find? fun l => l.p == w.p && l.line == w.off / 128 with
  | none => (none, s)
  | some l =>
    if l.poison.getLsbD (w.off % 128 / 32) then (none, useSq s w.p (w.off / 128) id)
    else
      let old := BitVec.ofNat 64 (leNat (tgetList zero8 l.bytes (w.off % 128) (atomSize ty)))
      let new := atomResult op ty old operand newVal
      (some old, useSq s w.p (w.off / 128) fun y => { y with bytes := tsetList zero8 y.bytes (w.off % 128) (leBytes (atomSize ty) new.toNat) })

/-- Whether a floating ADD of a partition is deferred or, in relaxed mode, ordered by arrival (R208, R210). -/
def isFloatAdd (op : AtomOp) (ty : AtomTy) : Bool := op == .add && (atomFmt ty).isSome

/-- A floating ADD with number `seq` of its croft has been applied in relaxed mode: an order difference where the line's kept key is
greater than its own (R293, R294). -/
def orderArrival (s : State) (c : CtxId) (addr seq : Nat) : State :=
  let k := partAt s c.p
  let lc := (s.ctx c).lc
  let line := addr / 128
  let kept := tget pair0 (s.slot k c.e).seen line
  let later := decide (lc < kept.1 ∨ (lc = kept.1 ∧ seq + 1 < kept.2))
  let s := modSlot s k c.e fun y => { y with
    seen := tset pair0 y.seen line (lc, seq + 1)
    req := if later then y.req.map fun q => { q with orders := q.orders + 1 } else y.req }
  if later then bump s (ctrPart k 8) 1 else s

/-- Whether a request's floating ADDs are applied as they arrive: RELAXED as it stood at its admission (R215, R285, R292). -/
def relaxedAt (s : State) (c : CtxId) : Bool := ((reqOf s c).map (·.relaxed)).getD (s.part (partAt s c.p)).relaxed

/-- A request of a context fails on poison that an atomic of it met at an address (R183, R367). -/
def noteAtomLoss (s : State) (k e addr : Nat) : State :=
  match ((s.slot k e).req).bind (·.sess) with
  | none => s
  | some (i, _) =>
    if inPages s k i addr then
      modSlot s k e fun y => { y with req := y.req.map fun q => if q.fail.isSome then q else { q with lose := true } }
    else s

/-- What stands before an element of an atomic: nothing yet, its wait for a bank done, or its back-invalidation answered. -/
inductive AtomStep where
  | first | bank | answered
deriving DecidableEq, Repr

/-- Where an element of an atomic must wait: behind what waits for its line (R205, R207), and for its bank where the square cache does not hold
the line, and while its table window takes no write (R416). -/
def atomQueue (s : State) (w : Where) (at' : AtomStep) : Option (Nat × Nat) :=
  if at' == .bank then none
  else match readQueue s w.p w.off with
    | some x => some x
    | none => if windowHeld s w.p w.off then (placeOf s w.p w.off).map fun x => (x.1, slotSub x.2.k) else none

/-- One element of an atomic of a context: behind a back-invalidation where one is due (R471), and behind its bank where that must wait
(R219), else at once. The old value is for local-store byte `back` when FETCH asks for it. -/
def atomElement (s : State) (c : CtxId) (id addr : Nat) (op : AtomOp) (ty : AtomTy) (operand newVal : BitVec 64)
    (back : Option Nat) (seq : Nat) (at' : AtomStep) : State :=
  let k := partAt s c.p
  if (s.ctx c).run = .stopped then s
  else match partAddr s k addr with
    | .error cause => failAt s c cause (engIdx s c id)
    | .ok w =>
      match locate s w.p w.idx w.off with
      | .error cause => failAt s c cause (engIdx s c id)
      | .ok _ =>
        if at' != .answered && biTracked s w.p w.off .square then
          biHold s w.p (w.off / 64) (.atom c id addr op ty operand newVal back seq)
        else
          match atomQueue s w at' with
          | some (q, u) => enqueue s q u ⟨w.p, w.off, .atom c id addr op ty operand newVal back seq, .square, s.now, false⟩
          | none =>
            match applySq s w k op ty operand newVal with
            | (none, s) => failAt (noteAtomLoss s k c.e addr) c causePoison (engIdx s c id)
            | (some old, s) =>
              let s := bump s (ctrSquare 8) 1
              let s := if isFloatAdd op ty && relaxedAt s c then orderArrival s c addr seq else s
              match back with
              | some a => keepGot s c id addr a ((leBytes (atomSize ty) old.toNat).map fun b => (b, false))
              | none => s

/-- Entries of the staging area a partition uses (R209). -/
def stagedCount (s : State) (k : Nat) : Nat :=
  (s.part k).s0.staged.length + (s.part k).s0.ended.length + (s.part k).s1.staged.length + (s.part k).s1.ended.length

/-- A valid partition's share of the staging (R209). -/
def stagingShare (s : State) : Nat := 1048576 / max 1 ((List.range 8).filter fun k => pentValid (s.pent k)).length

/-- Stage one contribution under its number in its context's order (R208); a full share stops the croft with 0x17 (R209), and a place
that its slice refuses with the cause of R221. -/
def stageOne (s : State) (c : CtxId) (id addr : Nat) (ty : AtomTy) (v : BitVec 64) (seq : Nat) : State :=
  let k := partAt s c.p
  if (s.ctx c).run = .stopped then s
  else match lowest (failIf (decide (stagingShare s ≤ stagedCount s k)) 0x17 ++ (addrCause s (viaPart k s) addr).toList) with
    | some cause => failAt s c cause (engIdx s c id)
    | none =>
      bump (modSlot s k c.e fun y => { y with staged := y.staged ++ [⟨k, c.e, (s.ctx c).lc, seq, addr, ty, v⟩] }) (ctrSquare 9) 1

/-- An instruction takes the numbers of its `n` contributions, in program order (R208, R293). -/
def takeSeq (s : State) (c : CtxId) (n : Nat) : State := modCtx s c fun x => { x with seq := x.seq + n }

/-- A context has contributions to be staged: until they are acknowledged it waits at a barrier and at GEND (R208). -/
def awaitAcks (s : State) (c : CtxId) (n : Nat) : State :=
  modCtx s c fun x => { x with unacked := x.unacked + if relaxedAt s c then 0 else n }

/-- Elements of an atomic instruction. -/
def atomCount (f : DmaF) (op : AtomOp) (ty : AtomTy) : Nat := dmaLen f / (atomSize ty * (if op = .cas then 2 else 1))

/-- Causes of an atomic, found before any byte moves (R202, R211, R221). -/
def atomCauses (s : State) (c : CtxId) (f : DmaF) (op : AtomOp) (a : Word) : List Nat :=
  failIf (spaceOf a == 3 || addrRsv a) causeAddr ++
  match atomTy f.atype with
  | none => 0x15 :: remoteCauses s c a (dmaLen f)
  | some ty =>
    let es := atomSize ty
    failIf (spaceOf a != 0 || addrOf a % es != 0 || dmaLen f % es != 0 || (op == .cas && dmaLen f % (2 * es) != 0) ||
      ((op == .and || op == .or || op == .xor) && (atomFmt ty).isSome)) 0x15 ++
    failIf (spaceOf a == 0 && !addrRsv a &&
      spanCause s (viaPart (partAt s c.p) s) (addrOf a) (atomCount f op ty * es) == some causeAddr) causeAddr ++
    failIf (isFloatAdd op ty && f.fetch && !relaxedAt s c) 0x16

/-- The elements of an atomic instruction are sent, in increasing address. -/
def runAtomic (s : State) (c : CtxId) (id : Nat) (f : DmaF) (op : AtomOp) (a : Word) : State :=
  match atomTy f.atype with
  | none => s
  | some ty =>
    let es := atomSize ty
    let step := if op = .cas then 2 * es else es
    let lo := relocLo s c (unitRange f.ladr (dmaLen f))
    let data := lsRead s c.p lo (dmaLen f)
    let val := fun o => BitVec.ofNat 64 (leNat ((data.drop o).take es))
    let n := atomCount f op ty
    let seq := ((engineOf s c.p id).map (·.seq)).getD 0
    let s := modEngine s c.p id fun g => { g with sent := some (0, addrOf a, data) }
    let s :=
      if isFloatAdd op ty && !relaxedAt s c then
        (List.range n).foldl (fun s i => stageOne s c id (addrOf a + i * es) ty (val (i * es)) (seq + i)) s
      else
        (List.range n).foldl (fun s i => atomElement s c id (addrOf a + i * es) op ty (val (i * step)) (val (i * step + es))
          (if f.fetch then some (lo + i * step) else none) (seq + i) .first) s
    if (s.ctx c).run = .stopped then s else engineReady (flushGot s c id) c.p id

/-! ### Issue -/

/-- The plan of a DMA instruction. -/
def dmaPlan (s : State) (c : CtxId) (f : DmaF) (d : DmaOp) : Plan :=
  let a := srOf s c f.sr
  let loc := unitRange f.ladr (dmaLen f)
  let rlen := match d with
    | .atomic op => match atomTy f.atype with
      | some ty => atomCount f op ty * atomSize ty
      | none => dmaLen f
    | _ => dmaLen f
  { causes := failIf (f.rsv != 0) causeReserved ++ failIf (!loc.inStore) causeRegion ++
      match d with
      | .atomic op => atomCauses s c f op a
      | _ => remoteCauses s c a (dmaLen f)
    gather := true
    reads := match d with
      | .read => []
      | _ => [loc]
    writes := match d with
      | .read => [loc]
      | .write => []
      | .atomic _ => if f.fetch then [loc] else []
    remote := some (spaceOf a, ⟨addrOf a, rlen⟩, d != .read)
    engine := some .dma
    flag := flagOf f.flag f.flagen
    outside := d != .read
    base := a.toNat }

/-- The DMA moves its bytes. -/
def runDma (s : State) (c : CtxId) (id : Nat) (f : DmaF) (d : DmaOp) (a : Word) : State :=
  match d with
  | .read => runRead s c id f a
  | .write => runWrite s c id f a
  | .atomic op => runAtomic s c id f op a

/-- Whether two remote ranges reach one slice, or one space outside the partition. -/
def sameDest (x y : Nat × Range × Bool) : Bool :=
  x.1 == y.1 && (x.1 != 0 || decide (x.2.1.lo / Config.sliceBytes ≤ (y.2.1.lo + y.2.1.len - 1) / Config.sliceBytes ∧
    y.2.1.lo / Config.sliceBytes ≤ (x.2.1.lo + x.2.1.len - 1) / Config.sliceBytes))

/-- The earliest instruction of the DMA engine before `id` that waits at a regulator for a destination it shares (R260). -/
def gatedBefore (s : State) (p id : Nat) : Option Engine :=
  match (engineOf s p id).bind (·.remote) with
  | none => none
  | some r => (s.croft p).engines.find? fun g => decide (g.id < id) && g.kind == .dma && g.gate.isSome &&
      (g.remote.map (sameDest r)).getD false

/-- The DMA enters its resources, or waits in the engine for their tokens (R214), or behind an earlier one of its engine to the same
slice that does (R260). -/
def startDma (s : State) (c : CtxId) (id : Nat) (f : DmaF) (d : DmaOp) (a : Word) : State :=
  let k := partAt s c.p
  let ds := dmaDemand s c f d a
  let s := accrue s k
  match gatedBefore s c.p id with
  | some h => modEngine s c.p id fun g => { g with gate := h.gate, stall := some s.now }
  | none =>
    match shortOf s k ds with
    | some key => modEngine s c.p id fun g => { g with gate := some (regOf key), stall := some s.now }
    | none => runDma (takeTokens s k ds) c id f d a

/-- Floating contributions of a DMA instruction, which take numbers (R208). -/
def contribs (f : DmaF) (d : DmaOp) : Nat :=
  match d, atomTy f.atype with
  | .atomic op, some ty => if isFloatAdd op ty then atomCount f op ty else 0
  | _, _ => 0

/-- Issue a DMA. A poisoned operand stops an atomic with 0x07; a WRITE carries the mark (R52). -/
def issueDma (s : State) (c : CtxId) (i : Instr) (f : DmaF) (d : DmaOp) : State :=
  let pl := dmaPlan s c f d
  issue s c i pl (fun id s =>
    let a := srOf s c f.sr
    let go := fun s => startDma (awaitAcks (takeSeq s c (contribs f d)) c (contribs f d)) c id f d a
    match d with
    | .atomic _ => orPoison s c (relocated s c pl.reads) go
    | _ => go s) true

def execDmaRead (c : CtxId) (f : DmaF) (s : State) : Host.Outcome State Fault Refusal :=
  .next (issueDma s c (.dmaRead c f) f .read)

def execDmaWrite (c : CtxId) (f : DmaF) (s : State) : Host.Outcome State Fault Refusal :=
  .next (issueDma s c (.dmaWrite c f) f .write)

def execAtomicAdd (c : CtxId) (f : DmaF) (s : State) : Host.Outcome State Fault Refusal :=
  .next (issueDma s c (.atomicAdd c f) f (.atomic .add))

def execAtomicMin (c : CtxId) (f : DmaF) (s : State) : Host.Outcome State Fault Refusal :=
  .next (issueDma s c (.atomicMin c f) f (.atomic .min))

def execAtomicMax (c : CtxId) (f : DmaF) (s : State) : Host.Outcome State Fault Refusal :=
  .next (issueDma s c (.atomicMax c f) f (.atomic .max))

def execCas (c : CtxId) (f : DmaF) (s : State) : Host.Outcome State Fault Refusal :=
  .next (issueDma s c (.cas c f) f (.atomic .cas))

def execSwap (c : CtxId) (f : DmaF) (s : State) : Host.Outcome State Fault Refusal :=
  .next (issueDma s c (.swap c f) f (.atomic .swap))

def execAtomicAnd (c : CtxId) (f : DmaF) (s : State) : Host.Outcome State Fault Refusal :=
  .next (issueDma s c (.atomicAnd c f) f (.atomic .and))

def execAtomicOr (c : CtxId) (f : DmaF) (s : State) : Host.Outcome State Fault Refusal :=
  .next (issueDma s c (.atomicOr c f) f (.atomic .or))

def execAtomicXor (c : CtxId) (f : DmaF) (s : State) : Host.Outcome State Fault Refusal :=
  .next (issueDma s c (.atomicXor c f) f (.atomic .xor))

/-! ### The square cache's own steps -/

/-- The number of an element that reaches the square cache on its own: that of no engine instruction. -/
def noEngine : Nat := 2 ^ 63

/-- SQUARE_CACHE_ATOMIC (R207): one element of a context's atomic reaches the square cache and applies at once. -/
def execSquareCacheAtomic (c : CtxId) (addr : Nat) (op : AtomOp) (ty : AtomTy) (operand newVal : BitVec 64) (s : State) :
    Host.Outcome State Fault Refusal :=
  .next (if isFloatAdd op ty && !relaxedAt s c then s
    else atomElement (if isFloatAdd op ty then takeSeq s c 1 else s) c noEngine addr op ty operand newVal none (s.ctx c).seq .first)

/-- DEFERRED_CONTRIBUTION (R208): one floating ADD of a partition with RELAXED = 0 is staged. -/
def execDeferredContribution (c : CtxId) (addr : Nat) (ty : AtomTy) (operand : BitVec 64) (s : State) :
    Host.Outcome State Fault Refusal :=
  .next (if (atomFmt ty).isSome && !relaxedAt s c && addrCause s (viaPart (partAt s c.p) s) addr != some causeAddr
      && addr % atomSize ty == 0
    then stageOne (takeSeq s c 1) c noEngine addr ty operand (s.ctx c).seq else s)

/-- The instruction and base address of a DMA that waits in its engine. -/
def dmaOfInstr : Instr → Option (CtxId × DmaF × DmaOp)
  | .dmaRead c f => some (c, f, .read)
  | .dmaWrite c f => some (c, f, .write)
  | .atomicAdd c f => some (c, f, .atomic .add)
  | .atomicMin c f => some (c, f, .atomic .min)
  | .atomicMax c f => some (c, f, .atomic .max)
  | .cas c f => some (c, f, .atomic .cas)
  | .swap c f => some (c, f, .atomic .swap)
  | .atomicAnd c f => some (c, f, .atomic .and)
  | .atomicOr c f => some (c, f, .atomic .or)
  | .atomicXor c f => some (c, f, .atomic .xor)
  | _ => none

end Sys2Proof.Machine
end

