-- ==== Sys2Proof/Machine/Serve.lean ====
section
/-! DEFINITION. Serving the accesses that waited for a bank (R142, R144, R219, R229 to R232, R237). -/

namespace Sys2Proof.Machine

/-- The partition of a slice as the error log gives it. -/
def logPart (s : State) (p : Nat) : Nat := (partOf s p).getD 0xFF

/-- Whether any byte is poisoned. -/
def anyPoison (bs : List (Byte × Bool)) : Bool := bs.any (·.2)

/-- Whether an access belongs to an engine instruction that has left its croft. -/
def orphan (s : State) (c : CtxId) (id : Nat) : Bool := (engineOf s c.p id).isNone && decide (id < (s.croft c.p).nextId)

/-- Bytes that a read brings: back to its source, to the engine of the READ that asked for them, or to the reeve. -/
def readBack (s : State) (e : QEntry) (lo : Nat) (who : Asker) (bs : List (Byte × Bool)) : State :=
  match who with
  | .source => emit s (.readData (bs.map (·.1)) (anyPoison bs))
  | .engine c id =>
    if orphan s c id then s else flushGot (keepGot s c id (sliceIndex s e.p * Config.sliceBytes + e.off) lo bs) c id
  | .command cid =>
    if s.cmds.any fun d => d.id == cid then { s with brought := s.brought ++ [⟨who, e.p, e.off, bs⟩] } else s
  | .ring _ => { s with brought := s.brought ++ [⟨who, e.p, e.off, bs⟩] }
  | _ => s

/-- A row of the migration under way has moved (R415): MIGROW and MIG_ROWS follow. -/
def rowMoved (s : State) : State :=
  match s.floor.migs with
  | [] => s
  | m :: ms =>
    let n := (s.croft m.failed).migRow + 1
    let s := modCroft (modCroft s m.failed fun x => { x with migRow := n }) m.subst fun x => { x with migRow := n }
    genUp { bump s (ctrSquare 38) 1 with floor := { s.floor with migs := { m with row := m.row + 1 } :: ms } }

/-- The move of a row has the bank of one of its slices: it waits for that of the other, or is made. -/
def serveRow (s : State) (e : QEntry) (a b k row : Nat) (exchange : Bool) : State :=
  if e.p = a ∧ rowQueue s b k then enqueue s b (slotSub k) { e with p := b, wrHeld := false }
  else rowMoved (account (moveRow s a b k row exchange))

/-! ### Ended epochs (R208) -/

/-- The record of the error log for an element of an epoch that cannot be used. -/
def epochLog (s : State) (w : Where) (part : Nat) : State :=
  let r : LogRec := { etype := 4, source := 8, pcroft := w.p, part := part, addr := dpaOf s w.p (w.off / 8 * 8) }
  match locate s w.p w.idx w.off with
  | .ok (_, l) => logError s { r with layer := l.k / 8, bank := l.k % 8, row := l.row, col := l.col, word := l.w }
  | .error _ => logError s r

/-- The lowest logical croft that contributed to the element at an address. -/
def lowestAt (l : List Staged) (addr : Nat) : Nat := (l.filter fun x => x.addr = addr).foldl (fun m x => min m x.lc) 511

/-- A fault in the application of an epoch fails the request it is of, with instruction index 0xFFFF_FFFF. -/
def epochFail (s : State) (x : Staged) (cause lc cid : Nat) : State :=
  if ((s.slot x.part x.e).req.map (·.cid)) = some cid then failReq s x.part x.e 0x0008 (faultDetail cause lc 0xFFFFFFFF) else s

/-- A contribution of an ended epoch applies as one ADD (R206). An element that is poisoned, or whose bank slot is retired, stays as it
is. -/
def applyStaged (s : State) (x : Staged) (lc cid : Nat) : State :=
  match partAddr s x.part x.addr with
  | .error _ => epochFail s x causeRetired lc cid
  | .ok w =>
    match locate s w.p w.idx w.off with
    | .error _ => epochFail (epochLog s w x.part) x causeRetired lc cid
    | .ok _ =>
      match applySq s w x.part .add x.ty x.val 0 with
      | (some _, s) => s
      | (none, s) => epochFail (epochLog (noteAtomLoss s x.part x.e x.addr) w x.part) x causePoison lc cid

/-- Where a contribution of an ended epoch must wait: as an atomic does, or, where the host is to be told first, in the queue of its
sub-channel, with every later access to its line behind it (R208, R471). -/
def stagedQueue (s : State) (w : Where) : Option (Nat × Nat) :=
  match atomQueue s w .first with
  | some x => some x
  | none => if biTracked s w.p w.off .square then (placeOf s w.p w.off).map fun x => (x.1, slotSub x.2.k) else none

/-- BISnpInv goes out for the line of a contribution that the host is to be told of, once for those that wait. -/
def tellStaged (s : State) (w : Where) : State :=
  if !biTracked s w.p w.off .square || (s.link.bisn.any fun b => b.p == w.p && b.line == w.off / 64 && decide (b.act = .staged)) then s
  else biHold s w.p (w.off / 64) .staged

/-- A contribution of an ended epoch is sent to its element: it waits, or applies. -/
def sendStaged (s : State) (x : Staged) (lc cid : Nat) : State :=
  match partAddr s x.part x.addr with
  | .error _ => applyStaged s x lc cid
  | .ok w =>
    match stagedQueue s w with
    | some (q, u) =>
      tellStaged (enqueue s q u ⟨w.p, w.off, .staged x lc cid (!biTracked s w.p w.off .square), .square, s.now, false⟩) w
    | none => applyStaged s x lc cid

/-- BIRsp has come for a line: the contributions to it that wait may update it. -/
def tellQueue (p line : Nat) (e : QEntry) : QEntry :=
  match e.act with
  | .staged x lc cid _ => if e.p = p ∧ e.off / 64 = line then { e with act := .staged x lc cid true } else e
  | _ => e

def toldStaged (s : State) (p line : Nat) : State :=
  match placeOf s p (64 * line) with
  | none => s
  | some (q, l) => modSub s q (slotSub l.k) fun y => { y with queue := y.queue.map (tellQueue p line) }

/-! ### One access -/

/-- A waiting access is served. -/
def serveEntry (s : State) (e : QEntry) : State :=
  match e.act with
  | .read n lo who flips =>
    let r := readSlice s e.p (sliceIndex s e.p) e.off n e.src (logPart s e.p) flips
    readBack r.2 e lo who r.1
  | .write data poison who told =>
    answer (if told then account (writePiece s e.p (sliceIndex s e.p) e.off data poison)
      else writeGran s e.p (sliceIndex s e.p) e.off data poison e.src who) who
  | .words ws => storeWords s e.p ws
  | .rmw m => account (rmwNow s e.p m)
  | .atom c id addr op ty operand newVal back seq =>
    if orphan s c id then s else flushGot (atomElement s c id addr op ty operand newVal back seq .bank) c id
  | .staged x lc cid _ => applyStaged s x lc cid
  | .row a b k row exchange => serveRow s e a b k row exchange

/-- A write for a command meets a retired sub-channel: the command ends with UNIT_LOST and the slice's croft (R221, R237). -/
def lostWrite (s : State) (cid p : Nat) : State :=
  { s with cmds := mapIf (fun c => c.id == cid && c.status == 0) (fun c => { c with status := 0x000E, detail := BitVec.ofNat 64 p }) s.cmds }

/-- A waiting access to a sub-channel that retires: a read returns poisoned, a write is discarded, and the croft that issued it stops
with 0x18 (R221, R237). A record's write is tried again, and fails (R523). -/
def dropEntry (s : State) (e : QEntry) : State :=
  match e.act with
  | .read n lo (.engine c id) _ =>
    if orphan s c id then s else failAt (readBack s e lo (.engine c id) (List.replicate n (0, true))) c causeRetired (engIdx s c id)
  | .read n lo who _ => readBack s e lo who (List.replicate n (0, true))
  | .staged x lc cid _ => applyStaged s x lc cid
  | .row a b k row exchange => serveRow s e a b k row exchange
  | _ =>
    match e.who with
    | .engine c id => if orphan s c id then s else failAt s c causeRetired (engIdx s c id)
    | .command cid => lostWrite s cid e.p
    | .record q => modQueue s q fun x => { x with sent := false }
    | .event => { s with dev := { s.dev with evSent := false } }
    | who => answer s who

/-- A read that still fails after three re-reads: every link it used is suspect, and the held sub-channel replays it (R231, R232). -/
def failRead (s : State) (p off : Nat) : State :=
  match placeOf s p off with
  | none => s
  | some (q, l) =>
    let u := slotSub l.k
    suspectLinks (countReread (bump s (ctrSlice q 20) 1) q u 3) q u (linksOf ((s.slice q).sub u).width ++ cmdLinks)

/-- A read that fails for good where it is (R232). -/
def QEntry.fails (s : State) (e : QEntry) : Bool :=
  match e.act with
  | .read n _ _ flips => readFails s e.p (sliceIndex s e.p) e.off n flips
  | _ => false

/-- What a read that failed does when it is replayed: the links have been tested. -/
def QEntry.replay (e : QEntry) : QEntry :=
  match e.act with
  | .read n lo who _ => { e with act := .read n lo who [] }
  | _ => e

/-- Serve the first access of a sub-channel's queue that satisfies a test and can be served; the access served and the state. A read that
fails stays, and its sub-channel is held. -/
def serveNext (s : State) (q u : Nat) (t : QEntry → Bool) (yielded : Bool) : Option (QEntry × State) :=
  let l := ((s.slice q).sub u).queue
  match firstReady s q u t yielded [] (l.take 64) with
  | none => none
  | some (before, e, rest) =>
    if e.fails s then some (e, failRead (modSub s q u fun y => { y with queue := before ++ e.replay :: (rest ++ l.drop 64) }) e.p e.off)
    else some (e, serveEntry (takeEntry s q u (before ++ rest ++ l.drop 64)) e)

/-- Accesses to a gleaner's pair that were queued at its yield, up to time `t0`, are served, `n` at most: GL_ORDWAIT adds their waits (R142,
R154). -/
def serveYield (q u g : Nat) : Nat → State → State
  | 0, s => s
  | n + 1, s =>
    match serveNext s q u (fun e => e.pair s == some g) true with
    | none => s
    | some (e, t) => serveYield q u g n (bump t (ctrSlice q 6) (s.now - e.at0))

/-- Whether an ordinary access to a pair waits. -/
def pairWaits (s : State) (q u g : Nat) : Bool := ((s.slice q).sub u).queue.any fun e => e.pair s == some g

end Sys2Proof.Machine
end

