-- ==== Sys2Proof/Machine/Tick.lean ====
section
/-! DEFINITION. The passing of time (R7, R482): the model's clock and device time. A step whose row waits for a time to pass moves
the clock on to that time (log entry 7). -/

namespace Sys2Proof.Machine

/-! ### What time counts (R247, R464) -/

/-- Temperature of the square: its highest diode that is not suspect (R441). -/
def squareT (s : State) : Int :=
  ((List.range 8).filterMap fun i =>
    if tget zeroB s.therm.suspect (1792 + i) then none else some (tget zeroI s.therm.last (1792 + i))).foldl max (-32768)

/-- A limit row of R445 applies to a village: a croft, a layer tile or the square exceeds its operating limit (R441). -/
def limitIn (s : State) (v : Nat) : Bool :=
  (s.therm.croftT.any fun e => decide (villageOf e.1 = v ∧ 840 < e.2)) ||
    (s.therm.tileT.any fun e => decide (e.1 / 48 = v ∧ 760 < e.2)) || decide (840 < squareT s)

/-- Whether a village has a portion at θ above 0. -/
def throttled (s : State) (v : Nat) : Bool := s.therm.theta.any fun e => decide (e.1 % 4 = v ∧ 0 < e.2)

/-- Hamlets with a layer tile at the doubled interval. -/
def dblHamlets (s : State) : List Nat := ((s.therm.dbl.filter fun e => e.2).map fun e => e.1 / 12).eraseDups

/-- Add `n` to counter `k` when a condition holds. -/
def bumpIf (b : Bool) (s : State) (k n : Nat) : State := if b then bump s k n else s

/-- The counters of nanoseconds after `dt` of them. -/
def countTime (s : State) (dt : Nat) : State :=
  let r := (List.range 4).foldl (fun r v =>
    bumpIf (tget zeroB s.therm.warmhold v) (bumpIf (limitIn s v) (bumpIf (throttled s v) r (ctrVillage v 0) dt) (ctrVillage v 1) dt)
      (ctrVillage v 3) dt) s
  (dblHamlets s).foldl (fun r g => (List.range 32).foldl (fun r i => bump r (ctrSlice (32 * g + i) 32) dt) r) r

/-- `dt` nanoseconds pass. Device time follows with the trim of R482 applied evenly, while it runs (R487). -/
def advance (s : State) (dt : Nat) : State :=
  let s := countTime s dt
  let acc := s.dev.trimAcc + s.dev.trim * dt
  if s.dev.timeOn then
    { s with
      now := s.now + dt
      dev := { s.dev with time := ((s.dev.time : Int) + dt + acc / 8000000000).toNat, trimAcc := acc % 8000000000 } }
  else { s with now := s.now + dt }

/-- It is `t` nanoseconds or later. -/
def notBefore (s : State) (t : Nat) : State := if s.now < t then advance s (t - s.now) else s

/-- The block idles for one nanosecond: what a step on an empty queue does (log entry 7). -/
def idle (s : State) : State := advance s 1

end Sys2Proof.Machine
end

