-- ==== Sys2Proof/Machine/Sync.lean ====
section
/-! DEFINITION. Bells, semaphores, barriers and collectives (R263 to R282), and the ends of epochs (R208). -/

namespace Sys2Proof.Machine

/-! ### The ends of epochs (R208) -/

/-- An epoch of a slot ends: its contributions apply by logical croft, then sequence number, and hold their entries until
EPOCH_APPLY_DONE; the keys of relaxed mode are discarded (R293). -/
def epochEnd (s : State) (k e : Nat) : State :=
  let l := (s.slot k e).staged
  let s := modSlot s k e fun x => { x with staged := [], ended := x.ended ++ l, seen := [] }
  let cid := ((s.slot k e).req.map (·.cid)).getD 0
  (sortBy (·.lc) (sortBy (·.seq) l)).foldl (fun s x => sendStaged s x (lowestAt l x.addr) cid) s

/-- EPOCH_APPLY_DONE: the slot's ended epochs have been applied, and their entries are free (R209). -/
def execEpochApplyDone (part : Fin 8) (e : Fin 2) (s : State) : Host.Outcome State Fault Refusal :=
  .next (if owed s (.epoch part e) then s else modSlot s part e fun x => { x with ended := [] })

/-! ### Bells and semaphores (R266 to R268) -/

/-- A set of counts: the villages' bells or the hub's semaphores. -/
inductive CountSet where
  | bells | sems
deriving DecidableEq, Repr

def countAtOf (s : State) (t : CountSet) (n : Nat) : Nat :=
  match t with
  | .bells => tget zeroN s.bells n
  | .sems => tget zeroN s.sems n

def setCount (s : State) (t : CountSet) (n v : Nat) : State :=
  match t with
  | .bells => { s with bells := tset zeroN s.bells n v }
  | .sems => { s with sems := tset zeroN s.sems n v }

def queueOf (s : State) (t : CountSet) : List (Nat × Nat × CtxId) :=
  match t with
  | .bells => s.bellQ
  | .sems => s.semQ

def setQueueOf (s : State) (t : CountSet) (l : List (Nat × Nat × CtxId)) : State :=
  match t with
  | .bells => { s with bellQ := l }
  | .sems => { s with semQ := l }

def waitOn (t : CountSet) (n cnt : Nat) : Wait :=
  match t with
  | .bells => .bell n cnt
  | .sems => .sem n cnt

/-- Whether a queued waiter still waits: a context that has stopped has left. -/
def stillWaits (s : State) (t : CountSet) (x : Nat × Nat × CtxId) : Bool :=
  (s.ctx x.2.2).run == .running && (s.ctx x.2.2).wait == waitOn t x.1 x.2.1

/-- Serve the waiters of a count strictly in arrival order: the first is released when the count suffices, which is taken from
it; one that finds too little holds back those behind it (R268). -/
def serve (t : CountSet) (n : Nat) : Nat → State → State
  | 0, s => s
  | f + 1, s =>
    let l := (queueOf s t).filter (stillWaits s t)
    let s := setQueueOf s t l
    match l.find? fun x => x.1 == n with
    | none => s
    | some x =>
      if x.2.1 ≤ countAtOf s t n then
        let s := setCount (setQueueOf s t (l.filter fun y => ¬ (y.1 = n ∧ y.2.2 = x.2.2))) t n (countAtOf s t n - x.2.1)
        let s := modCtx s x.2.2 fun y => { y with wait := .none }
        serve t n f (moveOn (retire1 s x.2.2) x.2.2)
      else s

/-- Serve every waiter a count can. -/
def serveAll (s : State) (t : CountSet) (n : Nat) : State := serve t n ((queueOf s t).length + 1) s

/-- RING and SSIG add to a count, saturating at 2³² − 1 (R268). -/
def addCount (s : State) (t : CountSet) (n v : Nat) : State :=
  let sum := countAtOf s t n + v
  let s := setCount s t n (min sum 0xFFFFFFFF)
  let s := if 0xFFFFFFFF < sum then bump s (ctrSquare 11) 1 else s
  serveAll s t n

/-- BWAIT and SWAIT join the waiters of a count. -/
def joinCount (s : State) (c : CtxId) (t : CountSet) (n v : Nat) : State :=
  let s := modCtx s c fun x => { x with wait := waitOn t n v, since := s.now }
  serveAll (setQueueOf s t (queueOf s t ++ [(n, v, c)])) t n

/-- Bell `b` of village `v` under its key. -/
def bellKey (v b : Nat) : Nat := 1024 * v + b

/-- The partition that owns a bell (R266). -/
def bellOwner (s : State) (v b : Nat) : Option Nat := partOf s (32 * (4 * v + b / 256))

/-- A NUM that names no bell is a reserved field value (R11, R272). -/
def bellNum (f : BellF) : List Nat := failIf (decide (1023 < f.num.toNat)) causeReserved

/-- Causes of a class 0x19 instruction (R272, R281). -/
def bellCauses (f : BellF) (bad : Bool) : List Nat := failIf (f.rsv != 0) causeReserved ++ failIf bad causeBell

/-- The plan of a bell or semaphore instruction. -/
def syncPlan (causes : List Nat) (releasing : Bool) : Plan := { causes := causes, gather := true, releasing := releasing }

/-- Die-to-die tokens of a message to a bell of another village: it crosses two ports (R259). It has no wait of its own: what it takes beyond
its bucket accrues before the next access (log entry 61). -/
def ringTokens (s : State) (c : CtxId) (v : Nat) : State :=
  if villageOf c.p = v then s
  else takeTokens (accrue s (partAt s c.p)) (partAt s c.p) (demandOf 1 Config.bellBytes ++ demandOf 3 Config.bellBytes)

/-- RING (R266, R268): releasing. -/
def execRing (c : CtxId) (f : BellF) (s : State) : Host.Outcome State Fault Refusal :=
  .next (issue s c (.ring c f)
    (syncPlan (bellNum f ++ bellCauses f (f.cnt == 0 ||
      bellOwner s f.vil.toNat f.num.toNat != some (partAt s c.p))) true)
    (fun _ s => addCount (ringTokens s c f.vil.toNat) .bells (bellKey f.vil.toNat f.num.toNat) f.cnt.toNat) true)

/-- BWAIT (R266, R268): on a bell of the croft's own village. -/
def execBwait (c : CtxId) (f : BellF) (s : State) : Host.Outcome State Fault Refusal :=
  .next (issue s c (.bwait c f)
    (syncPlan (bellNum f ++ bellCauses f (f.vil != 0 || f.cnt == 0 ||
      bellOwner s (villageOf c.p) f.num.toNat != some (partAt s c.p))) false)
    (fun _ s => joinCount s c .bells (bellKey (villageOf c.p) f.num.toNat) f.cnt.toNat) false)

/-- SSIG (R267, R268): releasing. -/
def execSsig (c : CtxId) (f : BellF) (s : State) : Host.Outcome State Fault Refusal :=
  .next (issue s c (.ssig c f)
    (syncPlan (bellCauses f (f.vil != 0 || f.cnt == 0 || f.num.toNat / 512 != partAt s c.p)) true)
    (fun _ s => addCount s .sems f.num.toNat f.cnt.toNat) true)

/-- SWAIT (R267, R268). -/
def execSwait (c : CtxId) (f : BellF) (s : State) : Host.Outcome State Fault Refusal :=
  .next (issue s c (.swait c f)
    (syncPlan (bellCauses f (f.vil != 0 || f.cnt == 0 || f.num.toNat / 512 != partAt s c.p)) false)
    (fun _ s => joinCount s c .sems f.num.toNat f.cnt.toNat) false)

/-- WAIT_TIMEOUT (R281): an FWAIT, BWAIT or SWAIT has waited 100 ms. -/
def execWaitTimeout (c : CtxId) (s : State) : Host.Outcome State Fault Refusal :=
  let x := s.ctx c
  let due := match x.wait with
    | .flags _ _ _ => true
    | .bell _ _ => true
    | .sem _ _ => true
    | _ => false
  .next (if x.run == .running && due then failAt (notBefore s (x.since + 100000000)) c 0x19 (posOf s c) else s)

/-! ### Barriers (R270) -/

def barOf (s : State) (k e ch : Nat) : Bar := tget bar0 (s.slot k e).bars ch

def setBar (s : State) (k e ch : Nat) (b : Bar) : State := modSlot s k e fun x => { x with bars := tset bar0 x.bars ch b }

/-- Crofts of the request in a slot. -/
def reqN (s : State) (k e : Nat) : Nat := ((s.slot k e).req.map (·.n)).getD 0

/-- A logical croft arrives at a channel's open instance. The last arrival in an armed partition forms the hashes (R299). -/
def arrive (s : State) (c : CtxId) (ch : Nat) : State :=
  let k := partAt s c.p
  let x := s.ctx c
  let b := barOf s k c.e ch
  let s := setCtx s c { x with wait := .barrier ch, since := s.now, bars := tset zeroN x.bars ch (tget zeroN x.bars ch + 1) }
  let s := setBar s k c.e ch { b with first := if b.arrived.isEmpty then s.now else b.first, arrived := b.arrived ++ [x.lc] }
  if armedAt s c.p && decide (reqN s k c.e ≤ b.arrived.length + 1) then formHash s k c.e (barPoint ch b.inst) else s

/-- BAR: releasing and acquiring. In an armed partition it waits for every earlier engine instruction (R299). -/
def execBar (c : CtxId) (f : BellF) (s : State) : Host.Outcome State Fault Refusal :=
  .next (issue s c (.bar c f)
    { syncPlan (bellCauses f (f.vil != 0 || f.cnt != 0 || decide (3 < f.num.toNat))) true with drain := armedAt s c.p }
    (fun _ s => arrive s c f.num.toNat) false)

/-- Whether an instance may release: every logical croft has arrived and, in an armed partition, every pair of hashes is equal
(R270, R301). -/
def barReady (s : State) (k e ch : Nat) : Bool :=
  match (s.slot k e).req with
  | none => false
  | some q =>
    decide (0 < q.n ∧ q.n ≤ (barOf s k e ch).arrived.length) &&
      (s.twin.armed != some k || agreed s q.pairK (barPoint ch (barOf s k e ch).inst))

/-- Release the contexts that wait at a channel. -/
def releaseBar (s : State) (k e ch : Nat) : State :=
  (slotCtxs s k e).foldl (fun s c =>
    if (s.ctx c).run = .running ∧ (s.ctx c).wait = .barrier ch then
      moveOn (retire1 (modCtx s c fun x => { x with wait := .none }) c) c
    else s) s

/-- BARRIER_RELEASE (R270): the instance releases, which ends an epoch of the slot. -/
def execBarrierRelease (part : Fin 8) (e : Fin 2) (ch : Fin 4) (s : State) : Host.Outcome State Fault Refusal :=
  .next (if barReady s part e ch then
      let b := barOf s part e ch
      let s := match (s.slot part e).req with
        | some q => dropHash s q.pairK (barPoint ch b.inst)
        | none => s
      let s := setBar (bump s (ctrPart part 5) 1) part e ch ⟨b.inst + 1, 0, []⟩
      releaseBar (epochEnd s part e) part e ch
    else s)

/-! ### Collectives (R273 to R277) -/

def collRows (f : CollF) : Nat := f.rowsm1.toNat + 1
def collRow (f : CollF) : Nat := 4 * f.cbw.toNat

/-- The range a contribution is read from (R274). -/
def collSource (f : CollF) : Range := unitRange f.sadr (collRows f * up64 (collRow f))

/-- The range a collective holds for its result (R51, R275). -/
def collHeld (reduce : Bool) (f : CollF) : Range :=
  if reduce then unitRange f.dadr (collRows f * up64 (collRow f))
  else (unitRange f.dadr (min (collRows f * 65536) 1048576)).clip

/-- Checks before issue (R281). DESIGN CHOICE (log entry 95): R281 times cause 0x1C for an ALLGATHER alone, and that of an ALLREDUCE's result,
whose size its own fields give, is judged here with its ranges. -/
def collCauses (reduce : Bool) (f : CollF) : List Nat :=
  failIf (f.rsv != 0) causeReserved ++ failIf (!reduce && f.rtype != 0) causeBell ++
  failIf (!(collSource f).inStore || (reduce && !(collHeld true f).inStore)) causeRegion ++
  failIf (reduce && (collHeld true f).overlaps (collSource f)) causeOverlap ++
  failIf (reduce && decide (1048576 < collRows f * up64 (collRow f))) 0x1C

/-- A contribution as it arrives: rows without their padding. -/
def collData (s : State) (p lo : Nat) (f : CollF) : List Byte :=
  (List.range (collRows f)).flatMap fun r => lsRead s p (lo + r * up64 (collRow f)) (collRow f)

/-- A croft arrives at the open collective of its slot; its instruction holds its ranges until the result is complete (R276). -/
def collArrive (s : State) (c : CtxId) (id : Nat) (reduce : Bool) (f : CollF) : State :=
  let k := partAt s c.p
  let x := s.ctx c
  let a : CollArr := ⟨x.lc, c.p, id, reduce, f, ((x.reg f.sr.toNat).extractLsb' 0 16),
    collData s c.p (relocLo s c (collSource f)) f⟩
  let s := setCtx s c { x with wait := .coll, since := s.now, colls := x.colls + 1 }
  modSlot s k c.e fun y => { y with coll := match y.coll with
    | none => some ⟨x.colls, s.now, [a], false, [], none⟩
    | some z => some { z with arrs := z.arrs ++ [a] } }

/-- The plan of a COLL: releasing. -/
def collPlan (reduce : Bool) (f : CollF) : Plan where
  causes := collCauses reduce f
  gather := false
  reads := [collSource f]
  writes := [collHeld reduce f]
  engine := some .coll
  flag := flagOf f.flag f.flagen
  releasing := true

/-- Issue a COLL: releasing and acquiring; a poisoned contribution stops the croft (R282). -/
def issueColl (s : State) (c : CtxId) (i : Instr) (reduce : Bool) (f : CollF) : State :=
  let pl := collPlan reduce f
  issue s c i pl (fun id s => orPoison s c (relocated s c pl.reads) fun s => collArrive s c id reduce f) false

def execAllgather (c : CtxId) (f : CollF) (s : State) : Host.Outcome State Fault Refusal :=
  .next (issueColl s c (.allgather c f) false f)

def execAllreduce (c : CtxId) (f : CollF) (s : State) : Host.Outcome State Fault Refusal :=
  .next (issueColl s c (.allreduce c f) true f)

/-! ### The result -/

/-- Whether all numbers of a list differ. -/
def allDiffer : List Nat → Bool
  | [] => true
  | x :: xs => !xs.contains x && allDiffer xs

/-- Cause 0x1B (R274): a field that must match differs, a zero CBW in ALLREDUCE, or equal order keys. -/
def collMismatch (l : List CollArr) : Bool :=
  match l with
  | [] => false
  | a :: _ =>
    l.any (fun b => b.reduce != a.reduce || b.f.rtype != a.f.rtype || b.f.rowsm1 != a.f.rowsm1) ||
    (if a.reduce then l.any fun b => b.f.cbw != a.f.cbw || b.f.cbw == 0
     else !allDiffer ((l.filter fun b => b.f.cbw ≠ 0).map fun b => b.key.toNat))

/-- One element combined (R275), and whether an INT32 sum was clamped. -/
def combine (rtype : BitVec 2) (a b : BitVec 32) : BitVec 32 × Bool :=
  if rtype = 0 then (add32 a b, false)
  else if rtype = 1 then (BitVec.ofNat 32 (fmt32.max a.toNat b.toNat), false)
  else if rtype = 2 then (BitVec.ofNat 32 (fmt32.min a.toNat b.toNat), false)
  else
    let r := clampInt 32 (a.toInt + b.toInt)
    (BitVec.ofInt 32 r.1, r.2)

/-- Elements of a contribution. -/
def words32 (bs : List Byte) : List (BitVec 32) :=
  (List.range (bs.length / 4)).map fun i => BitVec.ofNat 32 (leNat ((bs.drop (4 * i)).take 4))

/-- One level of the tree over contributions: pairs combine, an odd last one is carried up (R275). -/
def reduceLevel (rtype : BitVec 2) : List (List (BitVec 32)) → List (List (BitVec 32)) × Bool
  | a :: b :: r =>
    let z := List.zipWith (combine rtype) a b
    let t := reduceLevel rtype r
    (z.map (·.1) :: t.1, z.any (·.2) || t.2)
  | l => (l, false)

/-- The tree, with `n` levels at most. -/
def reduceTree (rtype : BitVec 2) : Nat → List (List (BitVec 32)) → List (BitVec 32) × Bool
  | 0, l => (l.headD [], false)
  | n + 1, l =>
    match l with
    | [] => ([], false)
    | [a] => (a, false)
    | _ =>
      let t := reduceLevel rtype l
      let r := reduceTree rtype n t.1
      (r.1, t.2 || r.2)

/-- Bytes padded with zeros to a length. -/
def padTo (n : Nat) (bs : List Byte) : List Byte := bs ++ List.replicate (n - bs.length) 0

/-- The result of a collective and whether a sum was clamped. A NaN of an ALLREDUCE is the canonical one, from one croft's contribution too
(R67). -/
def collResult (l : List CollArr) : List Byte × Bool :=
  match l with
  | [] => ([], false)
  | a :: _ =>
    let rows := List.range (collRows a.f)
    if a.reduce then
      let leaf := fun b : CollArr => if a.f.rtype = 3 then words32 b.data else (words32 b.data).map canon32
      let r := reduceTree a.f.rtype 10 ((sortBy (·.lc) l).map leaf)
      let bs := r.1.flatMap fun w => leBytes 4 w.toNat
      (rows.flatMap fun i => padTo (up64 (collRow a.f)) ((bs.drop (i * collRow a.f)).take (collRow a.f)), r.2)
    else
      let src := sortBy (fun b => b.key.toNat) (l.filter fun b => b.f.cbw ≠ 0)
      let p := up64 ((src.map fun b => collRow b.f).foldl (· + ·) 0)
      (rows.flatMap fun i => padTo p (src.flatMap fun b => (b.data.drop (i * collRow b.f)).take (collRow b.f)), false)

/-- Causes of a croft's own result range in an ALLGATHER (R276, R281). -/
def gatherCauses (f : CollF) (bytes pitch : Nat) : List Nat :=
  let r := unitRange f.dadr bytes
  failIf (!r.inStore) causeRegion ++ failIf (r.overlaps (collSource f)) causeOverlap ++
    failIf (decide (1048576 < bytes ∨ 65536 < pitch)) 0x1C

/-- Bytes of an ALLGATHER's result row. -/
def gatherPitch (l : List CollArr) : Nat := up64 ((l.map fun b => collRow b.f).foldl (· + ·) 0)

/-- A croft of a collective fails it: the cause is recorded and raised; the others stop through `breakWaits`. -/
def collFail (s : State) (e : Nat) (a : CollArr) (cause : Nat) : State :=
  let c := mkCtx a.p e
  let idx := posOf s c
  failReq (stopCtx s c cause idx) (partAt s a.p) e 0x0008 (faultDetail cause a.lc idx)

/-- The causes of an arrival once every one is in (R281, R526). A mismatch of R274 is every croft's, since the rule says of none of them
that it is the one that differs (log entry 73). -/
def arrivalCauses (l : List CollArr) (a : CollArr) : List Nat :=
  let p := gatherPitch l
  failIf (collMismatch l) 0x1B ++ if a.reduce then [] else gatherCauses a.f (collRows a.f * p) p

/-- Villages the crofts of a collective lie in. -/
def collVillages (l : List CollArr) : List Nat := (l.map fun a => villageOf a.p).eraseDups

/-- Die-to-die tokens of a collective that spans villages: each contribution crosses its port to the square, and the result each port
once (R259, R276). -/
def collDemand (l : List CollArr) (bytes : Nat) : Demand :=
  if (collVillages l).length ≤ 1 then []
  else demandOf 1 ((l.map fun a => a.data.length).foldl (· + ·) 0) ++ demandOf 3 (bytes * (collVillages l).length)

/-- COLLECTIVE_START (R277): every arrival is in and no collective of the partition runs. Its checks are made, and its result is
formed, once it has its tokens (R214). -/
def execCollectiveStart (part : Fin 8) (e : Fin 2) (s : State) : Host.Outcome State Fault Refusal :=
  let other := ((s.slot part (1 - e.val)).coll.map (·.running)).getD false
  .next (match (s.slot part e).coll with
  | none => s
  | some z =>
    if z.running || other || z.arrs.length != reqN s part e then s
    else
      let l := sortBy (·.lc) z.arrs
      let bad := l.filterMap fun a => (lowest (arrivalCauses l a)).map fun x => (a, x)
      if bad.isEmpty then
        let r := collResult l
        match enterRegs s part (collDemand l r.1.length) z.shortAt with
        | none => modSlot s part e fun y => { y with coll := some { z with shortAt := some (z.shortAt.getD s.now) } }
        | some s =>
          modSlot (l.foldl (fun s a => satIf s (mkCtx a.p e) r.2) s) part e fun y => { y with coll := some { z with running := true, bytes := r.1 } }
      else breakWaits (bad.foldl (fun s a => collFail s e a.1 a.2) s) part e)

/-- The engine instruction retires: it leaves with its ranges and sets its flag (R44, R264). -/
def retireEngine (s : State) (c : CtxId) (id : Nat) : State :=
  match engineOf s c.p id with
  | none => s
  | some g =>
    let s := modCroft s c.p fun x => { x with
      engines := x.engines.filter fun h => h.id ≠ id
      mma := x.mma.filter fun r => r.id ≠ id }
    let s := retire1 s c
    match g.flag with
    | none => s
    | some f => raiseFlag s c f

/-- COLLECTIVE_DONE (R276): the result is complete in every croft, and the instructions retire. -/
def execCollectiveDone (part : Fin 8) (e : Fin 2) (s : State) : Host.Outcome State Fault Refusal :=
  .next (match (s.slot part e).coll with
  | none => s
  | some z =>
    if z.running then
      let s := modSlot s part e fun y => { y with coll := none }
      let s := bump (bump s (ctrPart part 6) 1) (ctrPart part 7) (z.bytes.length * z.arrs.length)
      z.arrs.foldl (fun s a =>
        let c := mkCtx a.p e
        let s := lsStore s a.p (relocLo s c (unitRange a.f.dadr z.bytes.length)) z.bytes
        let s := modCtx s c fun x => { x with wait := .none }
        moveOn (retireEngine s c a.id) c) s
    else s)

/-- The crofts of a slot stop with 0x1D, and the request fails with the lowest of them: first those that wait for something, then the
others of it (R281, R282). -/
def breakAll (s : State) (k e : Nat) (w : Wait) : State :=
  let cs := (slotCtxs s k e).filter fun c => (s.ctx c).run = .running
  let at' := fun c => decide ((s.ctx c).wait = w)
  (cs.filter at' ++ cs.filter fun c => !at' c).foldl (fun s c =>
    let idx := posOf s c
    failReq (stopCtx s c causeBroken idx) k e 0x0008 (faultDetail causeBroken (s.ctx c).lc idx)) s

/-- BARRIER_TIMEOUT (R281): a barrier, or with `ch` 4 the collective, is incomplete 10 ms after its first arrival. -/
def execBarrierTimeout (part : Fin 8) (e : Fin 2) (ch : Fin 5) (s : State) : Host.Outcome State Fault Refusal :=
  .next (if ch.val < 4 then
      let b := barOf s part e ch
      if b.arrived.isEmpty || decide (reqN s part e ≤ b.arrived.length) then s
      else
        modSlot (breakAll (notBefore s (b.first + 10000000)) part e (.barrier ch)) part e fun y => { y with bars := [], coll := none }
    else match (s.slot part e).coll with
      | none => s
      | some z =>
        if z.running || z.arrs.length == reqN s part e then s
        else modSlot (breakAll (notBefore s (z.first + 10000000)) part e .coll) part e fun y => { y with bars := [], coll := none })

end Sys2Proof.Machine
end

