-- ==== Sys2Proof/Machine/Glean.lean ====
section
/-! DEFINITION. GLEAN (R119 to R151): the scan of a lookup list, the slice controller's commands, the gleaners' arithmetic and the
delivery of output vectors. -/

namespace Sys2Proof.Machine

/-! ### Lookup entries and rows (R123, R128) -/

def entRow (x : BitVec 64) : Nat := (x.extractLsb' 0 24).toNat
def entRsv (x : BitVec 64) : Bool := x.extractLsb' 24 6 != 0
def entNull (x : BitVec 64) : Bool := x.getLsbD 30
def entEnd (x : BitVec 64) : Bool := x.getLsbD 31
def entWgt (x : BitVec 64) : BitVec 32 := x.extractLsb' 32 32

/-- Whether an entry names a row to read: not NULL, and its weight is not a zero (R133). -/
def entReads (wen : Bool) (x : BitVec 64) : Bool := !entNull x && !(wen && (entWgt x).extractLsb' 0 31 == 0)

/-- Bytes of a row of D elements (R123). -/
def rowBytes (rfmt d : Nat) : Nat :=
  match rfmt with
  | 0 => 4 * d
  | 1 => 2 * d
  | 2 => 2 * d
  | 3 => d
  | 4 => d
  | 5 => d + d / 32
  | 6 => d + d / 32
  | 7 => 3 * d / 4 + d / 32
  | 8 => 3 * d / 4 + d / 32
  | 9 => d / 2 + d / 32
  | 10 => d + d / 32
  | 11 => 4 + d
  | 12 => 4 + d / 2
  | 13 => d
  | 14 => d / 2
  | _ => 2 + d / 2

/-- Bits `i·w` to `i·w + w − 1` of a byte list from byte `base` (R70). -/
def bitsAt (bs : List Byte) (base w i : Nat) : Nat :=
  bitsOf (leNat ((bs.drop (base + i * w / 8)).take (cdiv (i * w % 8 + w) 8))) (i * w % 8) w

/-- Element i of a row as FP32 (R74 to R76, R123). `codebook` is the shard's; at contract level 1 the CB4 nibbles are reversed. -/
def rowElem (rfmt d : Nat) (codebook : BitVec 256) (level1 : Bool) (bs : List Byte) (i : Nat) : BitVec 32 :=
  let plain := fun f w => enc32 (floatVal f (bitsAt bs 0 w i) 0)
  let mx := fun f w => enc32 (floatVal f (bitsAt bs 0 w i) ((bs.getD (d * w / 8 + i / 32) 0).toNat))
  let scaled := fun w => enc32 (mulN (intN (bitsInt w (bitsAt bs 4 w i))) (dec32 (BitVec.ofNat 32 (leNat (bs.take 4)))))
  match rfmt with
  | 0 => BitVec.ofNat 32 (bitsAt bs 0 32 i)
  | 1 => plain 0 16
  | 2 => plain 1 16
  | 3 => plain 2 8
  | 4 => plain 3 8
  | 5 => mx 4 8
  | 6 => mx 5 8
  | 7 => mx 6 6
  | 8 => mx 7 6
  | 9 => mx 8 4
  | 10 => mx 9 8
  | 11 => scaled 8
  | 12 => scaled 4
  | 13 => enc32 (intN (bitsInt 8 (bitsAt bs 0 8 i)))
  | 14 => enc32 (intN (bitsInt 4 (bitsAt bs 0 4 i)))
  | _ =>
    let ix := bitsAt bs 2 4 (if level1 then i / 2 * 2 + (1 - i % 2) else i)
    mul32 (enc32 (fmt16.dec (codebook.extractLsb' (16 * ix) 16).toNat)) (enc32 (fmt16.dec (leNat (bs.take 2))))

/-! ### Reading a row in the banks -/

/-- One column operation of a gleaner: 32 B of row `r` of a shard in slice `q`, with what the square cache or the write buffers
hold of it (R199, R205). A retired sub-channel's banks read poisoned (R150). -/
def glColumn (s : State) (q : Nat) (d : Shard) (r i part : Nat) : List (Byte × Bool) × State :=
  let l := d.locate r (32 * i)
  let off := (d.wbase.toNat + r * d.pitchBytes + 32 * i) % Config.sliceBytes
  let s := scanSq s q (off / 128) (off % 128 / 8) 4
  if isRetired s q (slotSub l.k) || (s.slice q).lost then (List.replicate 32 (0, true), s)
  else match s.sqc.find? fun y => y.p == q && y.line == off / 128 with
    | some y => (sqBytes y (off % 128) 32, s)
    | none =>
      let x := readSector s q l .gleaner part (some off) []
      let bs := wordBytes x.1.words
      ((List.range 32).map fun j => overlay (s.slice q) (off + j) (bs.getD j (0, true)), x.2)

/-- A row as a gleaner reads it, in ceil(row bytes / 32) column operations (R132), and whether any of it is poisoned. -/
def glRow (s : State) (q : Nat) (d : Shard) (r part : Nat) : (List Byte × Bool) × State :=
  let n := rowBytes d.rfmt.toNat d.dim
  let off := (d.wbase.toNat + r * d.pitchBytes) % Config.sliceBytes
  let s := if meetsBuffer s q off n then settleParity s q (sliceIndex s q) off n else s
  let x := (List.range (cdiv n 32)).foldl (fun (a : List (Byte × Bool) × State) i =>
    let y := glColumn a.2 q d r i part
    (a.1 ++ y.1, y.2)) ([], s)
  let bs := x.1.take n
  ((bs.map (·.1), bs.any (·.2)), account x.2)

/-- Number 4·layer + unit of the gleaner that serves a row (R125). -/
def glOf (d : Shard) (r : Nat) : Nat :=
  let k := rowSlot d.salt16 r
  4 * (k / 8) + slotSub k

/-- A row read, behind a refresh that its bank owes (R243): by its gleaner, or by a stand-in over the data links where the gleaner is fallow and its banks are healthy (R137). A
row of a retired sub-channel, or of a lost slice, has no stand-in and is not read (R150, R237, R412). -/
def glReadRow (s : State) (q : Nat) (d : Shard) (r part : Nat) : (List Byte × Bool) × State :=
  let g := glOf d r
  let k := rowSlot d.salt16 r
  let cols := cdiv (rowBytes d.rfmt.toNat d.dim) 32
  if isRetired s q (slotSub k) || (s.slice q).lost then glRow s q d r part
  else
    let s := bump (refreshFirst s q k) (ctrSlice q 2) 1
    let s := if (s.slice q).glFallow.getLsbD g then
        let s := (List.range (cdiv cols 2)).foldl (fun s _ => countGran s q k) s
        bump s (ctrSlice q 8) 1
      else s
    let s := modSlice s q fun x =>
      let u := tget glUnit0 x.glUnits g
      { x with glUnits := tset glUnit0 x.glUnits g { u with ops := u.ops + cols } }
    glRow s q d r part

/-! ### A bag (R133 to R135) -/

/-- A partial or chain vector. -/
abbrev FVec := List (BitVec 32)

/-- What the gleaners have read of a bag: partial vectors by gleaner, whether a row was poisoned, and how many rows of the bag each gleaner
has in its partial vector already, from before. -/
structure BagSum where
  parts : List (Nat × FVec)
  bad   : Bool
  past  : List (Nat × Nat)
deriving DecidableEq, Repr

/-- p[d] := fma(w, x[d], p[d]) (R133). -/
def fmaVec (w : BitVec 32) (x p : FVec) : FVec := List.zipWith (fun a b => fma32 w a b) x p

/-- A gleaner reads the row of an entry into a partial vector: the vector, whether the row was poisoned, and the state. -/
def rowInto (s : State) (q : Nat) (d : Shard) (part : Nat) (wen level1 : Bool) (x : BitVec 64) (old : FVec) : (FVec × Bool) × State :=
  let r := glReadRow s q d (entRow x) part
  let v := (List.range d.dim).map fun i => rowElem d.rfmt.toNat d.dim d.codebook level1 r.1.1 i
  ((fmaVec (if wen then entWgt x else 0x3F800000) v old, r.1.2), r.2)

/-- One entry of a bag: it is read, unless its gleaner has it in its partial vector. -/
def bagEntry (q : Nat) (d : Shard) (part : Nat) (wen level1 : Bool) (a : BagSum × State) (x : BitVec 64) : BagSum × State :=
  let g := glOf d (entRow x)
  if entReads wen x = false then (a.1, bump a.2 (ctrSlice q 3) 1)
  else if a.1.past.any fun y => y.1 == g && decide (0 < y.2) then
    ({ a.1 with past := mapIf (fun y => y.1 == g) (fun y => (g, y.2 - 1)) a.1.past }, a.2)
  else
    let old := ((a.1.parts.find? fun y => y.1 == g).map (·.2)).getD (List.replicate d.dim 0)
    let r := rowInto a.2 q d part wen level1 x old
    ({ a.1 with parts := (g, r.1.1) :: a.1.parts.filter (fun y => y.1 ≠ g), bad := a.1.bad || r.1.2 }, r.2)

/-- The chain value: the partials of the gleaners that read a row, from (11, 3) down to (0, 0) (R134). -/
def chainValue (dim : Nat) (b : BagSum) : FVec :=
  (List.range 48).foldl (fun c i =>
    match b.parts.find? fun y => y.1 == 47 - i with
    | none => c
    | some y => List.zipWith add32 c y.2) (List.replicate dim 0)

/-- The output vector of a bag (R135): POOL 0 sum, 1 mean, 2 none. DESIGN CHOICE (log entry 93): a bag whose entries are all NULL is empty under
POOL mean, however many they are. -/
def outVector (pool dim : Nat) (bag : List (BitVec 64)) (c : FVec) : FVec :=
  if pool = 1 then
    let n := (bag.filter fun x => !entNull x).length
    if n = 0 then List.replicate dim 0 else c.map fun x => mul32 x (rcp32 (enc32 (intN n)))
  else c

/-- The entries of the bags of a list, in list order (R129). -/
def bagsOf (pool : Nat) : List (BitVec 64) → List (List (BitVec 64))
  | [] => []
  | x :: xs =>
    if pool = 2 ∨ entEnd x then [x] :: bagsOf pool xs
    else match bagsOf pool xs with
      | [] => [[x]]
      | b :: bs => (x :: b) :: bs

/-- Bytes of an output vector at its pitch (R130). -/
def outPitch (d : Shard) : Nat := up64 (4 * d.dim)

/-! ### Issue and scan (R127, R131) -/

def gleanEntries (f : GleanF) : Nat := f.lcnt.toNat + 1
def listRange (f : GleanF) : Range := unitRange f.ladr (8 * gleanEntries f)

/-- The slice a GLEAN names and the descriptor it holds of the table (R139, R416). -/
def gleanShard (s : State) (c : CtxId) (f : GleanF) : Option (Nat × Shard) :=
  match dataOf s (partAt s c.p) f.shard.toNat with
  | none => none
  | some p =>
    let q := tableSlice s p
    let d := s.shard q f.tid.toNat
    if d.valid then some (q, d) else none

/-- Pitch of a GLEAN's output vectors: that of the descriptor, or of the reset descriptor where there is none. -/
def gleanPitch (s : State) (c : CtxId) (f : GleanF) : Nat := outPitch (((gleanShard s c f).map (·.2)).getD Shard.reset)

/-- The lookup list, read through the gather windows. -/
def gleanList (s : State) (c : CtxId) (f : GleanF) : List (BitVec 64) :=
  let lo := relocLo s c (listRange f)
  (List.range (gleanEntries f)).map fun i => BitVec.ofNat 64 (leNat (lsRead s c.p (lo + 8 * i) 8))

/-- The checks of the scan (R131, R148). -/
def scanCauses (s : State) (c : CtxId) (f : GleanF) (pool : Nat) : List Nat :=
  if (listRange f).inStore = false then [causeRegion]
  else
    let es := gleanList s c f
    let n := (bagsOf pool es).length
    let dst := unitRange f.dadr (n * gleanPitch s c f)
    failIf (es.any entRsv || (pool != 2 && !(es.getLast?.map entEnd).getD false)) 0x12 ++
    failIf (!f.dsel && !dst.inStore) causeRegion ++ failIf (!f.dsel && dst.overlaps (listRange f)) causeOverlap

/-- The plan of a GLEAN. -/
def gleanPlan (s : State) (c : CtxId) (f : GleanF) : Plan :=
  let lst := (listRange f).clip
  let held := (unitRange f.dadr (gleanEntries f * gleanPitch s c f)).clip
  { causes := failIf (f.rsv != 0) causeReserved
    gather := true
    reads := [lst]
    writes := if f.dsel then [] else [held]
    remote := if f.dsel then some (0, ⟨addrOf (srOf s c f.sr), gleanEntries f * gleanPitch s c f⟩, true) else none
    engine := some .glean
    flag := flagOf f.flag f.flagen
    outside := f.dsel
    base := (srOf s c f.sr).toNat }

/-- Issue a GLEAN: its list is scanned in the engine, and then waits for GLEAN_COMMAND_RECEIVE. A poisoned list stops the croft
(R149). -/
def issueGlean (s : State) (c : CtxId) (i : Instr) (f : GleanF) (pool : Nat) : State :=
  let pl := gleanPlan s c f
  issue s c i pl (fun _ s => orPoison s c (relocated s c pl.reads) fun s =>
    match lowest (scanCauses s c f pool) with
    | some cause => failAt s c cause (posOf s c)
    | none => s) true

def execGleanSum (c : CtxId) (f : GleanF) (s : State) : Host.Outcome State Fault Refusal := .next (issueGlean s c (.gleanSum c f) f 0)
def execGleanMean (c : CtxId) (f : GleanF) (s : State) : Host.Outcome State Fault Refusal := .next (issueGlean s c (.gleanMean c f) f 1)
def execGleanGather (c : CtxId) (f : GleanF) (s : State) : Host.Outcome State Fault Refusal :=
  .next (issueGlean s c (.gleanGather c f) f 2)

/-- The fields of a GLEAN that waits in its engine. -/
def gleanOf : Instr → Option (GleanF × Nat)
  | .gleanSum _ f => some (f, 0)
  | .gleanMean _ f => some (f, 1)
  | .gleanGather _ f => some (f, 2)
  | _ => none

/-! ### The slice controller (R139) -/

/-- Causes of a partition-address destination (R130, R148): unaligned, outside the partition or in a table window; and, in a hole or in
the table region outside every window, that of R189 and R221. -/
def destCauses (s : State) (k a len : Nat) : List Nat :=
  let part := fun x : Nat × Nat => match partAddr s k x.1 with
    | .error _ => none
    | .ok w => some (w, x.2)
  let ws := (piecesOf Config.sliceBytes a len).map part
  let past := (ws.filterMap id).filter fun w => (s.slice w.1.p).map.hc < w.1.off + w.2
  let grans := past.flatMap fun w => (piecesOf 64 w.1.off w.2).filterMap fun y =>
    if y.1 + y.2 ≤ (s.slice w.1.p).map.hc then none else some (w.1, y.1)
  let window := fun y : Where × Nat => (windowAt s y.1.p (y.1.idx * Config.sliceBytes + y.2)).isSome
  failIf (decide (2 ^ 52 ≤ a) || a % 64 != 0 || ws.any (·.isNone) || grans.any window) 0x13 ++
    failIf (grans.any fun y => !window y) causeAddr

/-- The checks of the slice controller (R148). -/
def receiveCauses (s : State) (c : CtxId) (g : Engine) (f : GleanF) (pool : Nat) (es : List (BitVec 64)) : List Nat :=
  match gleanShard s c f with
  | none => [0x0F]
  | some (_, d) =>
    let named := es.filter fun x => !entNull x
    failIf (named.any fun x => decide (d.rows ≤ entRow x)) 0x10 ++
    failIf (named.any fun x => entReads f.wen x && d.lost.getLsbD (slotSub (rowSlot d.salt16 (entRow x)))) 0x11 ++
    if f.dsel then destCauses s (partAt s c.p) g.base ((bagsOf pool es).length * outPitch d) else []

/-- A row of a bag that a gleaner is to read: the command, the number of the bag in it, and the entry. -/
structure RowAhead where
  cmd   : GlCmd
  bag   : Nat
  entry : BitVec 64

/-- The partial vector that a gleaner holds of a bag (R139). -/
def GlUnit.part? (u : GlUnit) (k bag : Nat) : Option GlPart := u.parts.find? fun y => y.k == k && y.bag == bag

/-- Rows of bag `b` of a command that gleaner `g` has still to read, in list order. -/
def rowsLeft (x : Slice) (c : GlCmd) (b g : Nat) : List (BitVec 64) :=
  ((((bagsOf c.pool c.entries).getD b []).filter (entReads c.wen)).filter fun e => glOf c.shard (entRow e) == g).drop
    ((((tget glUnit0 x.glUnits g).part? c.k b).map (·.rows)).getD 0)

/-- The next two bags of a slice, in the order of their commands' receipt and of their lists: a gleaner holds two partial vectors (R139). -/
def bagsAhead (x : Slice) : List (GlCmd × Nat) :=
  (x.gl.flatMap fun c => ((List.range (bagsOf c.pool c.entries).length).drop c.next).map fun b => (c, b)).take 2

/-- The next row of gleaner `g` of a slice: it serves one bag at a time, in their order. -/
def nextRow (x : Slice) (g : Nat) : Option RowAhead :=
  ((bagsAhead x).flatMap fun b => (rowsLeft x b.1 b.2 g).map fun e => RowAhead.mk b.1 b.2 e).head?

/-- The row of an entry in its bank. -/
def openAt (d : Shard) (r : Nat) : OpenRow :=
  ⟨rowSlot d.salt16 r, (d.wbase.toNat + r * d.pitchBytes) % Config.sliceBytes, rowBytes d.rfmt.toNat d.dim⟩

/-- A gleaner's run with the row it now has begun: its next. Its count and its time begin with its command, and it keeps the partial vectors
of bags that are still to be delivered. -/
def GlUnit.turn (u : GlUnit) (x : Slice) (g now : Nat) : GlUnit :=
  let parts := u.parts.filter fun y => x.gl.any fun c => c.k == y.k && decide (c.next ≤ y.bag)
  match nextRow x g with
  | none => if x.gl.any fun y => u.cmd == some y.k then { u with row := none, parts := parts } else ⟨0, 0, none, none, parts⟩
  | some r =>
    let row := some (openAt r.cmd.shard (entRow r.entry))
    if u.cmd = some r.cmd.k then { u with row := row, parts := parts } else ⟨0, now, row, some r.cmd.k, parts⟩

/-- Writes that wait in a sub-channel's queue are held where a gleaner has now begun their row (R144). -/
def noteHeldWrites (s : State) (q u : Nat) : State :=
  let l := ((s.slice q).sub u).queue
  if l.isEmpty then s
  else
    let r := l.foldl (fun (a : List QEntry × State) e =>
      let x := noteHeldWrite a.2 q e
      (a.1 ++ [x.1], x.2)) ([], s)
    modSub r.2 q u fun y => { y with queue := r.1 }

/-- The gleaners of a slice turn to their next rows. -/
def turnUnits (s : State) (q : Nat) : State :=
  let s := modSlice s q fun x => { x with glUnits := (List.range 48).foldl (fun t g =>
    tset glUnit0 t g ((tget glUnit0 t g).turn x g s.now)) x.glUnits }
  (List.range 4).foldl (fun s u => noteHeldWrites s q u) s

/-- The controller takes a command: it is checked before any bank is read, or stops its croft. -/
def receive (s : State) (c : CtxId) (g : Engine) (f : GleanF) (pool : Nat) : State :=
  let es := gleanList s c f
  match lowest (receiveCauses s c g f pool es) with
  | some cause => failAt s c cause (BitVec.ofNat 32 g.idx)
  | none =>
    match gleanShard s c f with
    | none => s
    | some (q, d) =>
      let dest := if f.dsel then g.base
        else relocLo s c (unitRange f.dadr (gleanEntries f * gleanPitch s c f)).clip
      let s := modEngine s c.p g.id fun h => { h with stall := none }
      turnUnits (modSlice s q fun x => { x with
        gl := x.gl ++ [⟨x.glNext, c.p, c.e, g.id, f.tid.toNat, es, pool, f.wen, f.dsel, d, dest, 0⟩]
        glNext := x.glNext + 1 }) q

/-- Whether a slice already holds the command of an engine instruction. -/
def heldBySlice (s : State) (q p id : Nat) : Bool := (s.slice q).gl.any fun x => x.p == p && x.id == id

/-- Offer a GLEAN to its slice controller; with 32 held it waits in its engine. -/
def offer (s : State) (c : CtxId) (id : Nat) : State :=
  match engineOf s c.p id with
  | none => s
  | some g =>
    match gleanOf g.instr with
    | none => s
    | some (f, pool) =>
      let q := ((gleanShard s c f).map (·.1)).getD 0
      if g.e != c.e.val || g.ready || heldBySlice s q c.p id then s
      else if (gleanShard s c f).isSome && decide (32 ≤ (s.slice q).gl.length) then
        if g.stall.isSome then s else modEngine s c.p id fun h => { h with stall := some s.now }
      else
        receive (endStall s c.p g) c g f pool

/-- GLEAN_COMMAND_RECEIVE (R139): the slice controller receives the whole lookup list and checks it. -/
def execGleanCommandReceive (c : CtxId) (id : Nat) (s : State) : Host.Outcome State Fault Refusal := .next (offer s c id)

/-- GLEAN_SLOT_FREE (R139): a GLEAN that waits for one of the 32 slots is accepted. -/
def execGleanSlotFree (c : CtxId) (id : Nat) (s : State) : Host.Outcome State Fault Refusal :=
  .next (if ((engineOf s c.p id).map (·.stall.isSome)).getD false then offer s c id else s)

/-! ### Delivery -/

/-- Write an output vector at its destination, poisoned or not (R149). -/
def deliverVector (s : State) (part : Nat) (g : GlCmd) (v : FVec) (bad : Bool) : State :=
  let bs := padTo (outPitch g.shard) (v.flatMap fun w => leBytes 4 w.toNat)
  let a := g.dest + g.next * outPitch g.shard
  if g.dsel then
    let gone := (piecesOf 64 a bs.length).any fun x => addrCause s (viaPart part s) x.1 == some causeRetired
    let s := writeVia s (viaPart part) a bs (fun _ => bad) .gleaner (.engine (mkCtx g.p g.e) g.id)
    let s := modEngine s g.p g.id fun h => { h with
      sent := some (0, g.dest, ((h.sent.map (·.2.2)).getD []) ++ bs) }
    if gone && (engineOf s g.p g.id).isSome then failAt s (mkCtx g.p g.e) causeRetired (engIdx s (mkCtx g.p g.e) g.id) else s
  else lsDeliver s g.p a (bs.map fun b => (b, bad))

/-- What the gleaners of a slice have read of bag `b` of a command. -/
def heldParts (x : Slice) (k b : Nat) : BagSum :=
  let ps := (List.range 48).filterMap fun g => ((tget glUnit0 x.glUnits g).part? k b).map fun y => (g, y)
  ⟨ps.map fun y => (y.1, y.2.sum), ps.any fun y => y.2.bad, ps.map fun y => (y.1, y.2.rows)⟩

/-- A row that cannot be read now: its sub-channel takes no access, or a granule of it is to be resent (R229, R230, R232). -/
def rowStopped (s : State) (q : Nat) (d : Shard) (r : Nat) : Bool :=
  let o := openAt d r
  let y := (s.slice q).sub (slotSub o.k)
  y.stopped || (piecesOf 64 o.off o.len).any fun x => awaitsResend y q x.1

/-- Whether the next bag of a command must wait for a row. -/
def bagStopped (s : State) (q : Nat) (g : GlCmd) : Bool :=
  (List.range 48).any fun u => (rowsLeft (s.slice q) g g.next u).any fun e => rowStopped s q g.shard (entRow e)

/-- The next bag of a command leaves the chain, each gleaner having read what it had still to read of it: its output vector is formed and
delivered. -/
def nextBag (s : State) (q : Nat) (g : GlCmd) : State :=
  let part := partAt s g.p
  let bag := (bagsOf g.pool g.entries).getD g.next []
  let r := bag.foldl (bagEntry q g.shard part g.wen (level1At s g.p)) (heldParts (s.slice q) g.k g.next, s)
  let v := outVector g.pool g.shard.dim bag (chainValue g.shard.dim r.1)
  let s := deliverVector r.2 part g v r.1.bad
  let s := bump s (ctrSlice q 1) 1
  let s := if r.1.bad then bump s (ctrSlice q 10) 1 else s
  if g.next + 1 < (bagsOf g.pool g.entries).length then
    turnUnits (modSlice s q fun x => { x with gl := mapIf (fun y => y.k == g.k) (fun y => { y with next := y.next + 1 }) x.gl }) q
  else
    let s := turnUnits (modSlice s q fun x => { x with gl := x.gl.filter fun y => y.k ≠ g.k }) q
    engineReady (bump s (ctrSlice q 0) 1) g.p g.id

/-- Bytes of an output vector that leave the village of the slice. -/
def outFar (s : State) (q : Nat) (g : GlCmd) : Nat :=
  let n := outPitch g.shard
  if g.dsel then farBytes s (partAt s g.p) (villageOf q) (g.dest + g.next * n) n else if villageOf g.p = villageOf q then 0 else n

/-- The demands of a bag: an activation for each row it has still to read, in the unit of the bucket, and the crossings of its output vector (R214,
R259). -/
def bagDemand (s : State) (q : Nat) (g : GlCmd) : Demand :=
  let n := ((List.range 48).map fun u => (rowsLeft (s.slice q) g g.next u).length).foldl (· + ·) 0
  (if n = 0 then [] else [(8 + q, 6144 * n)]) ++ demandOf 1 (outFar s q g) ++ demandOf 3 (outFar s q g)

/-- CHAIN_VALUE_ARRIVE (R135): the slice controller receives the chain value of the next bag of a command it holds. The bags leave the
chain in the order in which their commands were received (R139). Gleaners that the activation budget holds back wait at a burst
boundary with their partial sums (R140). -/
def execChainValueArrive (p : Fin 512) (k : Nat) (s : State) : Host.Outcome State Fault Refusal :=
  .next (match (s.slice p).gl with
  | [] => s
  | g :: _ =>
    if g.k ≠ k || bagStopped s p g then s
    else
      let part := partAt s g.p
      let s := accrue s part
      let ds := bagDemand s p g
      match shortOf s part ds with
      | some key =>
        modEngine s g.p g.id fun h => { h with gate := some (regOf key), stall := if h.stall.isSome then h.stall else some s.now }
      | none => nextBag (takeTokens s part ds) p g)

/-- A gleaner finishes the row it has begun: the row enters its partial vector of the bag, and it turns to its next (R133, R139). Where its
activation finds too few tokens, or the row cannot be read, it waits at a burst boundary (R140). -/
def finishRow (s : State) (q g : Nat) : State :=
  match nextRow (s.slice q) g with
  | none => s
  | some r =>
    let c := r.cmd
    let k := partAt s c.p
    let ds : Demand := [(8 + q, 6144)]
    let s' := accrue s k
    if (shortOf s' k ds).isSome || rowStopped s q c.shard (entRow r.entry) then s
    else
      let old := ((tget glUnit0 (s.slice q).glUnits g).part? c.k r.bag).getD ⟨c.k, r.bag, 0, List.replicate c.shard.dim 0, false⟩
      let x := rowInto (takeTokens s' k ds) q c.shard k c.wen (level1At s c.p) r.entry old.sum
      turnUnits (modSlice x.2 q fun y =>
        let u := tget glUnit0 y.glUnits g
        { y with glUnits := tset glUnit0 y.glUnits g { u with
            parts := (u.parts.filter fun z => !(z.k == c.k && z.bag == r.bag)) ++ [⟨c.k, r.bag, old.rows + 1, x.1.1, old.bad || x.1.2⟩] } }) q

/-- Whether a gleaner can yield: it has a row begun, and an ordinary access to its pair waits. -/
def canYield (s : State) (q u g : Nat) : Bool :=
  (tget glUnit0 (s.slice q).glUnits g).row.isSome && pairWaits s q u g && !((s.slice q).sub u).stopped

/-- A gleaner yields, at 512 column operations or after 1.5 µs: up to 16 of the accesses queued are served, a write to the row begun
excepted (R144), its count and its time restart, and it finishes its row (R142). -/
def yieldUnit (s : State) (q u g : Nat) : State :=
  let x := tget glUnit0 (s.slice q).glUnits g
  let s := if 512 ≤ x.ops then s else notBefore s (x.since + 1500)
  let s := serveYield q u g 16 (bump s (ctrSlice q 5) 1)
  finishRow (modSlice s q fun y => { y with glUnits := tset glUnit0 y.glUnits g { tget glUnit0 y.glUnits g with ops := 0, since := s.now } }) q g

end Sys2Proof.Machine
end

