-- ==== Sys2Proof/Machine/Sieve.lean ====
section
/-! DEFINITION. The sieve (R98 to R118): contributions, the two round buffers, selection, layout, routing, the deal and the delivery. -/

namespace Sys2Proof.Machine

/-! ### The instruction (R100, R111) -/

def sieveCnt (f : SieveF) : Nat := f.kcnt.toNat
def sieveCap (f : SieveF) : Nat := f.dcap.toNat
/-- P in bytes. -/
def sieveP (f : SieveF) : Nat := 64 * f.plen.toNat

def recRange (f : SieveF) : Range := unitRange f.kadr (16 * sieveCnt f)
def payRange (f : SieveF) : Range := unitRange f.padr (sieveCnt f * sieveP f)

/-- Byte of the first payload slot of the destination area, from its start (R109). -/
def paySlots (f : SieveF) : Nat := 64 + up64 (16 * sieveCap f)
def destRange (f : SieveF) : Range := unitRange f.dadr (paySlots f + sieveCap f * sieveP f)

/-- Checks of one croft's own instruction (R112). -/
def sieveCauses (route : Bool) (f : SieveF) : List Nat :=
  failIf (f.rsv != 0 || decide (4096 < f.topk.toNat ∨ 64 < f.plen.toNat ∨ 32768 < sieveCnt f ∨ 32768 < sieveCap f) ||
    (route && (f.thren || f.lenen || f.topk != 0))) causeReserved ++
  failIf (!(recRange f).inStore || !(payRange f).inStore || !(destRange f).inStore) causeRegion ++
  failIf ((destRange f).overlaps (recRange f) || (destRange f).overlaps (payRange f)) causeOverlap

/-! ### Breaking a round (R112, R113, R115) -/

/-- The round buffers of a slot's rounds become free. -/
def freeBufs (s : State) (k e : Nat) (t : Nat → Bool) : State :=
  (List.range 4).foldl (fun s v =>
    setSieve s v ⟨(s.sieve v).bufs.filter fun b => ¬ (b.1 = k ∧ b.2.1 = e ∧ t b.2.2)⟩) s

/-- The villages of a round's contributions. -/
def roundVillages (r : Round) : List Nat := (List.range 4).filter fun v => r.contribs.any fun x => villageOf x.p == v

/-- ROUND_FAIL counts a round in each sieve that has contributions of it (R118; log entry 74); one that has none yet, in the sieve of
village `v`, whose croft has ended it. -/
def countFail (s : State) (r : Round) (v : Nat) : State :=
  (if r.contribs.isEmpty then [v] else roundVillages r).foldl (fun s v => bump s (ctrSieve v 6) 1) s

/-- A round of a slot has failed: every croft of the RUN that has not stopped, ended ones too, stops with a cause, and the slot's rounds
end without delivery. Every logical croft takes part in every round (R98). `at'` is the round of a croft that failed its own checks, and
its village. DESIGN CHOICE (log entry 92): where they all stop at once, the DETAIL of the request names the lowest logical croft of them. -/
def breakRounds (s : State) (k e cause : Nat) (at' : Option (Nat × Nat)) : State :=
  let cs := (slotCtxs s k e).filter fun c => (s.ctx c).run != .stopped
  let rs := (s.slot k e).rounds
  let s := rs.foldl (fun s r => countFail s r 0) s
  let s := match at' with
    | some (i, v) => if rs.any fun r => r.idx == i then s else countFail s ⟨i, 0, [], false, [], false, 0, 0, none, none⟩ v
    | none => s
  let s := cs.foldl (fun s c =>
    let idx := match (s.croft c.p).engines.find? fun g => g.e == e && g.kind == .sieve with
      | some g => BitVec.ofNat 32 g.idx
      | none => posOf s c
    let lc := (s.ctx c).lc
    failReq (stopCtx s c cause idx) k e 0x0008 (faultDetail cause lc idx)) s
  modSlot (freeBufs s k e fun _ => true) k e fun x => { x with rounds := [] }

/-! ### Contributions (R98, R114) -/

def recsAt (s : State) (p lo n : Nat) : List (BitVec 128) :=
  (List.range n).map fun i => BitVec.ofNat 128 (leNat (lsRead s p (lo + 16 * i) 16))

/-- Whether the sieve of a village can take a contribution to a round: it holds the round's buffer, or has one free. -/
def canContribute (s : State) (v k e idx : Nat) : Bool := (s.sieve v).bufs.contains (k, e, idx) || decide ((s.sieve v).bufs.length < 2)

/-- Put a contribution into its round of `n` crofts, opening the round with its first. -/
def addContrib (now idx n : Nat) (x : Contrib) (rs : List Round) : List Round :=
  let full := fun m => if m = n then some now else none
  if rs.any fun r => r.idx == idx then
    mapIf (fun r => r.idx == idx) (fun r => { r with contribs := r.contribs ++ [x], doneAt := full (r.contribs.length + 1) }) rs
  else rs ++ [⟨idx, now, [x], false, [], false, 0, 0, full 1, none⟩]

/-- The contribution of a croft reaches its sieve; a poisoned record or payload stops the croft with 0x07 and the others of the
round with 0x0E (R113). -/
def contribute (s : State) (c : CtxId) (id : Nat) (route : Bool) (f : SieveF) (param : Word) (idx : Nat) : State :=
  let k := partAt s c.p
  let v := villageOf c.p
  let rr : Range := ⟨relocLo s c (recRange f), (recRange f).len⟩
  let pr : Range := ⟨relocLo s c (payRange f), (payRange f).len⟩
  let s := lsScan s c.p [rr, pr]
  if poisonedIn s c.p rr || poisonedIn s c.p pr then
    breakRounds (failPoison s c [rr, pr] (engIdx s c id)) k c.e 0x0E (some (idx, v))
  else
    let x : Contrib := ⟨(s.ctx c).lc, c.p, id, route, f, param, recsAt s c.p rr.lo (sieveCnt f), lsRead s c.p pr.lo pr.len, []⟩
    let s := if (s.sieve v).bufs.contains (k, c.e.val, idx) then s else setSieve s v ⟨(s.sieve v).bufs ++ [(k, c.e.val, idx)]⟩
    let s := bump s (ctrSieve v 1) (sieveCnt f)
    modSlot s k c.e fun y => { y with rounds := addContrib s.now idx (reqN s k c.e) x y.rounds }

/-- Whether an earlier SIEVE of the context still waits to contribute. -/
def sieveStalled (s : State) (c : CtxId) : List Engine :=
  (s.croft c.p).engines.filter fun g => g.e == c.e.val && g.kind == .sieve && g.stall.isSome

/-- The plan of a SIEVE. -/
def sievePlan (s : State) (c : CtxId) (route : Bool) (f : SieveF) : Plan where
  causes := sieveCauses route f
  gather := false
  reads := [recRange f, payRange f]
  writes := [destRange f]
  engine := some .sieve
  flag := flagOf f.flag f.flagen
  base := ((s.ctx c).reg f.sr.toNat).toNat

/-- The contribution of a SIEVE that has entered its engine: at once, or it waits there for a round buffer. -/
def startSieve (s : State) (c : CtxId) (id : Nat) (route : Bool) (f : SieveF) : State :=
  let idx := (s.ctx c).rounds
  let s := modCtx s c fun x => { x with rounds := x.rounds + 1 }
  if (sieveStalled s c).isEmpty && canContribute s (villageOf c.p) (partAt s c.p) c.e idx then
    contribute s c id route f ((s.ctx c).reg f.sr.toNat) idx
  else modEngine s c.p id fun g => { g with stall := some s.now }

/-- A croft has failed the checks of its own SIEVE, before it contributed to the round it would be of: the others of it stop with 0x0E
(R112). -/
def sieveFailed (s : State) (c : CtxId) : State := breakRounds s (partAt s c.p) c.e 0x0E (some ((s.ctx c).rounds, villageOf c.p))

/-- Whether a context that ran has stopped before it took part in a further round. -/
def stoppedAtIssue (s s' : State) (c : CtxId) : Bool :=
  (s.ctx c).run == .running && (s'.ctx c).run == .stopped && (s'.ctx c).rounds == (s.ctx c).rounds

/-- Issue a SIEVE; with both round buffers held by other rounds its contribution waits in the engine. -/
def issueSieve (s : State) (c : CtxId) (i : Instr) (route : Bool) (f : SieveF) : State :=
  let s' := issue s c i (sievePlan s c route f) (fun id s => startSieve s c id route f) true
  if stoppedAtIssue s s' c then sieveFailed s' c else s'

def execSieveSelect (c : CtxId) (f : SieveF) (s : State) : Host.Outcome State Fault Refusal :=
  .next (issueSieve s c (.sieveSelect c f) false f)

def execSieveRoute (c : CtxId) (f : SieveF) (s : State) : Host.Outcome State Fault Refusal :=
  .next (issueSieve s c (.sieveRoute c f) true f)

/-- The fields of a SIEVE that waits in its engine. -/
def sieveOf : Instr → Option (SieveF × Bool)
  | .sieveSelect _ f => some (f, false)
  | .sieveRoute _ f => some (f, true)
  | _ => none

/-- SIEVE_BUFFER_FREE (R114): the oldest waiting contribution of a context proceeds when a round buffer frees. The wait is counted
(R118). -/
def execSieveBufferFree (c : CtxId) (s : State) : Host.Outcome State Fault Refusal :=
  .next (match sieveStalled s c with
  | [] => s
  | g :: gs =>
    match sieveOf g.instr with
    | none => s
    | some (f, route) =>
      let idx := (s.ctx c).rounds - (gs.length + 1)
      if canContribute s (villageOf c.p) (partAt s c.p) c.e idx then
        contribute (modEngine (endStall s c.p g) c.p g.id fun h => { h with stall := none }) c g.id route f (BitVec.ofNat 64 g.base) idx
      else s)

/-! ### Records (R99, R102) -/

def recScore (r : BitVec 128) : BitVec 32 := r.extractLsb' 0 32
def recTag (r : BitVec 128) : Nat := (r.extractLsb' 32 32).toNat
def recGrp (r : BitVec 128) : Nat := (r.extractLsb' 64 16).toNat
def recLen (r : BitVec 128) : Nat := (r.extractLsb' 80 16).toNat
def recSlot (r : BitVec 128) : Nat := (r.extractLsb' 96 16).toNat
def recChoice (r : BitVec 128) : Nat := (r.extractLsb' 112 8).toNat
def recPass (r : BitVec 128) : Nat := (r.extractLsb' 120 8).toNat

def isNan32 (b : BitVec 32) : Bool := fmt32.isNan b.toNat

/-- A number that orders FP32 values that are not NaN, −0 with +0. -/
def scoreKey (b : BitVec 32) : Int := if b.getLsbD 31 then -((b.toNat % 2 ^ 31 : Nat) : Int) else (b.toNat : Int)

/-- A record with the contribution it came from. -/
structure Cand where
  r : BitVec 128
  x : Nat            -- place of the contribution in the round's list
deriving DecidableEq, Repr

/-- Rank order (R102): falling score, then rising tag. -/
def rankSort (l : List Cand) : List Cand :=
  sortBy (fun a => ((2 ^ 32 : Int) - scoreKey (recScore a.r)).toNat) (sortBy (fun a => recTag a.r) l)

/-- The records of a round. -/
def roundCands (cs : List Contrib) : List Cand := (cs.zipIdx).flatMap fun x => x.1.recs.map fun r => ⟨r, x.2⟩

/-! ### Round parameters and checks (R101, R112) -/

def parThr (p : BitVec 64) : BitVec 32 := p.extractLsb' 0 32
def parE (p : BitVec 64) : Nat := (p.extractLsb' 0 6).toNat + 1
def parCf (p : BitVec 64) : Nat := (p.extractLsb' 16 7).toNat

/-- The bits of the parameter that R101 compares. -/
def usedBits (route : Bool) (f : SieveF) (p : BitVec 64) : Nat :=
  if route then parE p + 64 * parCf p else if f.thren then (parThr p).toNat else 0

/-- Cause 0x0A (R101). -/
def roundMismatch (cs : List Contrib) : Bool :=
  match cs with
  | [] => false
  | a :: _ => cs.any fun b => b.route != a.route || b.f.thren != a.f.thren || b.f.lenen != a.f.lenen || b.f.topk != a.f.topk ||
      b.f.plen != a.f.plen || b.f.dcap != a.f.dcap || usedBits b.route b.f b.param != usedBits a.route a.f a.param

/-- Whether two of a list of numbers are equal. -/
def hasRepeat (l : List Nat) : Bool :=
  let t := sortBy id l
  (List.zipWith (fun a b => a == b) t (t.drop 1)).any id

/-- Cause 0x0B: too many records, or a repeated TAG or TAG and CHOICE. -/
def roundTooMany (route : Bool) (l : List Cand) : Bool :=
  decide (32768 < l.length) || hasRepeat (l.map fun a => if route then 256 * recTag a.r + recChoice a.r else recTag a.r)

/-- Cause 0x0D. -/
def roundInvalid (a : Contrib) (n : Nat) (cs : List Contrib) : Bool :=
  (a.route && decide (n < parE a.param ∨ parCf a.param < 16)) ||
  cs.any fun b => b.recs.any fun r =>
    (a.f.lenen && decide (recLen r < 1 ∨ 512 < recLen r)) || (a.route && decide (parE a.param ≤ recGrp r ∨ 1 < recChoice r)) ||
    (a.f.plen != 0 && decide (sieveCnt b.f ≤ recSlot r)) || recPass r != 0

/-! ### Selection, layout and routing (R103 to R108) -/

/-- What a round decides: its accepted records as (logical croft, pass, record) in dealing order, and its report. -/
structure Deal where
  dealt  : List (Nat × Nat × Cand)
  passes : Nat
  path   : Nat
  waste  : Nat
  nans   : Nat
  drop   : Nat
  thrs   : Nat
deriving DecidableEq, Repr

/-- Survivors of steps 1 to 3 of R103, with the count of NaN records and of those that pass step 2. -/
def survivors (f : SieveF) (param : BitVec 64) (l : List Cand) : List Cand × Nat × Nat :=
  let num := l.filter fun a => !isNan32 (recScore a.r)
  let thr := if f.thren then num.filter fun a => !isNan32 (parThr param) && decide (scoreKey (parThr param) ≤ scoreKey (recScore a.r))
    else num
  let ranked := rankSort thr
  (if f.topk = 0 then ranked else ranked.take f.topk.toNat, l.length - num.length, thr.length)

/-- Deal positions `q` to crofts q mod n, with the pass that `pass` gives (R104). -/
def dealOut (n : Nat) (pass : Nat → Nat) (l : List Cand) : List (Nat × Nat × Cand) :=
  (l.zipIdx).map fun x => (x.2 % n, pass x.2, x.1)

/-- Largest LEN among records. -/
def maxLen (l : List Cand) : Nat := l.foldl (fun m a => max m (recLen a.r)) 0

/-- Padded length of the main path: members times the longest, over the crofts' groups (R105). -/
def paddedLen (n : Nat) (d : List (Nat × Nat × Cand)) : Nat :=
  ((List.range n).map fun i =>
    let g := (d.filter fun x => x.1 = i).map (·.2.2)
    g.length * maxLen g).foldl (· + ·) 0

/-- The pass of position q when s positions are cut into b buckets (R106). -/
def bucketOf (s b q : Nat) : Nat := ((List.range b).find? fun j => decide (q < (j + 1) * s / b)).getD 0

/-- The deal of a SELECT round (R103 to R106). -/
def selectDeal (f : SieveF) (param : BitVec 64) (n : Nat) (l : List Cand) : Deal :=
  let r := survivors f param l
  let sv := r.1
  let main := dealOut n (fun _ => 0) sv
  if f.lenen then
    let used := (sv.map fun a => recLen a.r).foldl (· + ·) 0
    let padded := paddedLen n main
    let waste := if padded = 0 then 0 else 1024 * (padded - used) / padded
    if 4 * used < 3 * padded then
      let b := min 8 (cdiv sv.length n)
      ⟨dealOut n (bucketOf sv.length b) (sortBy (fun a => recLen a.r) sv), b, 1, waste, r.2.1, 0, r.2.2⟩
    else ⟨main, 1, 0, waste, r.2.1, 0, r.2.2⟩
  else ⟨main, 1, 2, 0, r.2.1, 0, r.2.2⟩

/-- Routes of one choice and expert: the first `c − taken` in rank order are accepted. -/
def acceptRoutes (c taken : Nat) (l : List Cand) : List Cand := (rankSort l).take (c - taken)

/-- The deal of a ROUTE round (R107, R108): an expert's accepted routes, first choices before second ones, go round its crofts. -/
def routeDeal (param : BitVec 64) (n : Nat) (l : List Cand) : Deal :=
  let e := parE param
  let num := l.filter fun a => !isNan32 (recScore a.r)
  let cap := cdiv (parCf param * num.length) (16 * e)
  let g := n / e
  let perX := fun x =>
    let of := fun ch => num.filter fun a => recChoice a.r = ch ∧ recGrp a.r = x
    let first := acceptRoutes cap 0 (of 0)
    let second := acceptRoutes cap first.length (of 1)
    ((first ++ second).zipIdx).map fun y => (x * g + y.2 % g, 0, y.1)
  let d := (List.range e).flatMap perX
  ⟨d, 1, 2, 0, l.length - num.length, num.length - d.length, num.length⟩

/-! ### Delivery (R109) -/

/-- A delivered record: SLOT and PASS replaced. -/
def sentRec (r : BitVec 128) (slot pass : Nat) : List Byte :=
  let b := leBytes 16 r.toNat
  b.take 12 ++ leBytes 2 slot ++ (b.drop 14).take 1 ++ leBytes 1 pass

/-- The header of a croft's destination area. -/
def sieveHeader (d : Deal) (total : Nat) (mine : List (Nat × Cand)) : List Byte :=
  let inPass := fun j => (mine.filter fun x => x.1 = j).map (·.2)
  leBytes 2 mine.length ++ leBytes 2 d.passes ++ leBytes 4 d.dealt.length ++ leBytes 4 total ++ leBytes 2 (min d.nans 65535) ++
  leBytes 1 d.path ++ leBytes 1 0 ++ leBytes 2 d.waste ++ leBytes 2 (min d.drop 65535) ++
  (List.range 8).flatMap (fun j => leBytes 2 (if d.path = 2 then 0 else maxLen (inPass j))) ++
  (List.range 8).flatMap (fun j => leBytes 2 (inPass j).length) ++ leBytes 4 d.thrs ++ leBytes 8 0

/-- What one croft receives. -/
def deliveryOf (s : State) (e : Nat) (d : Deal) (cs : List Contrib) (total : Nat) (x : Contrib) : Delivery :=
  let mine := (d.dealt.filter fun y => y.1 = x.lc).map (·.2)
  let base := relocLo s (mkCtx x.p e) (destRange x.f)
  let recs := (mine.zipIdx).flatMap fun y => sentRec y.1.2.r y.2 y.1.1
  let pays := mine.flatMap fun y =>
    match cs[y.2.x]? with
    | some src => (src.payload.drop (recSlot y.2.r * sieveP x.f)).take (sieveP x.f)
    | none => []
  ⟨x.p, x.id, [(base, sieveHeader d total mine), (base + 64, recs), (base + paySlots x.f, pays)]⟩

/-! ### The steps of a round -/

/-- The lead sieve of a partition: that of its lowest-numbered village (R98). -/
def leadOf (s : State) (k : Nat) : Nat :=
  ((List.range 4).find? fun v => (List.range 4).any fun h => (pentMask (s.pent k)).getLsbD (4 * v + h)).getD 0

/-- The villages whose sieves take part in a round of partition `k`: the lead, and those with contributions. -/
def roundSieves (s : State) (k : Nat) (r : Round) : List Nat :=
  (List.range 4).filter fun v => v == leadOf s k || (roundVillages r).contains v

/-- Whether a running round of any slot uses a village's sieve: each sieve executes one round at a time (R114). -/
def sieveBusy (s : State) (vs : List Nat) : Bool :=
  s.parts.any fun kp => [kp.2.s0, kp.2.s1].any fun y => y.rounds.any fun r => r.running && (roundSieves s kp.1 r).any vs.contains

/-- Change the round of an index. -/
def modRound (s : State) (k e idx : Nat) (f : Round → Round) : State :=
  modSlot s k e fun y => { y with rounds := mapIf (fun r => r.idx == idx) f y.rounds }

/-- A round's whole-round checks fail: every croft of it records the cause (R112). -/
def failRound (s : State) (k e cause : Nat) : State := breakRounds s k e cause none

/-- Whether a complete round of another slot comes first in a sieve that two rounds share: its contributions completed earlier, or in the
same cycle in a partition of lower number (R114). DESIGN CHOICE (log entry 90): of two of one partition that complete in one cycle, that of slot
0 comes first. -/
def comesFirst (s : State) (k e t : Nat) (vs : List Nat) : Bool :=
  s.parts.any fun kp => [(0, kp.2.s0), (1, kp.2.s1)].any fun y => (kp.1 != k || y.1 != e) && y.2.rounds.any fun r =>
    !r.running && (roundSieves s kp.1 r).any vs.contains && (r.doneAt.map fun d => decide (d < t ∨ (d = t ∧ 2 * kp.1 + y.1 < 2 * k + e))).getD false

/-- The errors that the sieve finds in the records of a round as it reads them: each is counted for the square (R384). -/
def scanRecords (s : State) (cs : List Contrib) : State :=
  (cs.flatMap (·.err)).foldl (fun s e => match e.2 with
    | .sound => s
    | .single => otherError s none false .sieve (8 * e.1)
    | .double => otherError s none true .sieve (8 * e.1)) s

/-- Whether a word of a round's record buffers cannot be corrected (R113). -/
def recordsLost (cs : List Contrib) : Bool := cs.any fun x => x.err.any fun e => e.2 == .double

/-- Whether the deal of a round is defined, so that DCAP can be held against it: the experts and the routes of a ROUTE are valid. -/
def dealable (a : Contrib) (n : Nat) (cs : List Contrib) : Bool :=
  !a.route || (decide (parE a.param ≤ n ∧ 16 ≤ parCf a.param) &&
    cs.all fun b => b.recs.all fun r => decide (recGrp r < parE a.param ∧ recChoice r ≤ 1))

/-- The lowest cause of a round whose contributions are in (R112, R113). -/
def roundCause (a : Contrib) (n : Nat) (cs : List Contrib) (l : List Cand) (d : Deal) : Option Nat :=
  lowest (failIf (recordsLost cs) causePoison ++ failIf (roundMismatch cs) 0x0A ++ failIf (roundTooMany a.route l) 0x0B ++
    failIf (!roundMismatch cs && dealable a n cs &&
      (List.range n).any fun i => decide (sieveCap a.f < (d.dealt.filter fun y => y.1 = i).length)) 0x0C ++
    failIf (roundInvalid a n cs) 0x0D)

/-- Die-to-die tokens of a round that spans villages (R259): each sieve's remaining records go to the lead, and the records and payloads
dealt go to the villages of their crofts. -/
def sieveDemand (lead : Nat) (a : Contrib) (cs : List Contrib) (l : List Cand) (d : Deal) (vs : List Nat) : Demand :=
  let home := fun x : Nat => villageOf ((cs[x]?.map (·.p)).getD 0)
  let left := fun v => (survivors { a.f with topk := 0 } a.param (l.filter fun y => home y.x == v)).1.length
  let kept := fun v => if a.f.topk = 0 then left v else min a.f.topk.toNat (left v)
  let merge := 16 * ((vs.filter (· ≠ lead)).map kept).foldl (· + ·) 0
  let dest := fun lc : Nat => villageOf (((cs.find? fun b => b.lc == lc).map (·.p)).getD 0)
  let deal := (d.dealt.map fun y => (if dest y.1 = lead then 0 else 16) +
    (if dest y.1 = home y.2.2.x then 0 else sieveP a.f)).foldl (· + ·) 0
  if vs.length ≤ 1 then [] else demandOf 1 (merge + deal) ++ demandOf 3 (merge + deal)

/-- SIEVE_ROUND_START (R98): the slot's oldest round has all its contributions and its turn; it is checked, and executed once it has its
tokens (R214). A round that spans villages is counted in each of its sieves, and what the lead alone decides in the lead's (R118; log entry 74). -/
def execSieveRoundStart (part : Fin 8) (e : Fin 2) (s : State) : Host.Outcome State Fault Refusal :=
  let n := reqN s part e
  .next (match (s.slot part e).rounds.find? fun r => !r.running with
  | none => s
  | some r =>
    let vs := roundSieves s part r
    if r.contribs.length != n || sieveBusy s vs || comesFirst s part e (r.doneAt.getD r.first) vs then s
    else
      let cs := sortBy (·.lc) r.contribs
      match cs with
      | [] => s
      | a :: _ =>
        let l := roundCands cs
        let s := scanRecords s cs
        let d := if a.route then routeDeal a.param n l else selectDeal a.f a.param n l
        match roundCause a n cs l d with
        | some cause => failRound s part e cause
        | none =>
          let lead := leadOf s part
          match enterRegs s part (sieveDemand lead a cs l d vs) r.shortAt with
          | none => modRound s part e r.idx fun r => { r with shortAt := some (r.shortAt.getD s.now) }
          | some s =>
          let s := vs.foldl (fun s v => bump s (ctrSieve v 0) 1) s
          let s := vs.foldl (fun s v => bump s (ctrSieve v 2)
            ((l.filter fun y => isNan32 (recScore y.r) && villageOf ((cs[y.x]?.map (·.p)).getD 0) == v).length)) s
          let s := if d.path = 1 then bump s (ctrSieve lead 3) 1 else s
          let s := bump s (ctrSieve lead 4) d.drop
          let dl := cs.map (deliveryOf s e d cs l.length)
          modRound s part e r.idx fun r => { r with
            running := true, deliver := dl, fallback := d.path == 1, waste := d.waste, drop := d.drop })

/-- SIEVE_ROUND_DONE (R111): the destination areas are complete, the SIEVE instructions retire, and the round's buffers free. The
request's summary takes in the round (R110). -/
def execSieveRoundDone (part : Fin 8) (e : Fin 2) (s : State) : Host.Outcome State Fault Refusal :=
  .next (match (s.slot part e).rounds.find? fun r => r.running with
  | none => s
  | some r =>
    let s := r.deliver.foldl (fun s d =>
      let s := d.parts.foldl (fun s x => lsStore s d.p x.1 x.2) s
      retireEngine s (mkCtx d.p e) d.id) s
    let s := freeBufs s part e fun i => i == r.idx
    modSlot s part e fun y => { y with
      rounds := y.rounds.filter fun q => q.idx ≠ r.idx
      req := y.req.map fun q => { q with
        fallback := q.fallback || r.fallback, waste := max q.waste r.waste, drop := q.drop + r.drop } })

/-- SIEVE_ROUND_TIMEOUT (R112): the slot's oldest round is incomplete 10 ms after its first contribution. -/
def execSieveRoundTimeout (part : Fin 8) (e : Fin 2) (s : State) : Host.Outcome State Fault Refusal :=
  .next (match (s.slot part e).rounds.find? fun r => !r.running with
  | none => s
  | some r =>
    if reqN s part e ≤ r.contribs.length then s
    else failRound (notBefore s (r.first + 10000000)) part e 0x0E)

end Sys2Proof.Machine
end

