-- ==== Sys2Proof/Machine/Finish.lean ====
section
/-! DEFINITION. Completion records (R313, R319 to R321, R348, R349, R523) and the endings of requests and commands (R63, R115, R151,
R269, R282, R342). -/

namespace Sys2Proof.Machine

/-! ### Status codes (R321) -/

def stAborted : Nat := 0x0001
def stTimeLimit : Nat := 0x0002
def stReserved : Nat := 0x0003
def stBadPart : Nat := 0x0004
def stConflict : Nat := 0x0005
def stCapacity : Nat := 0x0006
def stImage : Nat := 0x0007
def stCroftFault : Nat := 0x0008
def stPoison : Nat := 0x0009
def stHostAccess : Nat := 0x000A
def stBadSession : Nat := 0x000B
def stSessLength : Nat := 0x000C
def stBadTable : Nat := 0x000D
def stUnitLost : Nat := 0x000E
def stReeve : Nat := 0x000F
def stThermal : Nat := 0x0010
def stDiverge : Nat := 0x0011
def stTwinFailed : Nat := 0x0012
def stLockLost : Nat := 0x0013
def stLockState : Nat := 0x0014
def stSignature : Nat := 0x0015

/-! ### The queue entry (R308) -/

def qEn (x : Queue) : Bool := x.base.use.en
def qSqDev (x : Queue) : Bool := x.cfg.getLsbD 1
def qCqDev (x : Queue) : Bool := x.cfg.getLsbD 2
def qSqSize (x : Queue) : Nat := 2 ^ ((x.cfg.extractLsb' 8 4).toNat + 4)
def qCqSize (x : Queue) : Nat := 2 ^ ((x.cfg.extractLsb' 12 4).toNat + 4)
def qMask (x : Queue) : BitVec 8 := x.cfg.extractLsb' 16 8
def qVec (x : Queue) : Nat := (x.cfg.extractLsb' 24 11).toNat
def qIen (x : Queue) : Bool := x.cfg.getLsbD 35
def qCoalCnt (x : Queue) : Nat := (x.cfg.extractLsb' 40 8).toNat
def qCoalUs (x : Queue) : Nat := (x.cfg.extractLsb' 48 8).toNat

/-- Contract level 1 of a pair: that of the partitions of its PMASK (R347). -/
def qLevel1 (s : State) (x : Queue) : Bool :=
  (List.range 8).any fun k => (qMask x).getLsbD k && pentValid (s.pent k) && pentLevel (s.pent k)

/-- Bytes of a completion record of a pair (R319, R348). -/
def recLenOf (s : State) (x : Queue) : Nat := if qLevel1 s x then 16 else 32

/-! ### Commands -/

def cmdBy (s : State) (cid : Nat) : Option Cmd := s.cmds.find? fun c => c.id == cid

def modCmd (s : State) (cid : Nat) (f : Cmd → Cmd) : State := { s with cmds := mapIf (fun c => c.id == cid) f s.cmds }

/-- Opcode of a packet (R314). -/
def pktOp (p : BitVec 512) : Nat := (p.extractLsb' 8 8).toNat * 256 + (p.extractLsb' 0 8).toNat
def pktFlags (p : BitVec 512) : BitVec 16 := p.extractLsb' 16 16
def pktSeq (p : BitVec 512) : BitVec 32 := p.extractLsb' 32 32
def pktPart (p : BitVec 512) : Nat := (p.extractLsb' 64 3).toNat
def pktSession (p : BitVec 512) : Nat := (p.extractLsb' 80 14).toNat
/-- The number in `n` bytes at a byte offset. -/
def pktField (p : BitVec 512) (off n : Nat) : Nat := bitsOf p.toNat (8 * off) (8 * n)

def pktSess (p : BitVec 512) : Bool := (pktFlags p).getLsbD 0
def pktNoIrq (p : BitVec 512) : Bool := (pktFlags p).getLsbD 1
def pktOrder (p : BitVec 512) : Bool := (pktFlags p).getLsbD 2

/-- Scope of an opcode: a partition command (R317). -/
def isPartOp (op : Nat) : Bool := op == 0x0101 || op == 0x0102 || op == 0x0201 || op == 0x0202 || op == 0x0203 || op == 0x0301 ||
  op == 0x0302 || op == 0x0303

def isRunOp (op : Nat) : Bool := op == 0x0101 || op == 0x0102

/-- Whether a command names a session slot. -/
def cmdSlot (c : Cmd) : Option Nat :=
  let op := pktOp c.pkt
  if (isRunOp op && pktSess c.pkt) || op == 0x0301 || op == 0x0302 || op == 0x0303 then some (pktSession c.pkt) else none

/-! ### Writing records -/

/-- The 32 B record of R319 without its phase. -/
def recBits (s : State) (x : Queue) (r : CRec) : BitVec 256 :=
  BitVec.ofNat 256 (leNat (leBytes 4 r.seq.toNat ++ leBytes 2 r.status.toNat ++ leBytes 2 x.sqhead ++ leBytes 8 s.dev.time ++
    leBytes 8 r.detail.toNat ++ leBytes 1 (r.sat.toNat + 2 * r.fallback.toNat) ++ leBytes 1 0 ++ leBytes 2 r.waste ++
    leBytes 2 (min r.drop 65535) ++ leBytes 2 (min r.ord 65535)))

/-- The bytes written at CQTAIL, with the ring's phase (R313, R348). -/
def recWrite (s : State) (x : Queue) (r : CRec) : List Byte :=
  let b := (recBits s x r).toNat
  if qLevel1 s x then leBytes 8 b ++ leBytes 8 (s.dev.time % 2 ^ 63 + x.phase.toNat * 2 ^ 63)
  else leBytes 32 (b + x.phase.toNat * 2 ^ 199)

/-- Entries of the completion ring not consumed, and those reserved for commands fetched and not completed (R312). -/
def cqUsed (x : Queue) : Nat := (x.cqtail + qCqSize x - x.cqhead) % qCqSize x

/-- MSI-X of a pair after a record (R349). -/
def signal (s : State) (q : Nat) (r : CRec) : State :=
  let x := s.queue q
  if r.status ≠ 0 then
    let s := modQueue s q fun x => { x with unsig := 0 }
    if qIen x then sendMsix s (qVec x) else s
  else if r.noirq then s
  else
    let n := x.unsig + 1
    if qCoalCnt x + 1 ≤ n then
      let s := modQueue s q fun x => { x with unsig := 0 }
      if qIen x then sendMsix s (qVec x) else s
    else modQueue s q fun x => { x with unsig := n, unsigAt := if x.unsig = 0 then s.now else x.unsigAt }

/-- The wait of a pair for a completion entry ends: Q_CQ_STALL adds it (R353). -/
def endCqStall (s : State) (q : Nat) : State :=
  match (s.queue q).stallAt with
  | some t => bump (modQueue s q fun x => { x with stallAt := none }) (ctrQueue q 1) (s.now - t)
  | none => s

/-! ### Commits until their record is written (R168 to R171, R345) -/

/-- A commit stands: the ring spare of a slide is zeroed (R169). -/
def settleCommit (s : State) (c : Cmd) : State :=
  match c.undo with
  | none => s
  | some (i, x) =>
    let s := modCmd s c.id fun d => { d with undo := none }
    if sessOpen (s.ses i) = true ∧ (s.ses i).first ≠ x.first then zeroSlot s x.part.toNat x x.first.toNat 0 64 else s

/-- A commit is undone: the slot's FIRST, LEN and COMMITS are those before it (R170, R345). -/
def undoCommit (s : State) (c : Cmd) : State :=
  match c.undo with
  | none => s
  | some (i, x) =>
    let y := s.ses i
    let s := unbump (modCmd s c.id fun d => { d with undo := none }) (ctrSquare 1) 1
    let s := if y.first ≠ x.first then unbump s (ctrSquare 2) 1 else s
    setSes s i { y with first := x.first, len := x.len, commits := x.commits }

/-- A command commits a length to a slot. -/
def commitFor (s : State) (cid i newlen l0 a : Nat) (k : Commit) : State :=
  let x := s.ses i
  let s := commitTo s i newlen l0 a k
  if k = .plain ∨ k = .slide then modCmd s cid fun c => { c with undo := some (i, x) } else s

/-- A command fetched before another that names its session slot has not completed (R167). -/
def slotPending (s : State) (cid i : Nat) : Bool := s.cmds.any fun d => decide (d.id < cid) && cmdSlot d == some i

/-- The wait of a SESSION_APPEND for its slot is over: SESS_WAIT adds it (R185). -/
def endCmdWait (s : State) (c : Cmd) : State :=
  if c.waits && c.stage == .checked && ((cmdSlot c).map fun i => !slotPending s c.id i).getD false then
    bump (modCmd s c.id fun d => { d with waits := false }) (ctrSquare 5) (s.now - c.fetched)
  else s

/-- The wait of a request in a slot for its session is over: SESS_WAIT adds it (R185). -/
def endReqWait (s : State) (k e : Nat) : State :=
  match (s.slot k e).req with
  | none => s
  | some q =>
    if q.waits && (((cmdBy s q.cid).bind cmdSlot).map fun i => !slotPending s q.cid i).getD false then
      bump (modSlot s k e fun x => { x with req := some { q with waits := false } }) (ctrSquare 5) (s.now - q.at0)
    else s

/-- Commands are done with: those that waited for their sessions wait no more. -/
def removeCmds (s : State) (t : Cmd → Bool) : State :=
  let s := { s with cmds := s.cmds.filter fun c => !t c, brought := s.brought.filter fun b => !(s.cmds.any fun c => t c && b.who == Asker.command c.id) }
  let s := s.cmds.foldl endCmdWait s
  (List.range 8).foldl (fun s k => endReqWait (endReqWait s k 0) k 1) s

/-- The pair stops when EN was written 0 and no command or record of it remains (R309). -/
def closeIfDone (s : State) (q : Nat) : State :=
  if (s.queue q).closing && !(s.cmds.any fun c => c.q == q) && (s.queue q).hold.isEmpty then
    modQueue s q fun x => { x with base := Tri.same { x.base.use with en := false }, closing := false, faulted := false }
  else s

/-- The records that were held when the link returned are written, but those of faulted pairs: LINK_DOWN is raised with the outage, and
fetching resumes (R467). -/
def flushBack (s : State) : State :=
  match s.link.back with
  | none => s
  | some (t, n, cids) =>
    if s.cmds.any fun c => cids.contains c.id && !(s.queue c.q).faulted then s
    else raise { s with link := { s.link with back := none } } 0x0402 2 [(16, 8, t), (24, 2, n)]

/-- The record at the head of a pair's list has been written. -/
def recWritten (s : State) (q : Nat) : State :=
  let x := s.queue q
  match x.hold with
  | [] => s
  | r :: rest =>
    let t := (x.cqtail + 1) % qCqSize x
    let s := modQueue s q fun y => { y with
      hold := rest, sent := false, cqtail := t, phase := if t = 0 then !y.phase else y.phase
      last := recBits s x r + BitVec.ofNat 256 (x.phase.toNat * 2 ^ 199) }
    let s := match cmdBy s r.cid with
      | some c => settleCommit s c
      | none => s
    let s := removeCmds s fun c => c.id == r.cid
    let s := if r.status = 1 ∨ r.status = 2 then bump s (ctrQueue q 2) 1 else s
    flushBack (closeIfDone (signal s q r) q)

/-- The held records of a pair are discarded, and their commands are done with (R523). -/
def discardHeld (s : State) (q : Nat) : State :=
  let gone := (s.queue q).hold.map (·.cid)
  let s := (s.cmds.filter fun c => gone.contains c.id).foldl settleCommit s
  removeCmds (modQueue s q fun x => { x with hold := [], sent := false }) fun c => gone.contains c.id

/-- A completion record write fails: the pair is faulted; once EN has been written 0 its held records are discarded (R523). -/
def recFailed (s : State) (q : Nat) : State :=
  let s := raise (modQueue s q fun x => { x with faulted := true, sent := false }) 0x000B 1 [(16, 2, q), (18, 1, 3)]
  flushBack (if (s.queue q).closing then closeIfDone (discardHeld s q) q else s)

/-- Whether a record of the pair is on its way to the host. -/
def recBusy (s : State) (q : Nat) : Bool := s.link.reqs.any fun r => r.why == .record q

/-- Write a pair's records in order, one at a time: one for device memory is written when it is stored there (R219, R471). None is
written while the entry after the one to write is the consumer's head, or while the link is down (R467). -/
def cqPump (q : Nat) : Nat → State → State
  | 0, s => s
  | f + 1, s =>
    let x := s.queue q
    match x.hold with
    | [] => s
    | r :: _ =>
      if x.faulted || recBusy s q || (x.sent && owed s (.record q)) || linkHeld s then s
      else if x.sent then cqPump q f (recWritten s q)
      else if (x.cqtail + 1) % qCqSize x == x.cqhead then s
      else
        let n := recLenOf s x
        let a := x.base.use.cqbase.toNat + n * x.cqtail
        if qCqDev x then
          match devAddr s a with
          | .error _ => recFailed s q
          | .ok w =>
            match locate s w.p w.idx w.off with
            | .error _ => recFailed s q
            | .ok _ => cqPump q f (writeSlice (modQueue s q fun y => { y with sent := true }) w.p w.idx w.off (recWrite s x r) false .reeve (.record q))
        else hostAccess s false a true n (recWrite s x r) false (.record q)

def pump (s : State) (q : Nat) : State := cqPump q (2 * (s.queue q).hold.length + 1) (voteQueue s q)

/-- Records that waited for device memory, and the events, go on where their writes are now stored (R219, R471). -/
def pumpAll (s : State) : State :=
  let s := (s.queues.filter fun e => e.2.sent).foldl (fun s e => pump s e.1) s
  if s.dev.evSent then evPump (2 * s.dev.evq.length + 1) s else s

/-- The host has answered a record write (R320, R523). -/
def recAnswered (s : State) (q : Nat) (ok : Bool) : State := if ok then pump (recWritten s q) q else recFailed s q

/-- The record a command completes with, for one that is no RUN. -/
def plainRec (c : Cmd) (status : Nat) (detail : Nat) : CRec :=
  ⟨c.id, pktSeq c.pkt, BitVec.ofNat 16 status, BitVec.ofNat 64 detail, false, false, 0, 0, 0, pktNoIrq c.pkt⟩

/-- A command leaves the admission orders. -/
def leaveOrder (s : State) (cid : Nat) : State :=
  (List.range 8).foldl (fun s k =>
    if (s.part k).adm.contains cid then modPart s k fun x => { x with adm := x.adm.filter fun i => i ≠ cid } else s) s

/-- Whether a command's writes have all completed, and the records that come before its own are written (R320, R341, R475). One that has
not begun has written nothing; one that names a session waits for the zeros of sessions too (R170; log entry 75). -/
def cmdQuiet (s : State) (c : Cmd) : Bool :=
  !(s.link.reqs.any fun r => r.why == .cmdWrite c.id || r.why == .dmaWrite c.id) &&
    !(s.cmds.any fun d => c.targets.contains d.id) && !owed s (.command c.id) &&
    (c.stage == .checked || c.stage == .ordered || (cmdSlot c).isNone || !owed s .zeros)

/-- The record of a command goes to its pair, and the slot it opens is OPEN (R158). A pair that is faulted and has had 0 written to EN
discards it (R523). -/
def handRec (s : State) (c : Cmd) (r : CRec) : State :=
  let s := leaveOrder s c.id
  let s := match c.post with
    | some (i, x) => if r.status = 0 then bump (setSes s i x) (ctrSquare 0) 1 else s
    | none => s
  let s := modCmd s c.id fun d => { d with stage := .recorded, done := none, post := none }
  if (s.queue c.q).faulted && (s.queue c.q).closing then
    let s := settleCommit s c
    flushBack (closeIfDone (removeCmds s fun d => d.id == c.id) c.q)
  else pump (modQueue s c.q fun x => { x with hold := x.hold ++ [r] }) c.q

/-- A command has its record: every command receives exactly one (R344). It is written once the command's writes have completed (R320);
until then REEVE_COMMAND_DONE finds it here. -/
def putRec (s : State) (r : CRec) : State :=
  match cmdBy s r.cid with
  | none => s
  | some c =>
    if c.stage = .recorded then s
    else if cmdQuiet s c then handRec s c r
    else modCmd s r.cid fun d => { d with stage := .finished, done := some r }

/-- A command completes. -/
def finish (s : State) (cid status detail : Nat) : State :=
  match cmdBy s cid with
  | none => s
  | some c => putRec s (plainRec c status detail)

/-- A command's outcome is decided; REEVE_COMMAND_DONE writes its record. -/
def settle (s : State) (cid status detail : Nat) : State :=
  modCmd s cid fun c => { c with stage := .finished, status := BitVec.ofNat 16 status, detail := BitVec.ofNat 64 detail }

/-! ### The counts of a partition (R269) -/

/-- Bells of the hamlets of a mask, and the semaphores of a partition, are set to 0. -/
def clearCounts (s : State) (k : Nat) (mask : BitVec 16) : State :=
  { s with
    bells := s.bells.filter fun e => !mask.getLsbD (e.1 / 256)
    sems := s.sems.filter fun e => e.1 / 512 ≠ k }

/-- An ending by ABORT, R309, TLIM or R413 clears the counts when no request is left; otherwise the clearing is due. -/
def clearOrOwe (s : State) (k : Nat) : State :=
  if (s.slot k 0).req.isNone && (s.slot k 1).req.isNone then
    modPart (clearCounts s k (pentMask (s.pent k))) k fun x => { x with clearDue := false }
  else modPart s k fun x => { x with clearDue := true }

/-- The counts are cleared when a clearing is due and the partition has no request in either slot. -/
def clearIfDue (s : State) (k : Nat) : State := if (s.part k).clearDue then clearOrOwe s k else s

/-! ### Ending a request -/

/-- A context stops with cause 0x09 and becomes idle; one that had stopped keeps its cause (R63). -/
def endCtx (s : State) (c : CtxId) : State :=
  let x := s.ctx c
  let s := if x.run = .stopped then s else stopCtx s c causeAbort (BitVec.ofNat 32 x.pos)
  modCtx s c fun y => { y with run := .idle, wait := .none, held := none }

/-- The gleaner commands of a slot leave their slices (R151). -/
def dropGl (s : State) (k e : Nat) : State :=
  let mine := fun g : GlCmd => g.e == e && partOf s g.p == some k
  let ps := (s.slices.filter fun x => x.2.gl.any mine).map (·.1)
  ps.foldl (fun s p => turnUnits (modSlice s p fun x => { x with gl := x.gl.filter fun g => !mine g }) p) s

/-- The sieve rounds of a slot end without delivery, and their buffers free (R115). -/
def dropRounds (s : State) (k e : Nat) : State :=
  let s := (s.slot k e).rounds.foldl (fun s r => countFail s r 0) s
  freeBufs s k e fun _ => true

/-- Waiters behind a context that has left are served. -/
def reserve (s : State) : State :=
  let s := (s.bellQ.map (·.1)).foldl (fun s n => serveAll s .bells n) s
  (s.semQ.map (·.1)).foldl (fun s n => serveAll s .sems n) s

/-- Slices of a partition. -/
def partSlices (s : State) (k : Nat) : List Nat := (List.range 512).filterMap fun i => dataOf s k i

/-- The write buffers of a partition drain (R197). -/
def drainPart (s : State) (k : Nat) : State := (partSlices s k).foldl drainSlice s

/-- Empty a slot: entries of ended epochs stay until EPOCH_APPLY_DONE. -/
def emptySlot (s : State) (k e : Nat) : State := modSlot s k e fun x => { Slot.reset with ended := x.ended }

/-- The saturation flag of a request (R81, R319): that of any of its contexts. -/
def reqSat (s : State) (k e : Nat) : Bool := (slotCtxs s k e).any fun c => (s.ctx c).sat

/-- The record of a request. -/
def reqRec (s : State) (k e : Nat) (q : Req) (status detail : Nat) : Option CRec :=
  (cmdBy s q.cid).map fun c =>
    ⟨c.id, pktSeq c.pkt, BitVec.ofNat 16 status, BitVec.ofNat 64 detail, reqSat s k e, q.fallback, q.waste, q.drop, q.orders,
      pktNoIrq c.pkt⟩

/-- The twin learns that a paired command failed (R304). -/
def tellTwin (s : State) (k pair status : Nat) : State :=
  if s.twin.armed = some k ∧ status ≠ 0 ∧ status ≠ stDiverge ∧ status ≠ stTwinFailed ∧ status ≠ stLockLost then
    sendTwin s 5 pair [BitVec.ofNat 64 status]
  else s

/-- Pairing number of a command. -/
def pairOf (s : State) (cid : Nat) : Option Nat := (s.twin.cmds.find? fun x => x.2.1 == cid).map (·.1)

/-- A pair is done with. -/
def dropPair (s : State) (k : Nat) : State :=
  let s := endHashHold s k
  { s with twin := { s.twin with
      cmds := s.twin.cmds.filter fun x => x.1 ≠ k
      crecs := s.twin.crecs.filter fun x => x.1 ≠ k
      theirRec := s.twin.theirRec.filter fun x => x.1 ≠ k
      theirCmd := s.twin.theirCmd.filter fun x => x.1 ≠ k
      hashes := s.twin.hashes.filter fun x => x.1 ≠ k
      theirs := s.twin.theirs.filter fun x => x.1 ≠ k
      waiting := match s.twin.waiting with
        | some (j, t) => if j = k then none else some (j, t)
        | none => none } }

/-- A paired command has its outcome: the twin learns of a failure, and the pair is done with. -/
def unpair (s : State) (k cid status : Nat) : State :=
  match pairOf s cid with
  | none => s
  | some n => dropPair (tellTwin s k n status) n

/-- The waits of a request end with it: for its session (R167), and for its croft stages where no context of it is left at GEND, whose stop
counts them (R353). -/
def endWaits (s : State) (k e : Nat) (q : Req) : State :=
  let s := if q.waits && q.stage == .sessWait && q.sess.isNone then bump s (ctrSquare 5) (s.now - q.at0) else s
  if (slotCtxs s k e).any fun c => (s.ctx c).run == .running && (s.ctx c).wait == .gend then s else countGend s k e

/-- An earlier command that names a session slot has been admitted and has not completed (R167). -/
def slotBusy (s : State) (cid i : Nat) : Bool :=
  s.cmds.any fun d => decide (d.id < cid) && cmdSlot d == some i &&
    (d.stage == .begun || d.stage == .inSlot || d.stage == .finished || d.stage == .recorded)

/-- The rollback of a request that ends while it waits for its session (R170): it is counted, and zeros are written only where no earlier
request of the slot has the span in use (R342; log entry 82). -/
def rollWaiting (s : State) (cid : Nat) : State :=
  match (cmdBy s cid).bind cmdSlot with
  | none => s
  | some i =>
    if sessOpen (s.ses i) = false then s
    else if slotBusy s cid i then bump s (ctrSquare 3) 1 else rollback s i (s.ses i).len.toNat 0

/-- End the request of a slot with a status: its contexts stop, what it holds is dropped, its session is rolled back, and its record
is written. -/
def endRequest (s : State) (k e status detail : Nat) : State :=
  match (s.slot k e).req with
  | none => s
  | some q =>
    let r := reqRec s k e q status detail
    let s := endWaits s k e q
    let s := (slotCtxs s k e).foldl endCtx s
    let s := emptySlot (dropRounds (dropGl s k e) k e) k e
    let s := match cmdBy s q.cid with
      | some c => undoCommit s c
      | none => s
    let s := match q.sess with
      | none => rollWaiting s q.cid
      | some (i, l0) =>
        let s := rollback s i l0 0
        if q.lose ∧ status = stCroftFault then loseSlot s i else s
    let s := drainPart (reserve s) k
    let s := unpair s k q.cid status
    match r with
    | none => s
    | some r => putRec s r

/-- The slot that runs a command. -/
def slotOfCmd (s : State) (cid : Nat) : Option (Nat × Nat) :=
  ((List.range 8).flatMap fun k => [(k, 0), (k, 1)]).find? fun x => ((s.slot x.1 x.2).req.map (·.cid)) == some cid

/-- Whether an ending reaches a command: it has not completed, its record is not being written (R344), and it is no device command that
runs. -/
def canEnd (s : State) (c : Cmd) : Bool :=
  c.stage != .recorded && c.done.isNone && (isPartOp (pktOp c.pkt) || c.stage == .checked) &&
    (c.stage != .finished || !cmdQuiet s c || (pairOf s c.id).isSome)

/-- End one command with a status (R342): whether it was ended. The counts of R269 follow for a request; `owes` is false for an ending that
R269 does not name, which clears them only where a clearing is due. DESIGN CHOICE (log entry 94): a SESSION_APPEND that ends while it waits has
written nothing, and no rollback is counted for it. -/
def endCommand (s : State) (cid status detail : Nat) (owes : Bool := true) : Bool × State :=
  match cmdBy s cid with
  | none => (false, s)
  | some c =>
    if canEnd s c = false then (false, s)
    else
      let k := pktPart c.pkt
      match slotOfCmd s cid with
      | some (k, e) =>
        let s := endRequest s k e status detail
        (true, if owes then clearOrOwe s k else clearIfDue s k)
      | none =>
        let s := { s with link := { s.link with reqs := s.link.reqs.filter fun r => r.why ≠ .cmdRead cid } }
        let s := undoCommit s c
        let s := if c.waits && c.stage == .checked then bump (modCmd s cid fun d => { d with waits := false }) (ctrSquare 5) (s.now - c.fetched) else s
        let s := if pktOp c.pkt = 0x0302 ∧ (c.stage = .begun ∨ c.undo.isSome = true) then
            rollback s (pktSession c.pkt) (s.ses (pktSession c.pkt)).len.toNat (pktField c.pkt 24 2 + 1)
          else s
        (true, putRec (leaveOrder (unpair s k cid status) cid) (plainRec c status detail))

/-- End commands in fetch order: how many were ended. -/
def endCommands (s : State) (l : List Nat) (status detail : Nat) : Nat × State :=
  l.foldl (fun r cid =>
    let x := endCommand r.2 cid status detail
    (r.1 + x.1.toNat, x.2)) (0, s)

end Sys2Proof.Machine
end

