-- ==== Sys2Proof/Machine/Floor.lean ====
section
/-! DEFINITION. The floor plan in service (R404 to R420): what makes a croft fit, the floors, the loss of a sub-channel (R236 to R238),
of a slice and of a village, the failure of a croft and its substitute, and migration. -/

namespace Sys2Proof.Machine

/-! ### Counts -/

/-- Bit u: sub-channel u is live. -/
def liveOf (s : State) (p : Nat) : BitVec 4 := (List.range 4).foldl (fun v u => if isRetired s p u then v else v ||| BitVec.twoPow 4 u) 0

/-- Whether a slice meets R124. -/
def shardOk (s : State) (p : Nat) : Bool := liveOf s p == 0xF && !(s.slice p).lost

/-- ACTIVE crofts of a village. -/
def activeIn (s : State) (v : Nat) : Nat :=
  ((List.range 128).filter fun i => (s.croft (128 * v + i)).cstate = .active).length

def activeAll (s : State) : Nat := ((List.range 4).map (activeIn s)).foldl (· + ·) 0

/-- Healthy command reeves, 1 to 15 (R278, R279). -/
def commandReeves (s : State) : Nat := ((List.range 15).filter fun r => s.reeve (r + 1) = .healthy).length

/-- The counts of R410 that are short: 0 all crofts, 1 + v those of village v, 5 the command reeves, 6 reeve 0. -/
def shortCounts (s : State) : List Nat :=
  (if activeAll s < 480 then [0] else []) ++ ((List.range 4).filter fun v => decide (activeIn s v < 112)).map (1 + ·) ++
    (if commandReeves s < 12 then [5] else []) ++ (if s.reeve 0 = .healthy then [] else [6])

/-- The floors of R410: SHORTFLOOR is set, and each count that has fallen short raises SHORT_FLOOR (R411). -/
def checkFloors (s : State) : State :=
  let now := shortCounts s
  let new := now.any fun i => !s.floor.below.contains i
  let s := { s with floor := { s.floor with below := now } }
  if new then
    raise (if s.floor.short then s else genUp { s with floor := { s.floor with short := true } }) 0x0201 2
      [(16, 2, activeAll s), (18, 2, activeIn s 0), (20, 2, activeIn s 1), (22, 2, activeIn s 2), (24, 2, activeIn s 3), (26, 1, commandReeves s)]
  else s

/-- NRUN: the lowest index without an ACTIVE croft, or Np (R408). -/
def nrun (s : State) (k : Nat) : Nat :=
  ((List.range (partN s k)).find? fun i => match computeOf s k i with
    | some p => (s.croft p).cstate ≠ .active
    | none => true).getD (partN s k)

/-- The partition and index whose compute is a croft. -/
def seatOf (s : State) (p : Nat) : Option (Nat × Nat) :=
  (List.range 8).findSome? fun k =>
    if pentValid (s.pent k) then ((List.range 512).find? fun i => computeOf s k i == some p).map fun i => (k, i) else none

/-- The partition and index whose data is a slice. -/
def dataSeat (s : State) (p : Nat) : Option (Nat × Nat) :=
  (List.range 8).findSome? fun k => if pentValid (s.pent k) then (indexOf s k p).map fun i => (k, i) else none

def setComp (s : State) (k i : Nat) (p : Option Nat) : State :=
  let s := voteMap s
  { s with floor := { s.floor with comp := Tri.same (tset zeroN s.floor.comp.use (512 * k + i) (match p with
    | some p => p + 1
    | none => 0)) } }

def setData (s : State) (k i : Nat) (p : Option Nat) : State :=
  { s with floor := { s.floor with data := tset zeroN s.floor.data (512 * k + i) (match p with
    | some p => p + 1
    | none => 0) } }

def setDevSlot (s : State) (d : Nat) (p : Option Nat) : State :=
  { s with floor := { s.floor with slotMap := tset zeroN s.floor.slotMap d (match p with
    | some p => p + 1
    | none => 0) } }

/-- The device slot a slice served becomes unbacked (R187), and its page bits go with it. -/
def unback (s : State) (p : Nat) : State :=
  match sliceSlot s p with
  | some d => modSlice (setDevSlot s d none) p fun x => { x with bi := [] }
  | none => s

/-- Slice `q` serves the device slot that slice `p` served, whose page bits stay as they are (R187, R470). -/
def handSlot (s : State) (p q : Nat) : State :=
  let s := unback s q
  match sliceSlot s p with
  | none => s
  | some d =>
    let b := (s.slice p).bi
    setDevSlot (modSlice (modSlice s p fun x => { x with bi := [] }) q fun x => { x with bi := b }) d (some q)

/-! ### Losing contents -/

/-- Shards of a slice become lost in the lost list of their partition. -/
def listShards (s : State) (k p : Nat) (tids : List Nat) : State := tids.foldl (fun s t => addLost s 0 k t p) s

/-- The migration a croft's slice takes part in. -/
def migOf (s : State) (p : Nat) : Option Migration := s.floor.migs.find? fun m => m.failed == p || m.subst == p

/-- Pages of a slot in the slice of index `i` (R163). -/
def pagesAt (s : State) (k i : Nat) (x : Sess) : Nat :=
  let vs := partVillages s k
  ((vs.zipIdx).map fun v =>
    let cs := villageCrofts s k v.1
    match cs.idxOf? i with
    | none => 0
    | some j => cdiv (pagesIn x vs.length v.2 - j) cs.length).foldl (· + ·) 0

/-- Whether a page of a slot in the slice of index `i` has a row in sub-channel `u` of slice `q`, where a migration has moved rows
(R182, R416). -/
def pagesReach (s : State) (k i q u : Nat) (x : Sess) : Bool :=
  match dataOf s k i with
  | none => false
  | some p =>
    let m := (s.slice p).map
    (List.range (pagesAt s k i x * (sessBb x / 512))).any fun n =>
      let l := interleave m (m.poolBase + 4096 * x.poff.toNat + 512 * n)
      slotSub l.k == u && routeRow s p l.k l.row == q

/-- Every OPEN slot with a page in a retired sub-channel becomes LOST (R182): how many did. -/
def loseSlotsIn (s : State) (p u : Nat) : Nat × State :=
  match migOf s p with
  | some m =>
    let l := slotsOf s m.part fun x => sessOpen x && [m.i, m.j].any fun i => pagesReach s m.part i p u x
    (l.length, l.foldl loseSlot s)
  | none => match dataSeat s p with
    | some (k, i) => loseSlotsAt s k i
    | none => (0, s)

/-- A sub-channel's hold ends: VL_HOLD_NS adds its time. -/
def countHold (s : State) (p u : Nat) : State :=
  let y := (s.slice p).sub u
  if y.held then bump s (ctrSlice p 27) (s.now - y.heldAt) else s

/-- Sub-channel `u` of slice `p` is retired (R236 to R238): what waits in its queue is refused, gleaner unit u of every layer is fallow, LOST
is set in every descriptor, slots with a page there are lost. A shard that was LOST already is not made lost again (log entry 10). -/
def retireSub (s : State) (p u : Nat) : State :=
  let seat := dataSeat s p
  let sh := shardsOf s p
  let tids := (sh.filter fun e => e.2.lost = 0).map (·.1)
  let waits := ((s.slice p).sub u).queue
  let s := countHold s p u
  let s := modSub (bump s (ctrSlice p 26) 1) p u fun y => { y with
    width := .retired, queue := [], held := false, suspect := [], hits := [], sent := [], resend := [], tries := 0 }
  let s := waits.foldl dropEntry s
  let s := modSlice s p fun x => { x with glFallow := (List.range 12).foldl (fun v l => v ||| BitVec.twoPow 48 (4 * l + u)) x.glFallow }
  let s := sh.foldl (fun s e => setShard s p e.1 { e.2 with lost := e.2.lost ||| BitVec.twoPow 4 u }) s
  let (slots, s) := loseSlotsIn s p u
  let s := listShards s ((partOf s p).getD 7) p tids
  let s := raise (genUp s) 0x0004 2 [(16, 2, p), (18, 2, match seat with
    | some (_, i) => i
    | none => 0xFFFF), (20, 1, (partOf s p).getD 0xFF), (21, 1, u), (22, 2, tids.length), (24, 2, slots)]
  addDefect s (.subch (Fin.ofNat 512 p) (Fin.ofNat 4 u))

/-- Rows of a bank below the table region: the general region and the session pool (R189). -/
def generalRows (m : SliceMap) : Nat := (Config.bankBytes - m.tblBytes) / 2048

/-- The `mem` cells of a slice's rows that a test takes become never-written words again (R364). -/
def eraseRows (s : State) (p : Nat) (t : Nat → Nat → Bool) : State :=
  { s with mem := s.mem.filter fun c =>
      let cw := c.1 / 10
      let k := cw / 256 / 8208 % 96
      ¬ (cw / 256 / 8208 / 96 = p ∧ t k (rowServed s p k (cw / 256 % 8208)) = true) }

/-- The code words of remapped rows of a slice that a test takes are written as never-written words of their rows, whose place their
unlisted value does not name. -/
def eraseSpares (s : State) (p : Nat) (t : Nat → Nat → Bool) : State :=
  (s.slice p).spares.foldl (fun s e =>
    if t (e.1 / 8208) (e.1 % 8208) then
      (List.range 256).foldl (fun s n =>
        let l : Loc := ⟨e.1 / 8208, e.1 % 8208, n / 4, n % 4⟩
        putAt s (wordKey p l.k e.2 l.col l.w) (neverWord l)) s
    else s) s

/-- The never-written word is written over the rows of a slice that a test takes; buffered data for the slice is dropped. -/
def fillNever (s : State) (p : Nat) (t : Nat → Nat → Bool) : State :=
  let s := { s with sqc := s.sqc.filter fun l => l.p ≠ p, undef := s.undef.filter fun u => u.p ≠ p }
  eraseSpares (eraseRows (modSlice s p fun x => { x with wcb := [], mgb := [] }) p t) p t

/-- A waiting access is no move of a row. -/
def QEntry.isAccess (e : QEntry) : Bool :=
  match e.act with
  | .row _ _ _ _ _ => false
  | _ => true

/-- The slice is lost (R412): no access reaches it, and what it held is gone. A GLEAN it has begun for a request that goes on reads its rows
poisoned (R150, R413). -/
def sliceGone (s : State) (p : Nat) : State :=
  let waits := (List.range 4).flatMap fun u => ((s.slice p).sub u).queue
  let s := (List.range 4).foldl (fun s u => modSub (countHold s p u) p u fun y => { y with queue := [], held := false, resend := [], tries := 0 }) s
  let s := modSlice s p fun x => { x with lost := true, wcb := [], mgb := [] }
  let s := (waits.filter QEntry.isAccess).foldl dropEntry s
  { s with sqc := s.sqc.filter fun l => l.p ≠ p }

/-- The shards of a lost slice: how many are lost with it, those that were LOST before being listed already; their descriptors are gone with its
controller. -/
def loseShards (s : State) (k p : Nat) : Nat × State :=
  let sh := shardsOf s p
  let new := sh.filter fun e => e.2.lost = 0
  (new.length, sh.foldl (fun s e => setShard s p e.1 { e.2 with valid := false }) (listShards s k p (new.map (·.1))))

/-! ### Failure of a croft (R412 to R420) -/

/-- Requests of a partition admitted and not completed, with their slot. -/
def admitted (s : State) (k : Nat) : List (Nat × Req) :=
  (List.range 2).filterMap fun e => (s.slot k e).req.map fun q => (e, q)

/-- The requests whose image needs index `i` end with UNIT_LOST, in admission order (R413). -/
def endAbove (s : State) (k i p : Nat) : State :=
  ((sortBy (fun x => x.2.ord) ((admitted s k).filter fun x => i < x.2.n)).map (·.2.cid)).foldl
    (fun s cid => (endCommand s cid stUnitLost p).2) s

/-- Whether croft `q` at index `j` can take the place of croft `p` at index `i` (R414). -/
def canStandIn (s : State) (k i p j q : Nat) : Bool :=
  decide (i < j) && (s.croft q).cstate == .active && (admitted s k).all (fun x => decide (x.2.n ≤ j)) &&
    !(s.croft q).mig && (shardsOf s q).isEmpty &&
    ((s.slice p).lost || liveOf s q == liveOf s p) && ((shardsOf s p).isEmpty || shardOk s q)

/-- The substitute with the highest index. -/
def substitute (s : State) (k i p : Nat) : Option (Nat × Nat) :=
  ((List.range 512).reverse).findSome? fun j =>
    match computeOf s k j with
    | some q => if canStandIn s k i p j q then some (j, q) else none
    | none => none

/-- Index `i` moves to the substitute's compute at once (R414). -/
def seatSub (s : State) (k i p j q : Nat) : State :=
  let s := setComp (setComp (bump s (ctrSquare 37) 1) k i (some q)) k j none
  let s := modCroft s q fun x => { x with pidx := i }
  genUp (modCroft s p fun x => { x with inPart := false, cstate := .fallow })

/-- Migration of index `i` begins, or waits for its turn (R415). -/
def startMig (s : State) (k i p j q : Nat) : State :=
  let s := modCroft s p fun x => { x with mig := true, partner := q, migRow := 0 }
  let s := modCroft s q fun x => { x with mig := true, partner := p, migRow := 0 }
  { s with floor := { s.floor with migs := s.floor.migs ++ [⟨k, i, j, p, q, false, 0, s.now⟩] } }

/-- CROFT_FAILED (R413). -/
def failedEvent (s : State) (p k i cause : Nat) (q : Option Nat) : State :=
  raise s 0x0202 1 [(16, 2, p), (18, 1, k), (19, 2, i), (21, 1, cause), (22, 2, q.getD 0xFFFF)]

/-- The data of index `i` is lost with slice `p` (R418): its shards, and the slots with a page on it or on an index of `js`. -/
def loseData (s : State) (k i p : Nat) (js : List Nat) : State :=
  let (n, s) := loseShards s k p
  let r := (i :: js).foldl (fun (r : Nat × State) j =>
    let x := loseSlotsAt r.2 k j
    (r.1 + x.1, x.2)) (0, s)
  raise r.2 0x0204 2 [(16, 2, p), (18, 1, k), (20, 2, n), (22, 2, r.1)]

/-- No croft meets R414 (R420). -/
def capacityFault (s : State) (k i p : Nat) (js : List Nat) : State :=
  let s := modPart (modCroft s p fun x => { x with cstate := .failed }) k fun x => { x with capFault := true }
  let s := if (s.slice p).lost then unback (setData (loseData s k i p js) k i none) p else s
  let s := (slotsOf s k sessOpen).foldl loseSlot s
  raise (genUp s) 0x0205 2 [(16, 1, k), (17, 2, nrun s k)]

/-- The data of index `i` goes to a substitute whose slice starts as never written; the rows that `keep` names stay (R418, R419). -/
def moveLost (s : State) (k i p j q : Nat) (keep : Nat → Nat → Bool) : State :=
  let m := (s.slice q).map
  let s := fillNever s q fun row b => decide (b < generalRows m) && !keep row b
  handSlot (setData (setData s k i (some q)) k j none) p q

/-- A croft at index `i` of partition `k` fails; the data of the indices `js` is lost with its slice, where that is lost. The substitute is chosen
while the requests that end with it are not completed (R414). -/
def failSeated (s : State) (p k i cause : Nat) (js : List Nat := []) : State :=
  let sub := substitute s k i p
  let s := endAbove s k i p
  match sub with
  | none => capacityFault (failedEvent s p k i cause none) k i p js
  | some (j, q) =>
    let s := failedEvent (seatSub s k i p j q) p k i cause (some q)
    if (s.slice p).lost then
      moveLost (loseData s k i p (j :: js)) k i p j q fun _ _ => false
    else startMig s k i p j q

/-- The moves of rows that wait in a slice are given up. -/
def dropRows (s : State) (p : Nat) : State :=
  (List.range 4).foldl (fun s u => modSub s p u fun y => { y with queue := y.queue.filter QEntry.isAccess }) s

/-- A migration ends before its time. -/
def dropMig (s : State) (m : Migration) : State :=
  let s := dropRows (dropRows s m.failed) m.subst
  let s := modCroft s m.failed fun x => { x with mig := false, partner := 0xFFFF }
  let s := modCroft s m.subst fun x => { x with mig := false, partner := 0xFFFF }
  { s with floor := { s.floor with migs := s.floor.migs.filter fun n => n ≠ m } }

/-- The descriptors of a slice's shards move to another slice (R416). -/
def moveShards (s : State) (p q : Nat) : State :=
  (shardsOf s p).foldl (fun s e => setShard (setShard s q e.1 e.2) p e.1 { e.2 with valid := false }) s

/-- A slice that takes part in a migration is lost (R419): with the failed slice, R418 applies and rows already copied are kept; with
the substitute's, its croft fails anew, with the data of index `i` and its shards. -/
def loseInMig (s : State) (m : Migration) (p : Nat) : State :=
  let done := fun k row => m.phase2 && decide (row < generalRows (s.slice m.failed).map ∧ migOrd (s.slice m.failed).map k row < m.row)
  let s := dropMig s m
  if p = m.failed then
    moveLost (loseData s m.part m.i m.failed [m.j]) m.part m.i m.failed m.j m.subst done
  else
    let s := handSlot (if m.phase2 then s else moveShards s m.failed m.subst) m.failed m.subst
    let s := modCroft (setData s m.part m.j none) m.failed fun x => { x with cstate := .fallow }
    failSeated (setData s m.part m.i (some m.subst)) m.subst m.part m.i 1 [m.j]

/-- A croft fails in service (R412): `cause` 0 the croft, 1 its slice is lost, 2 its village is lost. -/
def croftFail (s : State) (p cause : Nat) : State :=
  let was := (s.croft p).cstate
  let s := modCroft (setHeater s p false) p fun x => { x with svcFail := true, cstate := if x.cstate = .active then .fallow else x.cstate }
  let s := addDefect s (.croft (Fin.ofNat 512 p))
  let s := if cause ≠ 0 then sliceGone s p else s
  let s := if cause ≠ 0 then
      match migOf s p with
      | some m => loseInMig s m p
      | none =>
        match seatOf s p, dataSeat s p with
        | some (k, i), _ => if was = .active ∨ (was = .failed) then failSeated s p k i cause else s
        | none, some (k, j) =>
          setData (loseData (modCroft s p fun x => { x with cstate := .fallow, inPart := false }) k j p []) k j none
        | none, none => unback s p
    else
      match seatOf s p with
      | some (k, i) =>
        if was = .active then
          if (s.croft p).mig then failedEvent (endAbove s k i p) p k i 0 none else failSeated s p k i 0
        else s
      | none => if (dataSeat s p).isSome || (migOf s p).isSome then s else unback s p
  checkFloors s

/-- A slice is lost, by its fourth sub-channel or its controller (R412). -/
def loseSlice (s : State) (p : Nat) : State := if (s.slice p).lost then s else croftFail s p 1

/-- A village is lost (R252, R412): its crofts fail in increasing order. -/
def loseVillage (s : State) (v : Nat) : State :=
  if (s.port v).lost then s
  else (List.range 128).foldl (fun s i => croftFail s (128 * v + i) 2) (genUp (modPort s v fun x => { x with lost := true }))

/-- Retire a sub-channel; the fourth loses the slice (R238). -/
def retireOrLose (s : State) (p u : Nat) : State :=
  let s := retireSub s p u
  if liveOf s p = 0 then loseSlice s p else s

/-! ### Meanings -/

/-- SEQUENCER_TIMEOUT (R412): a croft's sequencer has not answered its reeve for 100 µs. -/
def execSequencerTimeout (p : Fin 512) (s : State) : Host.Outcome State Fault Refusal :=
  .next (if (s.croft p).cstate = .active then croftFail (notBefore s (s.now + 100000)) p 0 else s)

/-- Rows of a slice that take part in a copy: those with a listed word, a remapped row, or a word written since it became
undefined; the others are never written, or undefined, in both. -/
def touchedRows (s : State) (p lo hi : Nat) : List Nat :=
  let ofCw := fun cw : Nat => (cw / 256 / 8208 % 96) * 8208 + rowServed s p (cw / 256 / 8208 % 96) (cw / 256 % 8208)
  let l := (s.mem.filterMap fun c => if c.1 / 10 / 256 / 8208 / 96 = p then some (ofCw (c.1 / 10)) else none) ++
    (s.slice p).spares.map (·.1) ++
    (s.undef.filter fun u => u.p = p).flatMap fun u => u.written.map fun e => ofCw e.1
  (l.filter fun x => decide (lo ≤ x % 8208 ∧ x % 8208 < hi)).eraseDups

/-- Nanoseconds a row of 2 KiB takes at 32 GB/s in each direction (R415). -/
def rowNs : Nat := 64

/-- Rows of the present phase of a migration in each bank, and the first of them. -/
def phaseRows (s : State) (m : Migration) : Nat × Nat :=
  let g := generalRows (s.slice m.failed).map
  if m.phase2 then (g, 0) else (8192 - g, g)

/-- Bank slot and row of number `n` of the present phase: in increasing bank slot and then row (R415). -/
def phaseRow (s : State) (m : Migration) (n : Nat) : Nat × Nat :=
  let r := phaseRows s m
  (n / r.1, r.2 + n % r.1)

/-- Number of a row in the present phase. -/
def rowNumber (s : State) (m : Migration) (k row : Nat) : Nat :=
  let r := phaseRows s m
  k * r.1 + (row - r.2)

/-- Whether the move of a row waits in a queue of either slice. -/
def rowOnWay (s : State) (m : Migration) : Bool :=
  [m.failed, m.subst].any fun p => (List.range 4).any fun u => ((s.slice p).sub u).queue.any fun e => !e.isAccess

/-- The table region of a slice is undefined. -/
def tableUndef (s : State) (p g : Nat) : Bool := s.undef.any fun u => u.p == p && decide (g < u.hi)

/-- Phase 1 begins: where the failed slice's table rows are undefined, so are those of the substitute's (R416, R192). -/
def beginCopy (s : State) (m : Migration) : State :=
  let g := generalRows (s.slice m.failed).map
  if !m.phase2 && m.row == 0 && tableUndef s m.failed g then makeUndef s m.subst g 8192 else s

/-- ROW_EXCHANGE (R415, R416): the next row of the migration under way moves, as an access of the reeves that waits for its banks (R142):
in phase 1 it is copied, in phase 2 exchanged. -/
def execRowExchange (s : State) : Host.Outcome State Fault Refusal :=
  .next (match s.floor.migs with
  | [] => s
  | m :: _ =>
    if 96 * (phaseRows s m).1 ≤ m.row ∨ rowOnWay s m = true then s
    else
      let x := phaseRow s m m.row
      let s := advance (beginCopy s m) rowNs
      let e : QEntry := ⟨m.failed, 0, .row m.failed m.subst x.1 x.2 m.phase2, .reeve, s.now, false⟩
      if rowQueue s m.failed x.1 then enqueue s m.failed (slotSub x.1) e else serveRow s e m.failed m.subst x.1 x.2 m.phase2)

/-- The rows that the present phase has still to move, as far as anything is stored in them; every one where the regions differ in what is
undefined. -/
def restRows (s : State) (m : Migration) : List Nat :=
  let r := phaseRows s m
  let l := if !m.phase2 && tableUndef s m.subst r.2 != tableUndef s m.failed r.2 then
      (List.range 96).flatMap fun k => (List.range r.1).map fun i => 8208 * k + r.2 + i
    else (touchedRows s m.failed r.2 (r.2 + r.1) ++ touchedRows s m.subst r.2 (r.2 + r.1)).eraseDups
  l.filter fun x => decide (m.row ≤ rowNumber s m (x / 8208) (x % 8208))

/-- Whether a row that is still to move must wait for its banks. -/
def restWaits (s : State) (m : Migration) : Bool :=
  rowOnWay s m || (restRows s m).any fun x => rowQueue s m.failed (x / 8208) || rowQueue s m.subst (x / 8208)

/-- The rest of the rows of the present phase move, at 32 GB/s in each direction: MIGROW and MIG_ROWS follow. -/
def moveRest (s : State) (m : Migration) : State :=
  let left := 96 * (phaseRows s m).1 - m.row
  let s := (restRows s m).foldl (fun s x => account (moveRow s m.failed m.subst (x / 8208) (x % 8208) m.phase2)) s
  let n := (s.croft m.failed).migRow + left
  let s := modCroft (modCroft s m.failed fun x => { x with migRow := n }) m.subst fun x => { x with migRow := n }
  bump (advance s (left * rowNs)) (ctrSquare 38) left

/-- What the write buffers hold of a slice goes to its banks, and the square cache gives up its lines: their places are about to change (R416,
R417). -/
def flushSlice (s : State) (p : Nat) : State :=
  let s := (s.slice p).mgb.foldl (fun s m => rmwWord s p m true) s
  let s := account ((s.slice p).wcb.foldl (fun s l => drainLine s p l true) s)
  account ((s.sqc.filter fun l => l.p = p).foldl (fun s l => dropSq s p l.line) s)

/-- Accesses that wait in a slice's queues for banks of another slice join that slice's queues, in their order. -/
def rehome (s : State) (p : Nat) : State :=
  (List.range 4).foldl (fun s u =>
    let l := ((s.slice p).sub u).queue
    let away := fun e : QEntry => match e.act with
      | .row _ _ _ _ _ => none
      | _ => match placeOf s e.p e.off with
        | some (q, l) => if q = p then none else some (q, slotSub l.k)
        | none => none
    let s := modSub s p u fun y => { y with queue := l.filter fun e => (away e).isNone }
    l.foldl (fun s e => match away e with
      | some (q, v) => modSub s q v fun y => { y with queue := y.queue ++ [e] }
      | none => s) s) s

/-- MIGRATION_PHASE1_DONE (R415, R416): the table region of the failed slice has been copied into the substitute's, the descriptors of
index `i` move there, and the writes to its table windows that waited follow them. It waits for the rows whose banks are busy. -/
def execMigrationPhase1Done (s : State) : Host.Outcome State Fault Refusal :=
  .next (match s.floor.migs with
  | [] => s
  | m :: ms =>
    if m.phase2 || restWaits s m then s
    else
      let s := moveRest (beginCopy s m) m
      let s := moveShards s m.failed m.subst
      let s := { s with floor := { s.floor with migs := { m with phase2 := true, row := 0 } :: ms } }
      genUp (rehome (flushSlice s m.failed) m.failed))

/-- Whether an access to one of two slices waits for its bank, for BIRsp or for a resent copy. -/
def accessWaits (s : State) (p q : Nat) : Bool :=
  let here := fun x : Nat => x == p || x == q
  (s.slices.any fun x => (List.range 4).any fun u => (x.2.sub u).queue.any (fun e => here e.p) || (x.2.sub u).resend.any fun r => here r.1) ||
    s.link.bisn.any fun b => here b.p

/-- The slices of a migration have changed places: the failed croft becomes SLICE_ONLY at index `j`, and the next migration begins
(R417). -/
def endMig (s : State) (m : Migration) (ms : List Migration) : State :=
  let s := { s with floor := { s.floor with migs := ms.map fun n => if ms.head? = some n then { n with began := s.now } else n } }
  let s := modCroft s m.failed fun x => { x with cstate := .sliceOnly, mig := false, partner := 0xFFFF, migRow := 0, inPart := true, part := m.part, pidx := m.j }
  let s := modCroft s m.subst fun x => { x with mig := false, partner := 0xFFFF, migRow := 0 }
  let s := handSlot (setData (setData s m.part m.i (some m.subst)) m.part m.j (some m.failed)) m.failed m.subst
  raise (genUp s) 0x0203 0 [(16, 2, m.failed), (18, 2, m.subst), (20, 4, (s.now - m.began) / 1000000)]

/-- MIGRATION_DONE (R417): phase 2 has ended, with every row exchanged and no access under way that was placed before it. A substitute that failed
meanwhile fails index `i` again (R419). -/
def execMigrationDone (s : State) : Host.Outcome State Fault Refusal :=
  .next (match s.floor.migs with
  | [] => s
  | m :: ms =>
    if m.phase2 = false ∨ restWaits s m = true then s
    else
      let s := moveRest s m
      let m := { m with row := 96 * (phaseRows s m).1 }
      let s := { s with floor := { s.floor with migs := m :: ms } }
      let s := flushSlice (flushSlice s m.failed) m.subst
      if accessWaits s m.failed m.subst then s
      else
        let s := endMig s m ms
        if (s.croft m.subst).svcFail then
          match seatOf s m.subst with
          | some (k, i) => checkFloors (failSeated s m.subst k i 0)
          | none => s
        else s)

end Sys2Proof.Machine
end

