-- ==== Sys2Proof/Machine/Square.lean ====
section
/-! DEFINITION. The die-to-die ports (R249 to R256), the bell lanes (R261) and the reeves (R278 to R280, R345). -/

namespace Sys2Proof.Machine

/-! ### Lane groups (R249 to R253) -/

/-- Whether a group carries frames: its port's village has confirmed its identity (R255) and is not lost, and the group is neither retired
nor retraining. -/
def groupOpen (s : State) (v dir g : Nat) : Bool :=
  (s.port v).idOk && !(s.port v).lost && !((s.port v).group dir g).retired && !((s.port v).group dir g).train

/-- The 256 bytes of a frame's data bits, in lane order. -/
def frameBytes (data : BitVec 2048) : List Byte := (List.range 256).map fun i => data.extractLsb' (8 * i) 8

/-- Whether a frame passes its check: the check lane carries the CRC-32C of its data bits (R250). -/
def frameGood (frame : BitVec 2080) : Bool := crc32c (frameBytes (frame.extractLsb' 0 2048)) == frame.extractLsb' 2048 32

/-- What a group makes of a frame (R250, R251). A frame in sequence that passes is delivered and acknowledged, which frees it from the
sender's replay buffer; one that fails waits for its negative acknowledgement, and its third failed replay makes a lane suspect, so that
the group retrains. Frames out of sequence come again by the replay. -/
def Group.receive (x : Group) (sn : BitVec 8) (good : Bool) : Group :=
  let kept := if x.replay.contains sn then x.replay else (x.replay ++ [sn]).drop (x.replay.length + 1 - 64)
  if sn ≠ x.expect then { x with replay := kept }
  else if good then { x with expect := x.expect + 1, replay := kept.filter fun y => y ≠ sn, fails := 0, nak := none }
  else { x with replay := kept, fails := x.fails + 1, nak := some sn, train := decide (4 ≤ x.fails + 1) }

/-- D2D_FRAME (R250): a frame is received and checked; one in sequence that fails is answered with a negative acknowledgement. -/
def execD2dFrame (v : Fin 4) (dir : Fin 2) (g : Fin 16) (sn : BitVec 8) (frame : BitVec 2080) (s : State) :
    Host.Outcome State Fault Refusal :=
  let good := frameGood frame
  .next (if groupOpen s v dir g then
      let t := modGroup s v dir g fun x => x.receive sn good
      if !good && decide (sn = ((s.port v).group dir g).expect) then emit t (.d2dNak v dir g sn) else t
    else s)

/-- D2D_NEGATIVE_ACK (R250): the sender learns of the frame that failed its check, and replays it and every later one it keeps. -/
def execD2dNegativeAck (v : Fin 4) (dir : Fin 2) (g : Fin 16) (sn : BitVec 8) (s : State) : Host.Outcome State Fault Refusal :=
  let x := (s.port v).group dir g
  .next (if groupOpen s v dir g ∧ x.nak = some sn then
      bump (modGroup s v dir g fun x => { x with nak := none }) (ctrPort v dir 0) (x.replay.dropWhile fun y => y ≠ sn).length
    else s)

/-- Nanoseconds of 24 h. -/
def dayNs : Nat := 86400000000000

/-- Whether a group can have retrained: it is in service, and it was retraining, or no other group of its port and direction was (R251,
R421). -/
def groupFree (s : State) (v dir g : Nat) : Bool :=
  !(s.port v).lost && !((s.port v).group dir g).retired &&
    (((s.port v).group dir g).train || (List.range 16).all fun h => !((s.port v).group dir h).train)

/-- GROUP_RETRAIN_DONE (R251, R252, R421): a suspect group has retrained, or one that had not for 24 h. A failed lane takes a spare, or retires the group; a port with no
working group in either direction loses its village. -/
def execGroupRetrainDone (v : Fin 4) (dir : Fin 2) (g : Fin 16) (laneFailed : Bool) (s : State) : Host.Outcome State Fault Refusal :=
  let x := (s.port v).group dir g
  .next (if groupFree s v dir g = false then s
    else
      let s := if x.train then s else notBefore s (x.trainAt + dayNs)
      let s := bump s (ctrPort v dir 1) 1
      let s := modGroup s v dir g fun x => { x with train := false, fails := 0, nak := none, trainAt := s.now }
      if laneFailed then
        if x.spares < 2 then
          let s := genUp (modGroup (bump s (ctrPort v dir 2) 1) v dir g fun x => { x with spares := x.spares + 1 })
          addDefect s (.portLane v dir g)
        else
          let s := genUp (modGroup (bump s (ctrPort v dir 3) 1) v dir g fun x => { x with retired := true, replay := [] })
          let s := raise s 0x0005 1 [(16, 1, v), (17, 1, dir), (18, 1, workingGroups (s.port v) dir)]
          let s := addDefect s (.portLane v dir g)
          if workingGroups (s.port v) 0 = 0 ∧ workingGroups (s.port v) 1 = 0 then loseVillage s v else s
      else s)

/-- The sampling point of a lane moves towards the centre of its eye, by two steps of 1/64 UI at most (R253). -/
def moveLane (t : Table Int) (x : LaneEye) : Table Int :=
  let c := tget zeroI t x.lane
  tset zeroI t x.lane (c + max (-2) (min 2 (x.centre - c)))

/-- D2D_RECENTRING (R251, R253): every 2 s; a pass that has found no idle frame within 10 ms inserts them, at most 16 in any 10 µs. An eye below
0.20 UI makes its lane suspect, and the group retrains. -/
def execD2dRecentring (v : Fin 4) (dir : Fin 2) (g : Fin 16) (pass : LanePass) (s : State) : Host.Outcome State Fault Refusal :=
  .next (if groupOpen s v dir g then
      let s := notBefore s (((s.port v).group dir g).passAt + if pass.idle = 0 then 2000000000 else 2010000000)
      modGroup s v dir g fun x =>
        let last := x.idle.filter fun b => decide (s.now < b.1 + 10000)
        { x with
          passAt := s.now
          sample := pass.eyes.foldl moveLane x.sample
          idle := if pass.idle = 0 then last else last ++ [(s.now, min pass.idle (16 - (last.map (·.2)).foldl (· + ·) 0))]
          train := pass.eyes.any fun y => decide (y.width < 20) }
    else s)

/-! ### Identity (R254, R255) -/

/-- The village the straps name; none for a reserved rotation. -/
def strapVillage (rot : BitVec 2) (mir : Bool) : Option Nat :=
  if rot = 0 then some (if mir then 0 else 1) else if rot = 2 then some (if mir then 3 else 2) else none

/-- The village of a port is lost; its crofts are yet to be dealt with. -/
def strayPort (s : State) (v : Nat) : State :=
  if (s.port v).lost then s else genUp (modPort s v fun x => { x with lost := true })

/-- A village is lost in TRAIN: a fault that this bring-up has found (R401, R403). -/
def lostInTrain (s : State) (v : Nat) : State :=
  strayPort { s with boot := { s.boot with faults := s.boot.faults ++ [.village (Fin.ofNat 4 v)] } } v

/-- PORT_TRAINING_EXCHANGE (R255): in TRAIN, the village sends its straps. An identity that is not confirmed loses the village; its
crofts are dealt with when the floor plan is formed (R394, R403). -/
def execPortTrainingExchange (port : Fin 4) (rot : BitVec 2) (mir : Bool) (s : State) : Host.Outcome State Fault Refusal :=
  .next (if s.boot.stage = .train ∧ (s.port port).trained = false then
      let ok := strapVillage rot mir == some port.val
      let s := genUp (modPort s port fun x => { x with rot := rot, mir := mir, trained := true, idOk := ok })
      if ok then s
      else raise (lostInTrain s port) 0x0006 2 [(16, 1, port), (17, 1, rot.toNat + 4 * mir.toNat)]
    else s)

/-- BELL_LANE_FAILURE (R261): a spare takes the lane's place; with both in use, bell messages move to a priority frame. -/
def execBellLaneFailure (v : Fin 4) (dir : Fin 2) (s : State) : Host.Outcome State Fault Refusal :=
  let n := tget zeroN (s.port v).bellBad dir
  .next (if 10 ≤ n then s
    else
      let s := genUp (modPort s v fun x => { x with bellBad := tset zeroN x.bellBad dir (n + 1) })
      let s := if n < 2 then bump s (ctrPort v dir 4) 1 else s
      let s := if n = 2 then raise s 0x0007 1 [(16, 1, v)] else s
      addDefect s (.bellLane v dir))

/-! ### Reeves (R278 to R280) -/

/-- H: the healthy command reeves, rising. -/
def healthyReeves (s : State) : List Nat := ((List.range 15).map (· + 1)).filter fun r => s.reeve r = .healthy

/-- The reeve that serves a pair. DESIGN CHOICE (log entry 96): with no healthy command reeve, reeve 0 serves it. -/
def servedBy (s : State) (q : Nat) : Nat :=
  let h := healthyReeves s
  h.getD (q % h.length) 0

/-- FATAL (R345): the cause is 0 for an exceeded ABORT bound, 1 for reeve 0's watchdog. Fetching stops. -/
def goFatal (s : State) (cause : Nat) : State :=
  if s.dev.fatal then s else raise { s with dev := { s.dev with fatal := true } } 0x00FF 3 [(16, 1, cause)]

/-- A command that has not completed fails with its reeve, a running device command among them (R280). R269 does not name this ending. -/
def failWithReeve (r : Nat) (s : State) (cid : Nat) : State :=
  let x := endCommand s cid stReeve r false
  if x.1 then x.2
  else match cmdBy s cid with
    | none => s
    | some c => if c.stage = .begun ∨ c.stage = .checked then putRec s (plainRec c stReeve r) else s

/-- Reeve 0 halts a command reeve: the commands it fetched fail, and its queues pass to others (R280). -/
def haltReeve (s : State) (r : Nat) : State :=
  let mine := (s.cmds.filter fun c => c.reeve = r).map (·.id)
  mine.foldl (failWithReeve r) (genUp (setReeve s r .halted))

/-- REEVE_WATCHDOG (R280): a command reeve is halted; reeve 0's expiry is fatal. -/
def execReeveWatchdog (r : Fin 16) (s : State) : Host.Outcome State Fault Refusal :=
  let s' := bump s (ctrReeve r) 1
  .next (if r = 0 then goFatal s' 1 else if s.reeve r = .healthy then haltReeve s' r else s)

/-- Words in error of a reeve's private memory, by key (R248). -/
def reeveErrs (s : State) (r : Nat) : Table MemErr := s.reeveErr.filter fun e => e.1 / 32768 == r

/-- A word that a reeve reads in error is counted and logged for the square (R384); `shared` tells the firmware memory, whose addresses
follow those of the private memory. -/
def reeveFind (shared : Bool) (s : State) (e : Nat × MemErr) : State :=
  let a := if shared then 262144 + 8 * e.1 else 8 * (e.1 % 32768)
  match e.2 with
  | .sound => s
  | .single => otherError s none false .reeve a
  | .double => otherError s none true .reeve a

/-- A command reeve reads its memories as it takes up a command (log entry 79): the errors are found, and one that cannot be corrected
halts it (R248, R280). Whether it can go on. DESIGN CHOICE (log entry 97): reeve 0 takes up no command, so an error in its private memory is
not found. -/
def reeveScan (s : State) (r : Nat) : Bool × State :=
  let own := reeveErrs s r
  let t := s.fwErr.foldl (reeveFind true) (own.foldl (reeveFind false) s)
  if (own ++ s.fwErr).any fun e => e.2 == .double then (false, haltReeve t r) else (true, t)

/-- REEVE_SELFTEST_DONE (R280): the 10 µs self-test of a halted reeve ends; it leaves the private memory of one that passes without errors (log
entry 79). -/
def execReeveSelftestDone (r : Fin 16) (passed : Bool) (s : State) : Host.Outcome State Fault Refusal :=
  .next (if s.reeve r = .halted then
      let s := genUp (setReeve (advance s 10000) r (if passed then .healthy else .fallow))
      let s := raise s 0x0008 1 [(16, 1, r), (17, 1, if passed then 0 else 1)]
      if passed then { s with reeveErr := s.reeveErr.filter fun e => e.1 / 32768 ≠ r.val } else checkFloors (addDefect s (.reeve r))
    else s)

end Sys2Proof.Machine
end

