-- ==== Sys2Proof/Machine/Kcp.lean ====
section
/-! DEFINITION. Queue pairs and the fetching of commands (R308 to R318, R333, R334, R341 to R349, R523, R525). -/

namespace Sys2Proof.Machine

/-! ### Checks of a packet (R314 to R318, R335 to R340) -/

/-- The first non-zero byte of the bytes `lo` to `hi − 1`. -/
def firstByte (p : BitVec 512) (lo hi : Nat) : Option Nat :=
  ((List.range (hi - lo)).map (· + lo)).find? fun i => pktField p i 1 ≠ 0

/-- Offsets of bytes that must be zero and are not: the first of them. -/
def mustZero (p : BitVec 512) (lo hi : Nat) : List Nat := (firstByte p lo hi).toList

/-- The offset of a field that holds a value it may not. -/
def badField (p : BitVec 512) (off n : Nat) (ok : Nat → Bool) : List Nat := if ok (pktField p off n) then [] else [off]

/-- Bits of a partition entry that R213 gives a field. -/
def entryBits : List (Nat × Nat) :=
  [(0, 3), (8, 16), (32, 41), (96, 19), (128, 11), (144, 8), (160, 11), (176, 8), (192, 11), (208, 8), (224, 11), (240, 8)]

def entryMask : Nat := (entryBits.map fun b => (2 ^ b.2 - 1) * 2 ^ b.1).foldl (· + ·) 0

/-- Byte offsets in a partition entry with VALID = 1 of reserved values (R213, R339). -/
def entryBad (w : BitVec 256) : List Nat :=
  let rsv := (List.range 32).filter fun i => bitsOf (w.toNat - (w.toNat &&& entryMask)) (8 * i) 8 ≠ 0
  let rate := fun i => let r := pentRate w i; if r = 0 ∨ 1024 < r then [16 + 4 * i] else []
  let burst := fun i => if pentBurst w i = 0 then [18 + 4 * i] else []
  rsv ++ (if pentMask w = 0 then [1] else []) ++ (if 256 < pentTbl w then [8] else []) ++
    (List.range 4).flatMap fun i => rate i ++ burst i

/-- The entry a SET_PARTITION carries. -/
def pktEntry (p : BitVec 512) : BitVec 256 := p.extractLsb' 128 256

/-- GEOM: the bits that R156 gives SLIDE, LAYM1, HEADM1, DH128, KVFMT and CAPBM1. -/
def geomMask : Nat := 0x1FFF0007FF20

/-- Offsets of reserved values and non-zero reserved bytes among the parameters of a command. -/
def paramBad (op : Nat) (p : BitVec 512) : List Nat :=
  let below := fun m => fun x : Nat => decide (x < m)
  let mult := fun m => fun x : Nat => x % m == 0
  match op with
  | 0x0101 => mustZero p 60 64
  | 0x0102 => mustZero p 60 64
  | 0x0201 => badField p 32 4 (below (2 ^ 24)) ++ badField p 37 1 (below 32) ++ badField p 38 1 (below 16) ++
      badField p 40 4 (below (2 ^ 19)) ++ mustZero p 46 64
  | 0x0202 => badField p 16 8 (mult 64) ++ badField p 24 8 (mult 64) ++ mustZero p 40 64
  | 0x0203 => badField p 16 8 (mult 64) ++ badField p 24 8 (mult 64) ++ badField p 32 8 (mult 64) ++
      badField p 40 1 (below 8) ++ mustZero p 41 64
  | 0x0301 => badField p 16 8 (fun x => x &&& geomMask == x && bitsOf x 17 2 != 3) ++ mustZero p 24 64
  | 0x0302 => badField p 24 2 (below 4096) ++ mustZero p 26 64
  | 0x0303 => mustZero p 16 64
  | 0x0401 => badField p 16 1 (below 2) ++ mustZero p 17 64
  | 0x0501 => badField p 16 1 (below 3) ++ mustZero p 17 18 ++
      badField p 18 2 (below (if pktField p 16 1 = 0 then 4096 else if pktField p 16 1 = 1 then 8 else 16384)) ++ mustZero p 20 64
  | 0x0601 => (if pentValid (pktEntry p) then (entryBad (pktEntry p)).map (· + 16) else []) ++ mustZero p 48 64
  | 0x0602 => badField p 16 1 (fun x => decide (1 ≤ x ∧ x ≤ 3)) ++ mustZero p 17 24 ++ mustZero p 36 64
  | 0x0701 => mustZero p 28 64
  | 0x0702 => badField p 24 8 (mult 8) ++ badField p 32 4 (fun x => x % 8 == 0 && decide (x ≤ 1048576)) ++ mustZero p 36 64
  | 0x0801 => badField p 16 1 (below 3) ++ mustZero p 17 24 ++ mustZero p 32 64
  | 0x0901 => mustZero p 16 64
  | 0x0902 => mustZero p 16 64
  | 0x0A01 => mustZero p 20 64
  | 0x0A02 => mustZero p 32 64
  | 0x0A03 => mustZero p 16 64
  | 0x0A04 => mustZero p 60 64
  | _ => [0]

/-- Whether a command's session column is Optional, Required or — (R317). -/
def sessAllowed (op : Nat) : Bool := isRunOp op || op == 0x0301 || op == 0x0302 || op == 0x0303
def sessRequired (op : Nat) : Bool := op == 0x0301 || op == 0x0302 || op == 0x0303

/-- Offsets of reserved values of the header (R314 to R316). A SESS flag where R317 takes none, or none where it requires one, is a
reserved flag value (log entry 11). -/
def headBad (op : Nat) (p : BitVec 512) : List Nat :=
  (if (pktFlags p).toNat < 8 ∧ (pktSess p = false ∨ sessAllowed op) ∧ (sessRequired op = false ∨ pktSess p) then [] else [2]) ++
    badField p 8 1 (fun x => decide (x < 8)) ++
    badField p 9 1 (fun x => decide (x < 4) && (x == 0 || op == 0x0102)) ++
    badField p 10 2 (fun x => decide (x < 16384)) ++ mustZero p 12 16

/-- Extension entries: bytes 40 to 63 are zero (R335). -/
def extBad (ext : List (BitVec 512)) : List Nat :=
  (ext.zipIdx).flatMap fun x => (mustZero x.1 40 64).map (· + 64 * (x.2 + 1))

/-- Whether an address of R188 and its range pass the checks of R525; `part` is the partition of a partition address. -/
def rangeOk (s : State) (k : Nat) (a : Nat) (n : Nat) : Bool :=
  let w : Word := BitVec.ofNat 64 a
  spaceOf w != 3 && !addrRsv w &&
    (spaceOf w != 0 || spanCause s (viaPart k s) (addrOf w) n != some causeAddr)

/-- The same for a field that is always a partition address. -/
def partRangeOk (s : State) (k a n : Nat) : Bool := decide (a < 2 ^ 52) && rangeOk s k a n

/-- Row bytes of a shard of `n` rows at a pitch code. -/
def tableBytes (p : BitVec 512) : Nat :=
  (pktField p 32 4 % 2 ^ 24 + 1) * (32 * (pktField p 39 1 + 1)) + (if pktField p 37 1 % 16 = 15 then 32 else 0)

/-- Offsets of the address fields whose range fails R525. The source of a SESSION_APPEND, whose length hangs on its slot, is checked
with the slot's geometry at the fetch. -/
def rangeBad (s : State) (op : Nat) (p : BitVec 512) (ext : List (BitVec 512)) : List Nat :=
  let k := pktPart p
  let f := fun off ok => if ok then ([] : List Nat) else [off]
  match op with
  | 0x0101 => f 16 (partRangeOk s k (pktField p 16 8) 128)
  | 0x0102 => f 16 (partRangeOk s k (pktField p 16 8) 128) ++
      (ext.zipIdx).flatMap fun x => f (64 * (x.2 + 1)) (partRangeOk s k (pktField x.1 0 8) 128)
  | 0x0201 => f 16 (rangeOk s k (pktField p 16 8) (tableBytes p))
  | 0x0202 => f 16 (partRangeOk s k (pktField p 16 8) (pktField p 24 8))
  | 0x0203 => f 16 (rangeOk s (pktField p 40 1) (pktField p 16 8) (pktField p 32 8)) ++
      f 24 (rangeOk s k (pktField p 24 8) (pktField p 32 8))
  | 0x0302 =>
    let x := s.ses (pktSession p)
    f 16 (rangeOk s k (pktField p 16 8) (2 * (pktField p 24 2 + 1) * sessLayers x * sessHeads x * sessDh x * sessW x))
  | 0x0602 => f 24 (pktField p 32 4 == 0 || rangeOk s k (pktField p 24 8) (pktField p 32 4))
  | 0x0701 => f 16 (rangeOk s k (pktField p 16 8) (pktField p 24 4))
  | 0x0702 => f 16 (rangeOk s k (pktField p 16 8) (pktField p 32 4))
  | 0x0A04 => f 48 (rangeOk s k (pktField p 48 8) (pktField p 56 4))
  | _ => []

/-- Whether a command's PART is checked (R317, R525). -/
def partUsed (op : Nat) (p : BitVec 512) : Bool :=
  let dev := fun off => pktField p off 8 / 2 ^ 62 == 0
  isPartOp op || op == 0x0901 || op == 0x0902 || (op == 0x0401 && pktField p 16 1 == 1) ||
    (op == 0x0602 && pktField p 32 4 != 0 && dev 24) || ((op == 0x0701 || op == 0x0702) && dev 16) || (op == 0x0A04 && dev 48)

/-- The least of a list. -/
def least : List Nat → Option Nat
  | [] => none
  | x :: xs => some (xs.foldl min x)

/-- The status and DETAIL a command completes with under R318 and R525 when it fails a check at its fetch. A reserved value comes
before a bad partition (log entry 11). DESIGN CHOICE (log entry 98): the SRCPART of a MEM_COPY need not be in the pair's PMASK. -/
def checkCmd (s : State) (x : Queue) (p : BitVec 512) (ext : List (BitVec 512)) : Option (Nat × Nat) :=
  let op := pktOp p
  let part := pktPart p
  let known := paramBad op 0 != [0] || op == 0x0602
  if !known then some (stReserved, 0)
  else
    let offs := headBad op p ++ paramBad op p ++ extBad ext
    let partOk := !partUsed op p || (pentValid (s.pent part) && (qMask x).getLsbD part)
    if partOk then
      match least (offs ++ rangeBad s op p ext) with
      | some o => some (stReserved, o)
      | none => if op / 256 = 0x0A ∧ op ≠ 0x0A04 then some (stConflict, 0) else none
    else match least offs with
      | some o => some (stReserved, o)
      | none => some (stBadPart, 0)

/-! ### Fetching (R312, R316, R523) -/

/-- Whether the reeves fetch commands (R345, R394): not while the link is down, nor before the records held meanwhile are written (R467). -/
def fetching (s : State) : Bool := s.boot.stage == .ready && !s.dev.fatal && s.link.up && s.link.back.isNone

/-- Commands of a pair fetched and not completed. -/
def inFlight (s : State) (q : Nat) : Nat := (s.cmds.filter fun c => c.q = q).length

/-- Entries of a submission ring not fetched. -/
def sqAvail (x : Queue) : Nat := (x.sqtail + qSqSize x - x.sqhead) % qSqSize x

/-- Whether a completion entry can be reserved (R312, R313). -/
def hasEntry (s : State) (q : Nat) : Bool :=
  let x := s.queue q
  decide (cqUsed x + inFlight s q + 1 < qCqSize x)

/-- Whether a pair's next command may be fetched, a completion entry apart: it is fetched whole (R312). -/
def mayFetch (s : State) (q : Nat) : Bool :=
  let x := s.queue q
  fetching s && qEn x && !x.closing && !x.faulted && decide (0 < sqAvail x) && !x.cut && decide (inFlight s q < 64)

/-- Entry `i` from the head of a submission ring in device memory: none while the read waits for its bank (R219). One that cannot be reached is
poisoned (R523). -/
def ringEntry (s : State) (q i : Nat) : Option RingEntry × State :=
  let x := s.queue q
  let r := fetchVia s viaDev (x.base.use.sqbase.toNat + 64 * ((x.sqhead + i) % qSqSize x)) 64 0xFF (.ring q)
  (r.1.map fun l => ⟨BitVec.ofNat 512 (leNat (l.map (·.1))), l.any (·.2), .data⟩, r.2)

/-- The next `n` entries, from number `i`. -/
def ringEntries (s : State) (q i : Nat) : Nat → Option (List RingEntry) × State
  | 0 => (some [], s)
  | n + 1 =>
    match ringEntry s q i with
    | (none, s) => (none, s)
    | (some e, s) =>
      let r := ringEntries s q (i + 1) n
      (r.1.map (e :: ·), r.2)


/-- Of 16,384 host lines, the one used longest ago gives way (R473). -/
def oldHostLine : Table Nat → Option (Nat × Nat)
  | [] => none
  | e :: es =>
    match oldHostLine es with
    | none => some e
    | some m => if e.2 ≤ m.2 then some e else some m

/-- A line of host memory is read shared (R473): the square cache holds it, or takes it into its set (R204, R222). -/
def holdLine (s : State) (n : Nat) : State :=
  let held := decide (0 < tget zeroN s.link.hostLines n)
  let s := if held then bump s (ctrSquare 6) 1
    else
      let s := if s.link.hostLines.length < 16384 then s
        else match oldHostLine s.link.hostLines with
          | some e => { s with link := { s.link with hostLines := tset zeroN s.link.hostLines e.1 0 } }
          | none => s
      bump (makeRoom s (hostSet n)) (ctrSquare 7) 1
  { s with uses := s.uses + 1, link := { s.link with hostLines := tset zeroN s.link.hostLines n (s.uses + 1) } }

/-- The read of an entry has given its bytes. -/
def entryGood (e : RingEntry) : Bool := !e.poison && e.answer == .data

/-- Entries a command takes: a first entry that is poisoned or has not come gives no LEN. -/
def entryCount (e : RingEntry) : Nat := if entryGood e then pktField e.bits 9 1 % 4 + 1 else 1

/-- The command at the head of a ring is not wholly visible: it waits for the doorbell that makes the rest of it so. -/
def cutShort (s : State) (q : Nat) : State := modQueue s q fun x => { x with cut := true }

/-- A read of a ring in host memory ends: its line is held where data came; where none has come within 50 ms, they have passed (R473, R474). -/
def readLine (s : State) (n : Nat) (e : RingEntry) : State :=
  match e.answer with
  | .data => holdLine s n
  | .refused => bump s (ctrSquare 55) 1
  | .silent => bump (advance s 50000000) (ctrSquare 55) 1

/-- The entries of the pair's next command: from device memory, or as the host returned them; none when it is not there whole, or its read
waits. While IDE is insecure a read of host memory fails (R478), as one that the host refuses or does not answer does (R474). -/
def takeEntries (s : State) (q : Nat) (es : List RingEntry) : Option (List RingEntry) × State :=
  let x := s.queue q
  if qSqDev x then
    match ringEntry s q 0 with
    | (none, s) => (none, s)
    | (some e, s) =>
      if sqAvail x < entryCount e then (none, dropBrought (cutShort s q) (.ring q))
      else
        let r := ringEntries s q 1 (entryCount e - 1)
        (r.1.map (e :: ·), if r.1.isSome then dropBrought r.2 (.ring q) else r.2)
  else match (if s.link.ide = .insecure then [⟨0, false, .refused⟩] else es) with
    | [] => (none, s)
    | e :: rest =>
      let n := entryCount e
      if sqAvail x < n then (none, cutShort s q)
      else if (e :: rest).length < n then (none, s)
      else (some ((e :: rest).take n), ((e :: rest).take n).zipIdx.foldl (fun s y =>
        readLine s (x.base.use.sqbase.toNat / 64 + (x.sqhead + y.2) % qSqSize x) y.1) s)

/-- The first entry whose read has not given its bytes, with its index. -/
def firstBad (es : List RingEntry) : Option (RingEntry × Nat) := es.zipIdx.find? fun e => !entryGood e.1

/-- Doorbells whose entries have all been fetched once the head has moved by `n` from `head`. -/
def dropRung (size head n : Nat) : List (Nat × Nat × Bool) → List (Nat × Nat × Bool)
  | [] => []
  | r :: rs => if (r.1 + size - head) % size ≤ n then dropRung size head n rs else r :: rs

/-- When the doorbell came that made `n` entries from the head visible, and whether R312 let the reeve fetch them at once (R343). -/
def rungAt (s : State) (x : Queue) (n : Nat) : Nat × Bool :=
  match x.rung.find? fun r => decide (n ≤ (r.1 + qSqSize x - x.sqhead) % qSqSize x) with
  | some r => r.2
  | none => (s.now, true)

/-- A command fetched earlier that names the slot of a packet has not completed (R167). -/
def namedBefore (s : State) (p : BitVec 512) : Bool := s.cmds.any fun d => cmdSlot d == some (pktSession p)

/-- Whether a SESSION_APPEND is fetched while an earlier command that names its slot has not completed (R167). -/
def isWaiting (s : State) (p : BitVec 512) : Bool := decide (pktOp p = 0x0302) && namedBefore s p

/-- Enter a fetched command; one that fails its checks completes at once, and a partition command joins the admission order
(R318, R327). -/
def enterCmd (s : State) (q : Nat) (es : List RingEntry) : State :=
  let x := s.queue q
  let head := x.sqhead
  let id := s.nextCmd
  let bell := rungAt s x es.length
  let s := modQueue (bump s (ctrQueue q 0) 1) q fun x => { x with
    sqhead := (head + es.length) % qSqSize x, rung := dropRung (qSqSize x) head es.length x.rung }
  let pkts := match firstBad es with
    | some _ => [(0 : BitVec 512)]
    | none => es.map fun e : RingEntry => e.bits
  let pkt := pkts.headD 0
  let c : Cmd := {
    id := id, q := q, pkt := pkt, ext := pkts.drop 1, stage := .checked, status := 0, detail := 0, data := none
    began := s.now, fetched := s.now, targets := [], reeve := servedBy s q, bellAt := bell.1, atOnce := bell.2
    waits := isWaiting s pkt }
  let s := votePart s (pktPart c.pkt)
  let s := { s with cmds := s.cmds ++ [c], nextCmd := id + 1 }
  match firstBad es with
  | some e => finish s id (if e.1.answer = .data then stPoison else stHostAccess) (x.base.use.sqbase.toNat + 64 * ((head + e.2) % qSqSize x))
  | none =>
    match checkCmd s x c.pkt c.ext with
    | some r => finish s id r.1 r.2
    | none => if isPartOp (pktOp c.pkt) then modPart s (pktPart c.pkt) fun y => { y with adm := y.adm ++ [id] } else s

/-- COMMAND_FETCH (R278, R312, R318, R327): the reeve of a pair fetches the command at SQHEAD and checks it. -/
def execCommandFetch (q : Fin 4096) (es : List RingEntry) (s : State) : Host.Outcome State Fault Refusal :=
  let s := voteQueue s q
  .next (if mayFetch s q then
      if hasEntry s q then
        match reeveScan s (servedBy s q) with
        | (false, s') => s'
        | (true, s') =>
          match takeEntries s' q es with
          | (none, s') => s'
          | (some l, s') => enterCmd (endCqStall s' q) q l
      else modQueue s q fun x => { x with stallAt := if x.stallAt.isSome then x.stallAt else some s.now }
    else s)

/-! ### Doorbells and enabling (R308 to R311, R347, R523) -/

/-- QUEUE_FAULT (R351). -/
def queueFault (s : State) (q kind : Nat) : State := raise s 0x000B 1 [(16, 2, q), (18, 1, kind)]

/-- How many more entries R312 lets the reeve of a pair fetch at once, each taken as a command (log entry 102). -/
def fetchRoom (s : State) (q : Nat) : Nat :=
  let x := s.queue q
  min (64 - inFlight s q) (qCqSize x - 1 - (cqUsed x + inFlight s q))

/-- A doorbell moves the tail of a pair from `x.sqtail`: the entries it makes visible, those that can be fetched at once apart (R343). -/
def ringBell (s : State) (q : Nat) (x : Queue) (tail : Nat) : List (Nat × Nat × Bool) :=
  let room := fetchRoom s q
  let n := qSqSize x
  if (tail + n - x.sqhead) % n ≤ room then [(tail, s.now, true)]
  else if room ≤ sqAvail x then [(tail, s.now, false)]
  else [((x.sqhead + room) % n, s.now, true), (tail, s.now, false)]

/-- DOORBELL (R310, R311): a pair that is not enabled ignores every write, one without a valid index among them. -/
def execDoorbell (q : Fin 4096) (w : BitVec 64) (s : State) : Host.Outcome State Fault Refusal :=
  let s := voteQueue s q
  let x := s.queue q
  let tail := (w.extractLsb' 0 16).toNat
  let head := (w.extractLsb' 32 16).toNat
  let tv := w.getLsbD 16
  let hv := w.getLsbD 48
  let bad := !qEn x || (tv && decide (qSqSize x ≤ tail)) || (hv && decide (qCqSize x ≤ head)) ||
    (hv && decide (cqUsed x < (head + qCqSize x - x.cqhead) % qCqSize x))
  .next (if bad then queueFault s q 0
    else
      let s := modQueue s q fun x => { x with
        sqtail := if tv then tail else x.sqtail
        cut := x.cut && !(tv && tail != x.sqtail)
        rung := if tv && tail != x.sqtail then x.rung ++ ringBell s q x tail else x.rung
        cqhead := if hv then head else x.cqhead }
      pump (dropBrought s (.ring q)) q)

/-- Whether a range of device memory lies wholly in general regions or session pools of backed slots (R523). -/
def ringOk (s : State) (a n : Nat) : Bool :=
  (piecesOf 512 a n).all fun x =>
    match devAddr s x.1 with
    | .error _ => false
    | .ok w => decide (w.off < (s.slice w.p).map.hc) && (addrCause s (devAddr s) x.1).isNone

/-- Levels of the partitions of a pair differ (R347). -/
def mixedLevels (s : State) (x : Queue) : Bool :=
  let ls := ((List.range 8).filter fun k => (qMask x).getLsbD k).map fun k => pentLevel (s.pent k)
  ls.any id && ls.any (!·)

/-- QUEUE_ENABLE (R308, R347, R523): a write of 1 to EN. A ring size R308 reserves leaves the pair disabled (log entry 12). -/
def enableQ (s : State) (q : Nat) : State :=
  let s := voteParts (voteQueue s q)
  let x := s.queue q
  let big := decide (12 < (x.cfg.extractLsb' 8 4).toNat ∨ 12 < (x.cfg.extractLsb' 12 4).toNat)
  if qEn x || big then s
  else if mixedLevels s x then queueFault s q 1
  else if (qSqDev x && !ringOk s x.base.use.sqbase.toNat (64 * qSqSize x)) ||
        (qCqDev x && !ringOk s x.base.use.cqbase.toNat (recLenOf s x * qCqSize x)) then queueFault s q 2
  else modQueue (dropBrought s (.ring q)) q fun x => { x with
    base := Tri.same { x.base.use with en := true }
    sqhead := 0, cqtail := 0, sqtail := 0, cqhead := 0, phase := true, faulted := false, closing := false, hold := []
    unsig := 0, unsigAt := 0, stallAt := none, sent := false, cut := false, rung := [] }

def execQueueEnable (q : Fin 4096) (s : State) : Host.Outcome State Fault Refusal := .next (enableQ s q)

/-- QUEUE_DISABLE (R309, R523): a write of 0 to EN ends the pair's commands as an ABORT would. A faulted pair discards its held records,
and those that are still to come. -/
def disableQ (s : State) (q : Nat) : State :=
  let s := voteQueue s q
  if qEn (s.queue q) && !(s.queue q).closing then
      let ids := (s.cmds.filter fun c => c.q = q).map (·.id)
      let s := modQueue (endCqStall s q) q fun x => { x with closing := true }
      let s := if (s.queue q).faulted then discardHeld s q else s
      closeIfDone (endCommands s ids stAborted 0).2 q
    else s

def execQueueDisable (q : Fin 4096) (s : State) : Host.Outcome State Fault Refusal := .next (disableQ s q)

/-- COALESCE_TIMEOUT (R349): COALUS microseconds after the first unsignalled record. No message leaves while the link is down (R467). -/
def execCoalesceTimeout (q : Fin 4096) (s : State) : Host.Outcome State Fault Refusal :=
  let x := s.queue q
  .next (if 0 < x.unsig ∧ 0 < qCoalUs x ∧ linkHeld s = false then
      let s := modQueue (notBefore s (x.unsigAt + 1000 * qCoalUs x)) q fun x => { x with unsig := 0 }
      if qIen x then sendMsix s (qVec x) else s
    else s)

/-! ### FENCE (R334) -/

/-- A fetched command of an opcode that has not begun. -/
def waitingCmd (s : State) (cid op : Nat) : Option Cmd :=
  match cmdBy s cid with
  | some c => if pktOp c.pkt = op ∧ c.stage = .checked then some c else none
  | none => none

/-- Commands fetched before another that have not completed. -/
def earlierCmds (s : State) (cid : Nat) : List Cmd := s.cmds.filter fun c => c.id < cid

/-- What the buffers of the slices of partitions have given back waits for its banks. -/
def drainWaits (s : State) (ks : List Nat) : Bool :=
  let ps := ks.flatMap (partSlices s)
  s.slices.any fun x => (List.range 4).any fun u => (x.2.sub u).queue.any fun e => ps.contains e.p &&
    match e.act with
    | .words _ => true
    | .rmw _ => true
    | _ => false

/-- A FENCE drains the buffers of partitions, and completes when what they held is stored (R197, R334). -/
def fenceThese (s : State) (cid : Nat) (ks : List Nat) : State :=
  let s := ks.foldl drainPart s
  if drainWaits s ks then s else finish s cid 0 0

/-- FENCE_QUEUE: every earlier command of its queue has completed; the buffers of the pair's partitions drain. -/
def execFenceQueue (cid : Nat) (s : State) : Host.Outcome State Fault Refusal :=
  .next (match waitingCmd s cid 0x0401 with
  | none => s
  | some c =>
    if pktField c.pkt 16 1 = 0 ∧ ((earlierCmds s cid).filter fun d => d.q = c.q) = [] then
      fenceThese s cid ((List.range 8).filter fun k => (qMask (s.queue c.q)).getLsbD k)
    else s)

/-- FENCE_PARTITION: every command fetched earlier for the partition has completed; its buffers drain. -/
def execFencePartition (cid : Nat) (s : State) : Host.Outcome State Fault Refusal :=
  .next (match waitingCmd s cid 0x0401 with
  | none => s
  | some c =>
    if pktField c.pkt 16 1 = 1 ∧
        ((earlierCmds s cid).filter fun d => isPartOp (pktOp d.pkt) ∧ pktPart d.pkt = pktPart c.pkt) = [] then
      fenceThese s cid [pktPart c.pkt]
    else s)

/-! ### ABORT (R341 to R344) -/

/-- An ABORT ends its targets in fetch order and answers with how many it ended; its record follows theirs. The twin's paired
commands end with it (R304). -/
def abortThese (s : State) (cid : Nat) (ids : List Nat) (before : Nat := 0) : State :=
  let r := endCommands s (ids.filter fun i => i ≠ cid) stAborted 0
  let left := ids.filter fun i => i ≠ cid ∧ (r.2.cmds.any fun c => c.id = i ∧ (c.stage = .recorded ∨ c.done.isSome = true)) = true
  finish (modCmd r.2 cid fun c => { c with targets := left }) cid 0 (before + r.1)

/-- A pair has entries that its reeve has not fetched and may not fetch yet (R312); a command that is not wholly visible is none of them. -/
def fetchBlocked (s : State) (q : Nat) : Bool :=
  let x := s.queue q
  fetching s && qEn x && !x.closing && !x.faulted && decide (0 < sqAvail x) && !x.cut && !(mayFetch s q && hasEntry s q)

/-- ABORT_QUEUE (R341): every entry of the queue up to its tail is fetched, and every fetched command ended. Where R312 lets no more be
fetched, those fetched so far are ended, and the ABORT goes on when their records have made room. -/
def execAbortQueue (cid : Nat) (s : State) : Host.Outcome State Fault Refusal :=
  .next (match waitingCmd s cid 0x0501 with
  | none => s
  | some c =>
    let q := pktField c.pkt 18 2
    let ids := (s.cmds.filter fun d => d.q = q).map (·.id)
    if pktField c.pkt 16 1 ≠ 0 ∨ (mayFetch s q && hasEntry s q) = true then s
    else if fetchBlocked s q then
      let r := endCommands s (ids.filter fun i => i ≠ cid) stAborted 0
      modCmd r.2 cid fun d => { d with detail := d.detail + BitVec.ofNat 64 r.1 }
    else abortThese s cid ids c.detail.toNat)

/-- ABORT_PARTITION: every command admitted to the partition or fetched for it. -/
def execAbortPartition (cid : Nat) (s : State) : Host.Outcome State Fault Refusal :=
  .next (match waitingCmd s cid 0x0501 with
  | none => s
  | some c =>
    let k := pktField c.pkt 18 2
    if pktField c.pkt 16 1 = 1 then
      if (qMask (s.queue c.q)).getLsbD k then
        abortThese s cid ((s.cmds.filter fun d => isPartOp (pktOp d.pkt) ∧ pktPart d.pkt = k).map (·.id))
      else finish s cid stBadPart 0
    else s)

/-- ABORT_SESSION: every such command that names the slot. -/
def execAbortSession (cid : Nat) (s : State) : Host.Outcome State Fault Refusal :=
  .next (match waitingCmd s cid 0x0501 with
  | none => s
  | some c =>
    if pktField c.pkt 16 1 = 2 then
      abortThese s cid ((s.cmds.filter fun d => cmdSlot d = some (pktField c.pkt 18 2)).map (·.id))
    else s)

/-- ABORT_BOUND_EXCEEDED (R343, R345): an ABORT's record is not visible 1 ms after its doorbell; time with the link down does not
count (R467), nor does one whose entry R312 did not let the reeve fetch at once. -/
def execAbortBoundExceeded (cid : Nat) (s : State) : Host.Outcome State Fault Refusal :=
  .next (match cmdBy s cid with
  | none => s
  | some c => if pktOp c.pkt = 0x0501 ∧ s.link.up ∧ c.atOnce then goFatal (notBefore s (c.bellAt + 1000000)) 0 else s)

end Sys2Proof.Machine
end

