-- ==== Sys2Proof/Machine/Slice.lean ====
section
/-! DEFINITION. The steps of a slice controller (R15, R196 to R200, R218, R219, R242, R243). -/

namespace Sys2Proof.Machine

/-! ### Ordinary accesses -/

/-- The links disturbed in each granule of a read, and on which of its reads. -/
abbrev ReadFlips := List (Nat × Nat × BitVec 4)

/-- One granule of an ordinary read: it waits in the queue of its sub-channel, or its data goes back to its source. -/
def readPiece (p : Nat) (src : Src) (flips : ReadFlips) (s : State) (x : Nat × Nat) : State :=
  let idx := sliceIndex s p
  let s := if (readQueue s p x.1).isNone && readFails s p idx x.1 x.2 flips then failRead s p x.1 else s
  match readQueue s p x.1 with
  | some (q, u) => enqueue s q u ⟨p, x.1, .read x.2 0 .source flips, src, s.now, false⟩
  | none =>
    let r := readSlice s p idx x.1 x.2 src (logPart s p) flips
    emit r.2 (.readData (r.1.map (·.1)) (anyPoison r.1))

/-- SLICE_READ (R15, R199, R219, R231, R232): an ordinary read, through the interleave, with checking and correction; the data goes back to
its source. Where a granule of it must wait, each granule goes back on its own (log entry 76). -/
def execSliceRead (p : Fin 512) (off len : Nat) (src : Src) (flips : List (Nat × Fin 320)) (again : List (Nat × Fin 320 × BitVec 3))
    (s : State) : Host.Outcome State Fault Refusal :=
  let fs : ReadFlips := flips.map (fun f => (f.1, f.2.val, 1)) ++ again.map fun f => (f.1, f.2.1.val, f.2.2 ++ 0#1)
  let ps := piecesOf 64 off len
  .next (if (s.slice p).lost then emit s (.readData (List.replicate len 0) true)
    else if ps.any fun x => (readQueue s p x.1).isSome || readFails s p (sliceIndex s p) x.1 x.2 fs then
      ps.foldl (readPiece p src fs) s
    else
      let r := readSlice s p (sliceIndex s p) off len src (logPart s p) fs
      emit r.2 (.readData (r.1.map (·.1)) (anyPoison r.1)))

/-- The code words of bytes that go to the banks at once, with their locations: a whole granule, or the words that poisoned bytes
touch (R196, R365). -/
def directWords (s : State) (p off : Nat) (data : List Byte) (poison : Bool) : List (Loc × BitVec 80) :=
  let a := off / 8 * 8
  let n := if poison then cdiv (off + data.length) 8 - off / 8 else if data.length = 64 then 8 else 0
  (List.range n).filterMap fun i => (placeOf s p (a + 8 * i)).map fun x =>
    (x.2, if poison then poisonWord x.2 else encodeWord x.2 (BitVec.ofNat 64 (leNat ((data.drop (8 * i)).take 8))))

/-- What a layer receives of code words when links deliver inverted bits. -/
def receivedWords (w : Width) (ws : List (Loc × BitVec 80)) (links : List Nat) : List (Loc × BitVec 80) :=
  ws.map fun x => (x.1, received w x.2 x.1.w links)

/-- One granule of an ordinary write: it waits in the queue of its sub-channel, or it is written. A granule that the layer finds in error is
not stored: it is kept to be resent (R230). -/
def sendPiece (p : Nat) (src : Src) (flips : List (Nat × Nat)) (s : State) (x : Nat × List Byte × Bool) : State :=
  match writeQueue s p x.1 with
  | some (q, u) => enqueue s q u ⟨p, x.1, .write x.2.1 x.2.2 .source false, src, s.now, false⟩
  | none =>
    let ws := directWords s p x.1 x.2.1 x.2.2
    let links := (flips.filter fun f => f.1 = x.1 / 64).map (·.2)
    match placeOf s p x.1 with
    | none => writeGran s p (sliceIndex s p) x.1 x.2.1 x.2.2 src .source
    | some (q, l) =>
      let u := slotSub l.k
      let got := receivedWords ((s.slice q).sub u).width ws links
      if biTracked s p x.1 src || got == ws then writeGran s p (sliceIndex s p) x.1 x.2.1 x.2.2 src .source
      else if got.all fun y => syndrome y.1 y.2 == 0 then
        got.foldl (fun s y => putAt s (bankKey s q y.1) y.2) (writeGran s p (sliceIndex s p) x.1 x.2.1 x.2.2 src .source)
      else modSub (countGran s q l.k 2) q u fun y => { y with resend := y.resend ++ [(p, x.1, x.2.1, x.2.2)] }

/-- SLICE_WRITE (R196, R219, R230): an ordinary write, its parts sorted into the banks and the buffers. -/
def execSliceWrite (p : Fin 512) (off : Nat) (data : Sent) (poison : Bool) (src : Src) (s : State) : Host.Outcome State Fault Refusal :=
  .next (if (s.slice p).lost then s
    else (markedPieces off data.bytes fun _ => poison).foldl (sendPiece p src (data.flips.map fun f => (f.1, f.2.val))) s)

/-- WRITE_COMBINING_DRAIN (R197): a line has received no write for 256 ns. -/
def execWriteCombiningDrain (p : Fin 512) (line : Nat) (s : State) : Host.Outcome State Fault Refusal :=
  .next (match (s.slice p).wcb.find? fun l => l.line == line with
  | none => s
  | some l => account (drainLine (notBefore s (l.last + 256)) p l))

/-- READ_MODIFY_WRITE (R198): a word has waited 64 ns in the merge buffer. -/
def execReadModifyWrite (p : Fin 512) (word : Nat) (s : State) : Host.Outcome State Fault Refusal :=
  .next (match (s.slice p).mgb.find? fun m => m.word == word with
  | none => s
  | some m => rmwWord (notBefore s (m.since + 64)) p m)

/-! ### Imbalance (R218) -/

/-- Granules a sub-channel can move in 1 ms. -/
def subPeak (y : SubCh) : Nat :=
  match y.width with
  | .full => 1000000
  | .foldL => 500000
  | .foldH => 500000
  | .retired => 0

/-- The busiest sub-channel of a window and its granules; the lowest of equals. -/
def busiest (t : Table Nat) : Nat × Nat :=
  (List.range 4).foldl (fun b u => if b.2 < tget zeroN t u then (u, tget zeroN t u) else b) (0, 0)

/-- Slices of a partition whose last window was imbalanced. -/
def imbalanced (s : State) (k : Nat) : List Nat := (partSlices s k).filter fun q => 0 < (s.slice q).imbal

/-- The slice with the largest share; the first of equals. -/
def largestShare (s : State) : List Nat → Option Nat
  | [] => none
  | q :: r =>
    match largestShare s r with
    | none => some q
    | some x => if (s.slice x).share.2 ≤ (s.slice q).share.2 then some q else some x

/-- HASH_IMBALANCE for a partition, at most once per 60 s. -/
def hashImbalance (s : State) (k : Nat) : State :=
  let due := match (s.part k).hashAt with
    | none => true
    | some t => decide (t + 60000000000 ≤ s.now)
  let l := imbalanced s k
  match largestShare s l with
  | none => s
  | some q =>
    if due then
      raise (modPart (bump s (ctrPart k 4) 1) k fun x => { x with hashAt := some s.now }) 0x0001 0
        [(16, 1, k), (17, 1, (s.slice q).share.1), (18, 2, q), (20, 2, (s.slice q).share.2), (22, 2, l.length)]
    else s

/-- IMBALANCE_WINDOW (R218): a window of 1 ms ends and is judged, and the next begins. -/
def execImbalanceWindow (p : Fin 512) (s : State) : Host.Outcome State Fault Refusal :=
  let x := s.slice p
  let s := notBefore s (x.winAt + 1000000)
  let s := modSlice s p fun x => { x with winAt := s.now }
  let total := ((List.range 4).map fun u => tget zeroN x.gran u).foldl (· + ·) 0
  let peak := ((List.range 4).map fun u => subPeak (x.sub u)).foldl (· + ·) 0
  let b := busiest x.gran
  let bad := decide (0 < total ∧ peak ≤ 20 * total ∧ total < 2 * b.2)
  .next (if bad then
      let s := modSlice (bump s (ctrSlice p 18) 1) p fun x => { x with gran := [], imbal := x.imbal + 1, share := (b.1, b.2 * 1024 / total) }
      if 100 ≤ (s.slice p).imbal then
        match dataSeat s p with
        | some (k, _) => hashImbalance s k
        | none => s
      else s
    else modSlice s p fun x => { x with gran := [], imbal := 0, share := (0, 0) })

/-- QUEUE_ENTRY_FREE (R219): the first access of a sub-channel's queue that can be served is served, its entry frees, and a request that
waited for one takes it. The records whose writes it stores go on (R219). -/
def execQueueEntryFree (p : Fin 512) (u : Fin 4) (s : State) : Host.Outcome State Fault Refusal :=
  .next (match serveNext s p u (fun _ => true) false with
  | some (_, t) => pumpAll t
  | none => s)

/-- GLEANER_YIELD (R142): a gleaner yields to the ordinary accesses that wait for its pair, and finishes its row. -/
def execGleanerYield (p : Fin 512) (layer : Fin 12) (u : Fin 4) (s : State) : Host.Outcome State Fault Refusal :=
  let g := 4 * layer.val + u.val
  .next (if canYield s p u g then pumpAll (yieldUnit s p u g) else s)

/-! ### Refresh (R242, R243) -/

/-- Whether an ordinary access to a bank is queued. -/
def bankWaits (s : State) (p k : Nat) : Bool :=
  ((s.slice p).sub (slotSub k)).queue.any fun e => e.bank s == some k

/-- REFRESH_DUE: a refresh of a bank falls due, while it has power (R245). It is held while ordinary accesses to the bank are queued and fewer
than 4 are pending; otherwise every pending one is issued with it. DESIGN CHOICE (log entry 77): none is issued ahead while a bank is
idle, which R243 allows. -/
def execRefreshDue (p : Fin 512) (layer : Fin 12) (bank : Fin 8) (s : State) : Host.Outcome State Fault Refusal :=
  let k := 8 * layer.val + bank.val
  let n := tget zeroN (s.slice p).refPend k
  .next (if logicRails s = false ∨ isRetired s p (slotSub k) = true then s
    else if bankWaits s p k = true ∧ n < 4 then modSlice s p fun x => { x with refPend := tset zeroN x.refPend k (n + 1) }
    else refreshBank s p k (n + 1) n)

end Sys2Proof.Machine
end

