-- ==== Sys2Proof/Machine/Stack.lean ====
section
/-! DEFINITION. The vertical links (R226 to R247): resends, the link test with its spares, folds and retirements, and recentring. -/

namespace Sys2Proof.Machine

/-! ### The parts of a sub-channel -/

/-- Group of a data link (R226). -/
def linkGroup (l : Nat) : Nat := l / 32

/-- Half of a data link: false L, true H (R226). -/
def linkHalf (l : Nat) : Bool := !([0, 1, 2, 3, 8].contains (linkGroup l))

/-- Whether the working half of a width holds a data link. -/
def inWidth (w : Width) (l : Nat) : Bool :=
  match w with
  | .full => true
  | .foldL => !linkHalf l
  | .foldH => linkHalf l
  | .retired => false

/-- A width folded to the half that is not the failed link's. -/
def foldAway (l : Nat) : Width := if linkHalf l then .foldL else .foldH

/-- What the judging of failed links comes to: the links that shift towards a spare, and those newly permanent, the vias of command links as
320 + 2·i + copy. -/
structure Judged where
  sub     : SubCh
  spares  : Nat
  folded  : Option Width
  retire  : Bool
  perm    : List Nat
  shifted : List Nat

/-- A permanent data link takes its group's spare, where that is free, and the links of the group above it shift (R233). -/
def Judged.spare (j : Judged) (l : Nat) : Judged :=
  { j with
    sub := { j.sub with spUsed := j.sub.spUsed ||| BitVec.twoPow 10 (linkGroup l) }
    spares := j.spares + 1
    perm := j.perm ++ [l]
    shifted := j.shifted ++ (List.range (32 * (linkGroup l + 1))).drop (l + 1) }

/-- A permanent data link (R233, R235, R236): its group's spare, a fold to the other half, or retirement. -/
def judgeData (j : Judged) (l : Nat) : Judged :=
  let y := j.sub
  if j.retire || !inWidth y.width l || y.badLink.contains l then j
  else if y.spUsed.getLsbD (linkGroup l) = false then
    j.spare l
  else if y.width = .full ∧ y.badLink.all (fun m => linkHalf m == linkHalf l) = true then
    { j with sub := { y with width := foldAway l, badLink := y.badLink ++ [l], early := true }, folded := some (foldAway l), perm := j.perm ++ [l] }
  else { j with retire := true, perm := j.perm ++ [l] }

/-- The permanent data links of one test: the spares that are free are taken first, so that a fold does not stand before them, and then the
others are judged, each in increasing order. -/
def judgeAll (j : Judged) (ls : List Nat) : Judged :=
  let ls := sortBy id ls
  let first := ls.filter fun l => !j.sub.spUsed.getLsbD (linkGroup l) && inWidth j.sub.width l && !j.sub.badLink.contains l &&
    !(ls.any fun m => decide (m < l) && linkGroup m == linkGroup l)
  (ls.filter fun l => !first.contains l).foldl judgeData (first.foldl judgeData j)

/-- A failed via of a command link: 2·i + copy. The other via serves; the second failure takes a command spare, and so does a failure of
the spare (R233, R236). -/
def judgeVia (j : Judged) (v : Nat) : Judged :=
  let y := j.sub
  let both := y.viaBad.contains (if v % 2 = 0 then v + 1 else v - 1)
  if j.retire || (y.viaBad.contains v && !both) then j
  else
    let y := if y.viaBad.contains v then y else { y with viaBad := y.viaBad ++ [v] }
    let j := { j with perm := j.perm ++ [320 + v] }
    if both = false then { j with sub := y }
    else if y.casp < 2 then { j with sub := { y with casp := y.casp + 1 }, spares := j.spares + 1 }
    else { j with sub := y, retire := true }

/-- Command links on one via (CA1, R246): those with a failed via; with both failed they are on a spare, which has one via (R233). -/
def oneVia (y : SubCh) : Nat :=
  ((List.range 16).filter fun i => y.viaBad.contains (2 * i) || y.viaBad.contains (2 * i + 1)).length

/-- Stored corrections that permanent data links account for leave the bucket, the tracking table, CE_COUNT and CE_DOUBLE (R232, R373). -/
def withdraw (s : State) (p u : Nat) (links : List Nat) : State :=
  let cs := ((((s.slice p).sub u).hits.filter fun h => links.contains h.link).filterMap (·.corr)).eraseDups
  let s := modSlice s p fun x => { x with
    bucket := x.bucket - cs.length
    track := x.track.filter fun t => !(cs.any fun c => c.loc == t.loc) }
  unbump (unbump s (ctrSlice p 33) cs.length) (ctrSlice p 34) (cs.filter (·.double)).length

/-- New link repairs enter the defect map (R234, R402): data links, and vias of command links as 320 + 2·i + copy. -/
def noteLinks (s : State) (p u : Nat) (links : List Nat) : State :=
  links.foldl (fun s l => addDefect s (if l < 320 then .link (Fin.ofNat 512 p) (Fin.ofNat 4 u) (Fin.ofNat 320 l)
    else .cmdLink (Fin.ofNat 512 p) (Fin.ofNat 4 u) (Fin.ofNat 16 ((l - 320) / 2)) (Fin.ofNat 2 (l - 320)))) s

/-- The sampling points of links that have shifted are set to the centres of their eyes, as the hold measures them (R233). -/
def centreLinks (s : State) (p u : Nat) (links : List Nat) : State :=
  let n := s.free
  let keys := links.flatMap fun l => (List.range 24).map fun i => 24 * l + i
  drew (modSub s p u fun y => { y with sample := keys.foldl (fun t k => tset zeroI t k (Config.eyeCentre n k)) y.sample })

/-- The granules a layer has refused are sent again, and stored (R230). -/
def storeResent (s : State) (p u : Nat) : State :=
  let rs := ((s.slice p).sub u).resend
  let s := modSub s p u fun y => { y with resend := [], tries := 0 }
  rs.foldl (fun s r => writeGran s r.1 (sliceIndex s r.1) r.2.1 r.2.2.1 r.2.2.2 .square .source) s

/-- The hold of a sub-channel ends: its time is counted, and what failed is sent again. What was queued is served as its entries free. -/
def releaseHold (s : State) (p u : Nat) : State :=
  let s := modSub (countHold s p u) p u fun y => { y with held := false, suspect := [], hits := y.hits.filter fun h => ¬ y.suspect.contains h.link }
  storeResent s p u

/-- A sub-channel has folded: VL_FOLD counts it, and LINK_FOLD is raised (R235). -/
def foldEvent (s : State) (p u : Nat) (w : Width) : State :=
  raise (bump s (ctrSlice p 25) 1) 0x0002 1 [(16, 2, p), (18, 1, u), (19, 1, if w = .foldL then 0 else 1)]

/-- LINK_TEST_DONE (R232 to R237): 64 ns after the hold the test ran for 1.0 µs. Links that failed are permanent; those that passed
start again. -/
def execLinkTestDone (p : Fin 512) (u : Fin 4) (failed : List (Fin 352)) (s : State) : Host.Outcome State Fault Refusal :=
  let y := (s.slice p).sub u
  .next (if y.held then
      let s := notBefore s (y.heldAt + 1064)
      let failed := (failed.map (·.val)).eraseDups
      let data := failed.filter fun l => decide (l < 320) && y.suspect.contains l
      let vias := (failed.filter fun l => decide (320 ≤ l) && y.suspect.contains (320 + (l - 320) / 2)).map (· - 320)
      let j := vias.foldl judgeVia (judgeAll ⟨y, 0, none, false, [], []⟩ data)
      let s := withdraw s p u data
      let s := if j.folded.isSome && !j.retire then advance s 500 else if 0 < j.spares then advance s 200 else s
      let s := if 0 < j.spares then bump s (ctrSlice p 24) j.spares else s
      let s := modSub s p u fun _ => j.sub
      let s := if j.perm.isEmpty && vias.isEmpty then s else genUp s
      let s := noteLinks s p u j.perm
      if j.retire then pumpAll (retireOrLose s p u)
      else
        let s := if j.shifted.isEmpty then s else centreLinks s p u j.shifted
        let s := releaseHold s p u
        pumpAll (match j.folded with
        | some w => foldEvent s p u w
        | none => s)
    else s)

/-! ### Errors that a layer finds (R228 to R230) -/

/-- CRC-8 of the first 52 bits of a command: polynomial x⁸ + x² + x + 1, initial value 0xFF (R228). Bit i of the word is sent i-th (log
entry 78). -/
def crc8 (w : BitVec 60) : Nat :=
  (List.range 52).foldl (fun c i => (c * 2 % 256) ^^^ (if xor (w.getLsbD i) (c.testBit 7) then 7 else 0)) 0xFF

/-- Whether a command passes its check: bits 52 to 59 are its CRC, the highest bit first. -/
def cmdGood (w : BitVec 60) : Bool := (List.range 8).all fun j => w.getLsbD (52 + j) == (crc8 w).testBit (7 - j)

/-- ERROR_RETURN (R229, R230, R232): a layer has found a command whose CRC fails, or a write granule with a syndrome. It is discarded, and
every command and write granule sent in the 8 ns before is resent in order; a refused granule is then stored. Until the resent copies have
arrived the sub-channel takes no access. When they have failed three times, every link they used is suspect. An access of the model that was
carried out before the error return came is not undone: the resent copies store the same bytes (log entry 78). -/
def execErrorReturn (p : Fin 512) (u : Fin 4) (cmd : Bool) (word : BitVec 60) (again : Bool) (s : State) : Host.Outcome State Fault Refusal :=
  let y := (s.slice p).sub u
  let last := y.sent.filter fun e => decide (s.now ≤ e.1 + 8)
  let fails := if cmd then !cmdGood word else !y.resend.isEmpty || last.any fun e => decide (0 < e.2.2)
  .next (if isRetired s p u = true ∨ y.held = true ∨ fails = false then s
    else
      let s := bump (bump s (ctrSlice p 20) 1) (ctrSlice p 21) ((last.map fun e => e.2.1 + e.2.2).foldl (· + ·) 0)
      if again = false then pumpAll (storeResent s p u)
      else if y.tries + 1 < 3 then modSub s p u fun y => { y with tries := y.tries + 1 }
      else suspectLinks (modSub s p u fun y => { y with tries := 0 }) p u
        (if cmd then cmdLinks else linksOf y.width ++ cmdLinks))

/-! ### Recentring (R239, R240) -/

/-- A measured eye: link, layer, direction, width in 1/100 UI, and centre in 1/64 UI. -/
abbrev Eye := Fin 336 × Fin 12 × Fin 2 × Nat × Int

/-- Key of a sampling point: link, layer and direction. -/
def Eye.key (x : Eye) : Nat := 24 * x.1.val + 2 * x.2.1.val + x.2.2.1.val

/-- A sampling point moves towards the centre of its eye, by two steps of 1/64 UI at most (R239). -/
def movePoint (t : Table Int) (x : Eye) : Table Int :=
  let c := tget zeroI t x.key
  tset zeroI t x.key (c + max (-2) (min 2 (x.2.2.2.2 - c)))

/-- One measured eye: narrow ones make the link suspect, marginal ones are marked and reported once per link. -/
def eyeOf (p u : Nat) (s : State) (x : Eye) : State :=
  let l := x.1.val
  let w := x.2.2.2.1
  if w < 20 then suspectLinks s p u [l]
  else if w < 35 then
    let y := (s.slice p).sub u
    if y.warned.contains l then s
    else
      let s := modSub s p u fun y => { y with margin := true, warned := y.warned ++ [l] }
      raise (genUp s) 0x0003 0 [(16, 2, p), (18, 1, u), (19, 1, x.2.1), (20, 2, l)]
  else s

/-- Links found marginal in a pass. -/
def marginalLinks (eyes : List Eye) : List Nat :=
  ((eyes.filter fun x => decide (20 ≤ x.2.2.2.1 ∧ x.2.2.2.1 < 35)).map (·.1.val)).eraseDups

/-- RECENTRING_PASS (R239, R240): every 2 s; a held sub-channel is skipped until its next period, and a retired one, or one of a slice under migration
(R423), is not taken. MARGIN follows
the eyes measured last; a link marginal on three passes running is due for retraining (R421). -/
def execRecentringPass (p : Fin 512) (u : Fin 4) (eyes : List (Fin 336 × Fin 12 × Fin 2 × Nat × Int)) (s : State) :
    Host.Outcome State Fault Refusal :=
  let y := (s.slice p).sub u
  .next (if isRetired s p u || (s.croft p).mig then s
    else
      let s := notBefore s (y.passAt + 2000000000)
      let s := modSub s p u fun y => { y with passAt := s.now }
      if y.held then s
      else
        let m := marginalLinks eyes
        let runs := m.foldl (fun t l => tset zeroN t l (tget zeroN y.lowRuns l + 1)) []
        let s := modSub (bump s (ctrSlice p 28) 1) p u fun y => { y with
          sample := eyes.foldl movePoint y.sample
          margin := !m.isEmpty
          lowRuns := runs
          early := y.early || runs.any fun e => decide (3 ≤ e.2) }
        let s := if y.margin = !m.isEmpty then s else genUp s
        eyes.foldl (eyeOf p u) s)

/-- IDLE_BEAT_INSERT (R239): a pass that has found no idle beats within 10 ms inserts them, at most 64 in any 10 µs. -/
def execIdleBeatInsert (p : Fin 512) (u : Fin 4) (beats : Nat) (s : State) : Host.Outcome State Fault Refusal :=
  .next (if isRetired s p u || ((s.slice p).sub u).held || (s.croft p).mig then s
    else
      let s := notBefore s (((s.slice p).sub u).passAt + 2010000000)
      let last := ((s.slice p).sub u).beats.filter fun b => decide (s.now < b.1 + 10000)
      let n := min beats (64 - (last.map (·.2)).foldl (· + ·) 0)
      modSub (bump s (ctrSlice p 29) n) p u fun y => { y with beats := last ++ [(s.now, n)] })

/-- CLOCK_PAIR_FAILURE (R233, R236): the spare pair takes over within 0.5 µs of hold; with both pairs failed the sub-channel retires. -/
def execClockPairFailure (p : Fin 512) (u : Fin 4) (s : State) : Host.Outcome State Fault Refusal :=
  let y := (s.slice p).sub u
  .next (if isRetired s p u then s
    else if y.clkSp then pumpAll (retireOrLose s p u)
    else
      let s := bump (advance s 500) (ctrSlice p 24) 1
      let s := if y.held then s else bump s (ctrSlice p 27) 500
      addDefect (genUp (modSub s p u fun y => { y with clkSp := true })) (.clock (Fin.ofNat 512 p) (Fin.ofNat 4 u)))

end Sys2Proof.Machine
end

