-- ==== Sys2Proof/Machine/Record.lean ====
section
/-! DEFINITION. What the QH9 reports of itself: the floor-plan record (R405 to R409) and the telemetry space (R461, R462, R519 to R522). -/

namespace Sys2Proof.Machine

/-! ### The floor-plan record -/

def cstateCode : CState → Nat
  | .active => 0
  | .fallow => 1
  | .sliceOnly => 2
  | .failed => 3

def widthCode : Width → Nat
  | .full => 0
  | .foldL => 1
  | .foldH => 2
  | .retired => 3

def reeveCode : ReeveSt → Nat
  | .healthy => 0
  | .fallow => 1
  | .halted => 2

/-- The link-state word of a sub-channel (R246). -/
def linkWord (y : SubCh) : Nat :=
  widthCode y.width + y.spUsed.toNat * 2 ^ 2 + min y.casp 2 * 2 ^ 12 + y.clkSp.toNat * 2 ^ 14 + y.margin.toNat * 2 ^ 15 +
    oneVia y * 2 ^ 16

/-- Layers with a bank that has no free spare row: none left, or none that is not itself bad (SPEXH). -/
def spexhBits (s : State) (p : Nat) : Nat :=
  ((List.range 12).map fun l => if (List.range 8).any fun b =>
    (goodSpare s.floor.rows.use p (8 * l + b) (tget zeroN (s.slice p).spCount (8 * l + b))).isNone then 2 ^ l else 0).foldl (· + ·) 0

/-- Whether the tests of a bring-up have been made: a croft entry's LIVE, SHARDOK and HC are 0 before them (R407). -/
def tested (s : State) : Bool := s.boot.warm || s.boot.stage == .ready

/-- The 64 B entry of a croft (R407). -/
def croftEntry (s : State) (p : Nat) : Nat :=
  let c := s.croft p
  let x := s.slice p
  let on := (tested s).toNat
  let bad := sortBy id c.badLanes
  let w0 := cstateCode c.cstate + c.fused.toNat * 2 ^ 3 + c.testFail.toNat * 2 ^ 4 + c.svcFail.toNat * 2 ^ 5 + c.mig.toNat * 2 ^ 6 +
    (shardOk s p).toNat * on * 2 ^ 7 + c.inPart.toNat * 2 ^ 8 + (if c.inPart then c.part * 2 ^ 9 + c.pidx * 2 ^ 16 else 0)
  let w1 := bad.getD 0 255 * 2 ^ 32 + bad.getD 1 255 * 2 ^ 40 + min bad.length 3 * 2 ^ 48 + (liveOf s p).toNat * on * 2 ^ 50
  let w2 := x.map.hc / 65536 * on * 2 ^ 64 + c.partner * 2 ^ 80 + x.glFallow.toNat * 2 ^ 96 + x.chainSp.toNat * 2 ^ 144 +
    x.chainData.toNat * 2 ^ 192 + spexhBits s p * 2 ^ 240
  let w3 := ((List.range 4).map fun u => linkWord (x.sub u) * 2 ^ (256 + 32 * u)).foldl (· + ·) 0
  w0 + w1 + w2 + w3 + c.migRow * 2 ^ 384

/-- The identity word of a village (R256). VNUM of a reserved rotation is a free value. -/
def identityWord (s : State) (v : Nat) : Nat :=
  let x := s.port v
  if x.trained = false then 0
  else
    let num := match strapVillage x.rot x.mir with
      | some n => n
      | none => (freeVal 2 s).toNat
    x.rot.toNat + x.mir.toNat * 2 ^ 2 + num * 2 ^ 3 + v * 2 ^ 5 + x.idOk.toNat * 2 ^ 7 + (xor (x.rot.getLsbD 1) x.mir).toNat * 2 ^ 8

/-- The port word of a port and direction (R408). -/
def portWord (s : State) (v dir : Nat) : Nat :=
  let x := s.port v
  ((List.range 16).map fun g => (if (x.group dir g).retired then 0 else 2 ^ g) + min (x.group dir g).spares 3 * 2 ^ (16 + 2 * g)).foldl
    (· + ·) 0 + min (tget zeroN x.bellBad dir) 2 * 2 ^ 48

/-- The partition word (R408). -/
def partWord (s : State) (k : Nat) : Nat := partN s k + nrun s k * 2 ^ 16 + (s.part k).capFault.toNat * 2 ^ 32

/-- The header (R406). -/
def planHeader (s : State) : List Byte :=
  le 2 1 ++ le 2 0 ++ le 4 (32960 + 8 * s.floor.lost.length) ++ le 8 s.floor.gen ++ le 2 (activeAll s) ++
    (List.range 4).flatMap (fun v => le 2 (activeIn s v)) ++
    le 1 (s.floor.short.toNat + s.floor.eepromBad.toNat * 2 + s.boot.retShort.toNat * 4 + s.floor.lostOver.toNat * 8) ++
    le 1 s.dev.env ++ (List.range 4).flatMap (fun v => le 2 (identityWord s v)) ++
    (List.range 16).flatMap (fun r => le 1 (reeveCode (s.reeve r))) ++ le 2 s.floor.lost.length ++
    (List.range 3).flatMap (fun i => le 1 (s.boot.rtemp.getD i 0)) ++ le 7 0

/-- The whole record (R405). -/
def planRecord (s : State) : List Byte :=
  planHeader s ++ (List.range 512).flatMap (fun p => le 64 (croftEntry s p)) ++
    (List.range 8).flatMap (fun i => le 8 (portWord s (i / 2) (i % 2))) ++ (List.range 8).flatMap (fun k => le 8 (partWord s k)) ++
    s.floor.lost.flatMap fun w => le 8 w.toNat

/-! ### Thermal words -/

/-- The number of a sensor in the tables of the thermal controller: diodes, ring oscillators, quadrant diodes, square diodes. -/
def sensorNo : SensorId → Nat
  | .diode p => p
  | .ringOsc p => 512 + p
  | .tile t q => 1024 + 4 * t + q
  | .square i => 1792 + i

/-- The low 12 bits of a temperature. -/
def temp12 (t : Int) : Nat := (t % 4096).toNat

/-- The low 16 bits of a temperature. -/
def temp16 (t : Int) : Nat := (t % 65536).toNat

/-- θ of a croft's portion; 0 outside every partition. -/
def croftTheta (s : State) (p : Nat) : Nat :=
  match partOf s p with
  | some k => thetaOf s k (villageOf p)
  | none => 0

/-- The thermal word of a croft (R461). -/
def croftThermal (s : State) (p : Nat) : Nat :=
  let t := s.therm
  temp12 (tget zeroI t.croftT p) + (tget zeroB t.suspect p).toNat * 2 ^ 12 + (tget zeroB t.suspect (512 + p)).toNat * 2 ^ 13 +
    tget zeroN t.croftSrc p * 2 ^ 14 + croftTheta s p * 2 ^ 16 + (tget zeroB t.cap50 p).toNat * 2 ^ 22 + (s.croft p).heater.toNat * 2 ^ 23

/-- No canary temperature yet. -/
def noTemp (_ : Nat) : Option Int := none

/-- The word of a layer tile (R462). CANT is the highest of its quadrants' latest checks, in 0.5 K. -/
def tileThermal (s : State) (i : Nat) : Nat :=
  let t := s.therm
  let sus := ((List.range 4).map fun q => (tget zeroB t.suspect (1024 + 4 * i + q)).toNat * 2 ^ q).foldl (· + ·) 0
  let cant := ((List.range 4).map fun q => ((tget noTemp t.canNow (4 * i + q)).getD 0) / 4).foldl max 0
  temp12 (tget zeroI t.tileT i) + sus * 2 ^ 12 + tget zeroN t.tileSrc i * 2 ^ 16 + (tget zeroB t.dbl i).toNat * 2 ^ 18 +
    (tget zeroB t.canOk i).toNat * 2 ^ 19 + (cant % 4096).toNat * 2 ^ 20

/-! ### The thermal status record (R456, R521) -/

/-- Ds of a village, in parts per million: the weights of R456 are in 1/10,000. -/
def consumedLife (x : Life) : Nat := (x.hc0 * 861 + x.hc1 * 3088 + x.hc2 * 7162 + x.hc3 * 13424) / 1000

def lifeOf (s : State) (v : Nat) : Life := tget life0 s.therm.life.use.v v

/-- B, in parts per million: powered-on hours against 61,320. -/
def lifeBudget (s : State) : Nat := s.therm.life.use.secs * 1000000 / (3600 * 61320)

/-- rthj starts at 0.150 K/W and rthm at 0.120 K/W (R446). -/
def rthj0 (_ : Nat) : Nat := 150000
def rthm0 (_ : Nat) : Nat := 120000

/-- Stack caps before the firmware sets any: those of E3, the envelope of a cold start (log entry 3). -/
def vcap0 (_ : Nat) : Nat := 165000

def thermalStatus (s : State) : List Byte :=
  let t := s.therm
  let warm := ((List.range 4).map fun v => (tget zeroB t.warmhold v).toNat * 2 ^ (4 + v)).foldl (· + ·) 0
  le 2 (temp16 t.tin) ++ le 2 (temp16 t.tout) ++ le 2 t.flow ++ le 2 s.dev.airneed.toNat ++
    le 1 (t.coolfault.toNat + t.flowstop.toNat * 2 + t.lifeReset.toNat * 4 + warm) ++ le 7 0 ++ le 4 (lifeBudget s) ++ le 12 0 ++
    (List.range 4).flatMap (fun v => le 4 (tget zeroN t.vMean v) ++ le 4 (tget vcap0 t.vcap v) ++ le 4 (tget rthj0 t.rthj v) ++
      le 4 (tget rthm0 t.rthm v) ++ le 4 (consumedLife (lifeOf s v)) ++ le 12 0) ++ le 96 0

/-! ### The telemetry space -/

/-- The 64 B descriptor of a session slot (R156). -/
def sessBits (x : Sess) (newlen : Nat) : BitVec 512 :=
  BitVec.ofNat 512 (x.state.toNat + x.part.toNat * 2 ^ 2 + x.slide.toNat * 2 ^ 5 + x.laym1.toNat * 2 ^ 8 + x.headm1.toNat * 2 ^ 12 +
    x.dh128.toNat * 2 ^ 16 + x.kvfmt.toNat * 2 ^ 17 + x.capbm1.toNat * 2 ^ 32 + x.first.toNat * 2 ^ 48 + x.len.toNat * 2 ^ 64 +
    x.poff.toNat * 2 ^ 96 + x.ext.toNat * 2 ^ 128 + newlen * 2 ^ 160 + x.commits.toNat * 2 ^ 192)

/-- Two 4 B values in one 8 B value. -/
def twoWords (f : Nat → Nat) (i : Nat) : Nat := f (2 * i) % 2 ^ 32 + f (2 * i + 1) % 2 ^ 32 * 2 ^ 32

/-- The 8 B value at byte 8·i of the telemetry space (R519). Counter blocks hold their counters at these places. -/
def telWord (s : State) (i : Nat) : Nat :=
  let b := 8 * i
  if 0x1000 ≤ b ∧ b < 0x1100 then bitsOf (s.pent ((b - 0x1000) / 32)).toNat (8 * (b % 32)) 64
  else if 0x1100 ≤ b ∧ b < 0x1140 then bitsOf s.twin.record.toNat (8 * (b - 0x1100)) 64
  else if 0x1200 ≤ b ∧ b < 0x1300 then leNat (((thermalStatus s).drop (b - 0x1200)).take 8)
  else if 0x2000 ≤ b ∧ b < 0x2800 then twoWords (croftThermal s) ((b - 0x2000) / 8)
  else if 0x2800 ≤ b ∧ b < 0x2B00 then twoWords (tileThermal s) ((b - 0x2800) / 8)
  else if 0x80000 ≤ b ∧ b < 0x90000 then bitsOf (s.queue ((b - 0x80000) / 16)).last.toNat (128 + 8 * (b % 16)) 64
  else if 0x90000 ≤ b ∧ b < 0x94000 then twoWords (tget zeroN s.bells) ((b - 0x90000) / 8)
  else if 0x94000 ≤ b ∧ b < 0x98000 then twoWords (tget zeroN s.sems) ((b - 0x94000) / 8)
  else if 0xA0000 ≤ b ∧ b < 0xC0000 then bitsOf (tget elog0 s.elog ((b - 0xA0000) / 32)).toNat (8 * (b % 32)) 64
  else if 0x100000 ≤ b ∧ b < 0x200000 then bitsOf (sessBits (s.ses ((b - 0x100000) / 64)) 0).toNat (8 * (b % 64)) 64
  else if b < 0x200000 then tget zeroN s.ctr i % 2 ^ 64
  else 0

/-- Telemetry bytes from an offset (R340). -/
def telemetry (s : State) (off len : Nat) : List Byte :=
  (List.range (len / 8)).flatMap fun i => le 8 (telWord s (off / 8 + i))

end Sys2Proof.Machine
end

