-- ==== Sys2Proof/Machine/Heat.lean ====
section
/-! DEFINITION. Heater duty and warm-hold (R453, R456, R457). -/

namespace Sys2Proof.Machine

/-! ### What an envelope sets (R424, R442) -/

/-- Croft clock of an envelope, in MHz. -/
def envClock (e : Nat) : Nat := if e = 1 then 3600 else if e = 2 then 3200 else 2600

/-- Village stack cap of an envelope, in mW. -/
def envStack (e : Nat) : Nat := if e = 1 then 240000 else if e = 2 then 220000 else 165000

/-- Module input cap of an envelope, in mW. -/
def envModule (e : Nat) : Nat := if e = 1 then 1250000 else if e = 2 then 950000 else 700000

/-- Radiator airflow of an envelope, in CFM. -/
def envAir (e : Nat) : Nat := if e = 1 then 160 else if e = 2 then 115 else 80

/-! ### Warm-hold -/

/-- Highest layer-0 tile temperature of a village. -/
def layer0Max (s : State) (v : Nat) : Int :=
  ((List.range 4).map fun h => tget zeroI s.therm.tileT (12 * (4 * v + h))).foldl max (tget zeroI s.therm.tileT (48 * v))

/-- Consumption runs ahead of the budget: the largest Ds exceeds B (R456), compared exactly. -/
def runsAhead (s : State) : Bool :=
  (List.range 4).any fun v =>
    let x := lifeOf s v
    decide (s.therm.life.use.secs * 1000000000 < (x.hc0 * 861 + x.hc1 * 3088 + x.hc2 * 7162 + x.hc3 * 13424) * (3600 * 61320))

/-- Whether a partition has a hamlet in a village. -/
def partInVillage (s : State) (k v : Nat) : Bool :=
  pentValid (s.pent k) && (List.range 4).any fun h => (pentMask (s.pent k)).getLsbD (4 * v + h)

/-- Whether a command of a partition is admitted and not completed. -/
def partBusy (s : State) (k : Nat) : Bool :=
  !(admitted s k).isEmpty ||
    s.cmds.any fun c => isPartOp (pktOp c.pkt) && pktPart c.pkt == k && (c.stage == .begun || c.stage == .finished || c.stage == .inSlot)

/-- A village is idle (R457). -/
def villageIdle (s : State) (v : Nat) : Bool := (List.range 8).all fun k => !(partInVillage s k v && partBusy s k)

/-- WARM_HOLD on entry or exit. -/
def warmEvent (s : State) (v : Nat) (entry : Bool) : State :=
  raise s 0x0308 0 [(16, 1, entry.toNat), (17, 1, v), (20, 4, consumedLife (lifeOf s v)), (24, 4, lifeBudget s)]

/-- Heater duty of a hamlet's crofts is set to a list of crofts. -/
def setHeaters (s : State) (g : Nat) (ps : List Nat) : State :=
  ((List.range 32).map (32 * g + ·)).foldl (fun s p => setHeater s p (ps.contains p)) s

/-- Heater duty of every croft stops. -/
def stopHeaters (s : State) : State := (List.range 16).foldl (fun s g => setHeaters s g []) s

/-- A village enters or leaves warm-hold; on leaving, its heaters stop. -/
def setWarm (s : State) (v : Nat) (on : Bool) : State :=
  if tget zeroB s.therm.warmhold v = on then s
  else
    let s := { s with therm := { s.therm with warmhold := tset zeroB s.therm.warmhold v on } }
    warmEvent (if on then s else (List.range 4).foldl (fun s h => setHeaters s (4 * v + h) []) s) v on

/-- Whether a village is held warm: enabled, ahead of the budget and idle; not during bring-up or a cooling fault. -/
def wantWarm (s : State) (v : Nat) : Bool :=
  s.boot.stage == .ready && !s.therm.coolfault && s.dev.when && runsAhead s && villageIdle s v

def updateWarm (s : State) : State := (List.range 4).foldl (fun s v => setWarm s v (wantWarm s v)) s

/-- Warm-hold ends for the villages of a partition as soon as a command of it is admitted. -/
def endWarm (s : State) (k : Nat) : State :=
  (List.range 4).foldl (fun s v => if partInVillage s k v then setWarm s v false else s) s

/-- Crofts of a hamlet that may heat: ACTIVE, with no execution context. -/
def heatable (s : State) (g : Nat) : List Nat :=
  ((List.range 32).map (32 * g + ·)).filter fun p =>
    (s.croft p).cstate == .active && (s.croft p).c0.run == .idle && (s.croft p).c1.run == .idle

/-- Highest t of a village in the last 15 min. -/
def peakOf (s : State) (v : Nat) : Int := ((s.therm.tHist.filter fun x => x.1 = v).map (·.2.2)).foldl max (layer0Max s v)

/-- Whether a hamlet needs heater load: in RETENTION, or in warm-hold while t is more than 20 K below the peak. None heats while a flow stop
is in force (R448). -/
def needsHeat (s : State) (v : Nat) : Bool :=
  !s.therm.flowstop && (s.boot.stage == .retention || tget zeroB s.therm.warmhold v && decide (layer0Max s v < peakOf s v - 160))

/-- The current stack cap of a village, in mW. -/
def stackCap (s : State) (v : Nat) : Nat := tget vcap0 s.therm.vcap v

/-- Power of the heaters that run in a village, and in the module. -/
def villageHeat (s : State) (v : Nat) : Nat :=
  Config.heaterPower * (s.crofts.filter fun e => e.2.heater && villageOf e.1 == v).length

def moduleHeat (s : State) : Nat := Config.heaterPower * (s.crofts.filter fun e => e.2.heater).length

/-- Power that heaters may still add in a village: within the caps, less what everything but the heaters of the last period (`b`) was measured to
draw, and in warm-hold within 150 W together (R396, R457). -/
def heatRoom (b s : State) (v : Nat) : Nat :=
  let stack := stackCap s v - (tget zeroN s.therm.vpower v - villageHeat b v) - villageHeat s v
  let mod := s.therm.mcap - (s.therm.modIn - moduleHeat b) - moduleHeat s
  min (min stack mod) (if s.boot.stage = .retention then mod else 150000 - moduleHeat s)

/-- Heater duty of a hamlet in the rota period that follows `b`. How many heaters a hamlet needs is a free value, within the power they may
draw. -/
def dutyOf (b s : State) (g : Nat) : State :=
  let v := g / 4
  let l := heatable s g
  let e := l.length
  if needsHeat s v = true ∧ 0 < e then
    let most := if Config.heaterPower = 0 then e else min e (heatRoom b s v / Config.heaterPower)
    let h := (freeVal 16 s).toNat % (most + 1)
    setHeaters (drew s) g ((List.range h).map fun i => l.getD ((s.therm.rota * h + i) % e) 0)
  else setHeaters s g []

end Sys2Proof.Machine
end

