-- ==== Sys2Proof/Machine/Pair.lean ====
section
/-! DEFINITION. Paired commands (R296 to R305): their pairing, the search for the first difference, divergence, and the end of
lock-step. -/

namespace Sys2Proof.Machine

/-- Lock-step ends: what was kept of the pairing is discarded, the divergence record and the resend buffer apart. -/
def disarm (s : State) : State :=
  let s := match s.twin.heldAt with
    | some (k, _) => endHashHold s k
    | none => s
  { s with twin := { Twin.reset with linkUp := s.twin.linkUp, record := s.twin.record, buffer := s.twin.buffer } }

/-- The command of a pairing number. -/
def pairCmd (s : State) (k : Nat) : Option Nat := (s.twin.cmds.find? fun x => x.1 == k).map (·.2.1)

/-- A paired command ends with a status of its pair: a request stops, another command completes, and what it committed is undone. The
twin's ABORT ends it as one here would (R269, R304). -/
def failPaired (s : State) (k status detail : Nat) : State :=
  match pairCmd s k with
  | none => s
  | some cid => (endCommand s cid status detail (decide (status = stAborted))).2

/-! ### Terms (R299, R302) -/

/-- Term hashes of one kind of a context, by index, rising: flags, local-store units, remote writes. -/
def termsOf (s : State) (c : CtxId) (kind : Nat) : List (Nat × BitVec 64) :=
  if kind = 0 then [(0, flagsTerm (s.ctx c))]
  else if kind = 1 then (dirtyUnits (s.croft c.p)).map fun u => (u, unitTerm s c.p u)
  else sortBy (·.1) ((s.croft c.p).remote.map fun r => (r.1, r.2.2))

/-- The slot of a partition whose request has a pairing number. -/
def slotOfPair (s : State) (part k : Nat) : Option Nat :=
  (List.range 2).find? fun e => ((s.slot part e).req.map (·.pairK)) == some k

/-- The context of a logical croft of a paired request. -/
def pairedCtx (s : State) (part k lc : Nat) : Option CtxId :=
  match slotOfPair s part k with
  | none => none
  | some e => (computeOf s part lc).map fun p => mkCtx p e

/-- The terms of the croft under search, kept for the search of the twin, which may still be on. -/
def keepTerms (s : State) : State :=
  match s.twin.armed, s.twin.probing with
  | some part, some q =>
    match pairedCtx s part q.k q.lc with
    | none => s
    | some c => { s with twin := { s.twin with kept := some ⟨q.k, (List.range 3).map fun kind => ⟨q.lc, kind, termsOf s c kind⟩⟩ } }
  | _, _ => s

/-! ### Divergence (R302, R303) -/

/-- Write `n` bytes of a record at an offset. -/
def putBytes (r : BitVec 512) (off n v : Nat) : BitVec 512 :=
  BitVec.ofNat 512 (r.toNat - bitsOf r.toNat (8 * off) (8 * n) * 2 ^ (8 * off) + v % 2 ^ (8 * n) * 2 ^ (8 * off))

/-- The fields of a divergence record as `(offset, bytes, value)`; a field the spec gives no value for in a kind is a free value
(log entry 13). -/
def divergeRecord (free : BitVec 512) (fs : List (Nat × Nat × Nat)) : BitVec 512 :=
  fs.foldl (fun r f => putBytes r f.1 f.2.1 f.2.2) free

/-- The pair diverges: the record is written, LOCKSTEP_DIVERGE raised, the request fails with its session rolled back, and the
partition admits nothing further. -/
def diverge (s : State) (k kind : Nat) (fs : List (Nat × Nat × Nat)) : State :=
  let r := divergeRecord (freeVal 512 s) ([(0, 4, k), (8, 1, kind), (9, 1, 0)] ++ fs)
  let s := drew s
  let part := s.twin.armed.getD 0
  let s := keepTerms s
  let s := { s with twin := { s.twin with record := r, blocked := true, probing := none, waiting := none } }
  failPaired (raise (bump s (ctrSquare 16) 1) 0x0009 2 [(16, 1, part), (20, 4, k)]) k stDiverge k

/-- A difference without a croft: kinds 3 and 4. -/
def divergeAt (s : State) (k kind : Nat) : State := diverge s k kind [(10, 2, 0xFFFF), (24, 8, 0)]

/-! ### Admission (R297) -/

/-- A command admitted in an armed partition takes the next pairing number, and the twin learns its opcode. A FAIL that came first
ends it, and so do unequal opcodes. -/
def admitPaired (s : State) (part cid op : Nat) : State :=
  if s.twin.armed = some part then
    let k := s.twin.nextK
    let o := BitVec.ofNat 16 op
    let s := sendTwin { s with twin := { s.twin with nextK := k + 1, cmds := s.twin.cmds ++ [(k, cid, o)] } } 2 k [BitVec.ofNat 64 op]
    match s.twin.theirFail.find? fun x => x.1 == k with
    | some x =>
      let s := bump s (ctrSquare 17) 1
      if x.2 = 1 then failPaired s k stAborted 0 else failPaired s k stTwinFailed x.2.toNat
    | none =>
      match s.twin.theirCmd.find? fun x => x.1 == k with
      | some x => if x.2 = o then s else divergeAt s k 4
      | none => s
  else s

/-- The pairing number the next command of a partition will take. -/
def nextPair (s : State) (part : Nat) : Nat := if s.twin.armed = some part then s.twin.nextK else 0

/-- Whether a partition admits commands: after a divergence it does not (R302). -/
def admits (s : State) (part : Nat) : Bool := !(s.twin.armed == some part && s.twin.blocked)

/-! ### Completion fields (R301) -/

/-- The compared completion fields in the 16 B of CREC: opcode, status, saturation flag, sieve summary. The spec gives no layout (log
entry 14). -/
def crecBits (op status : Nat) (sat fallback : Bool) (waste drop : Nat) : BitVec 128 :=
  BitVec.ofNat 128 (op + status * 2 ^ 16 + sat.toNat * 2 ^ 32 + fallback.toNat * 2 ^ 33 + waste % 2 ^ 16 * 2 ^ 48 + min drop 65535 * 2 ^ 64)

/-- The local fields of a pair, once offered. -/
def ourCrec (s : State) (k : Nat) : Option (BitVec 128) := (s.twin.crecs.find? fun x => x.1 == k).map (·.2)
def theirCrec (s : State) (k : Nat) : Option (BitVec 128) := (s.twin.theirRec.find? fun x => x.1 == k).map (·.2)

/-- Send the completion fields of a pair to the twin; the record waits for the twin's. -/
def offerCrec (s : State) (k : Nat) (f : BitVec 128) : State :=
  if (ourCrec s k).isSome then s
  else sendTwin { s with twin := { s.twin with crecs := s.twin.crecs ++ [(k, f)], waiting := some (k, s.now) } } 4 k
    [f.extractLsb' 0 64, f.extractLsb' 64 64]

/-- Both units' fields are in. -/
def crecsIn (s : State) (k : Nat) : Bool := (ourCrec s k).isSome && (theirCrec s k).isSome

def crecsEqual (s : State) (k : Nat) : Bool := ourCrec s k == theirCrec s k

end Sys2Proof.Machine
end

