-- ==== Sys2Proof/Machine/Request.lean ====
section
/-! DEFINITION. RUN and RUN_CHAINED: images, admission, the stages of a request, and its completion (R165 to R170, R322 to R332). -/

namespace Sys2Proof.Machine

/-! ### Images (R322, R326) -/

/-- The number in `n` bytes of a read at an offset. -/
def readNum (bs : List (Byte × Bool)) (off n : Nat) : Nat := leNat (((bs.drop off).take n).map (·.1))

/-- Bytes of the general region of a slice. -/
def generalBytes (s : State) (p : Nat) : Nat := (s.slice p).map.poolBase

/-- Whether `n` bytes from a partition address lie in the general region of the slice of one index. -/
def inGeneral (s : State) (k a n : Nat) : Bool :=
  match dataOf s k (a / Config.sliceBytes) with
  | none => false
  | some p => decide (a / Config.sliceBytes < partN s k ∧ a % Config.sliceBytes + n ≤ generalBytes s p)

/-- Offset, from the image's start, of the first poisoned unit of a read at partition address `a`. -/
def poisonOffset (img a : Nat) (bs : List (Byte × Bool)) : List Nat :=
  match (List.range bs.length).find? fun i => (bs[i]?.map fun b : Byte × Bool => b.2).getD false with
  | none => []
  | some i => [(a + i) / 64 * 64 - img]

/-- What an image's header and stream table come to: the image, its N, GENB, and the offsets of R326 that fail. -/
structure ImageRead where
  img  : Img
  n    : Nat
  genb : Nat
  bad  : List Nat

/-- Whether the `n` bytes of a read at an offset are not poisoned. -/
def readOk (bs : List (Byte × Bool)) (off n : Nat) : Bool := !((bs.drop off).take n).any (·.2)

/-- Read and check an image; none while its bytes wait for their banks. `first` is the N of the first image, none for the first itself. A poisoned unit is reported, and no field
that lies in one is checked (R326, R367). -/
def readImage (s : State) (k addr : Nat) (args : List Word) (sess : Bool) (first : Option Nat) (cid : Nat) : Option ImageRead × State :=
  match fetchVia s (viaPart k) addr 128 k (.command cid) with
  | (none, s) => (none, s)
  | (some h, s) =>
  let n := readNum h 6 2 + 1
  let flags := readNum h 9 1
  let gend := readNum h 12 4
  let genb := readNum h 16 8
  let stbl := readNum h 24 8
  let gw0 := readNum h 32 2
  let gw1 := readNum h 34 2
  let gwlen := readNum h 36 2
  let gwen := decide (flags / 2 % 2 = 1)
  let clevel := if pentLevel (s.pent k) then 1 else 2
  let f := fun (b : Bool) (off : Nat) => if b then [off] else []
  let g := fun (off len : Nat) (b : Bool) => f (readOk h off len && b) off
  let bad := poisonOffset addr addr h ++ g 0 4 (readNum h 0 4 != 0x3149505A) ++ g 4 2 (readNum h 4 2 != 1) ++
    g 6 2 (decide (partN s k < n) || (first.isSome && first != some n)) ++ g 8 1 (readNum h 8 1 != clevel) ++
    g 9 1 (decide (flags % 2 = 1) && !sess) ++ g 12 4 (first.isSome && decide (0 < gend)) ++
    f (readOk h 9 1 && readOk h 32 6 && gwen &&
      (decide (gw0 < gw1 + gwlen ∧ gw1 < gw0 + gwlen) || decide (65536 < max gw0 gw1 + gwlen))) 32
  let m := min n 512
  if readOk h 6 2 = false ∨ readOk h 24 8 = false then (some ⟨⟨addr, args, gend, none, []⟩, n, genb, bad⟩, s)
  else if inGeneral s k (addr + stbl) (16 * n) then
    match fetchVia s (viaPart k) (addr + stbl) (16 * m) k (.command cid) with
    | (none, s) => (none, s)
    | (some t, s) =>
    let streams := (List.range m).map fun i => (readNum t (16 * i) 8, readNum t (16 * i + 8) 4)
    let badStreams := (streams.zipIdx).flatMap fun x =>
      f (readOk h 12 4 && readOk t (16 * x.2 + 8) 4 && decide (x.1.2 < gend)) 12 ++
        f (readOk t (16 * x.2) 12 &&
          (decide (x.1.2 = 0 ∨ x.1.1 / Config.sliceBytes ≠ x.2) || !inGeneral s k x.1.1 1)) (stbl + 16 * x.2)
    (some ⟨⟨addr, args, gend, if gwen then some (gw0, gw1, gwlen) else none, streams⟩, n, genb,
      bad ++ poisonOffset addr (addr + stbl) t ++ badStreams⟩, s)
  else (some ⟨⟨addr, args, gend, none, []⟩, n, genb, bad ++ [24]⟩, s)

/-- The images of a RUN or RUN_CHAINED: addresses and arguments (R335). -/
def imagesOf (c : Cmd) : List (Nat × List Word) :=
  let args := fun (p : BitVec 512) (off : Nat) => (List.range 4).map fun i => BitVec.ofNat 64 (pktField p (off + 8 * i) 8)
  (pktField c.pkt 16 8, args c.pkt 24) :: c.ext.map fun x => (pktField x 0 8, args x 8)

/-- Read the images of a command, in order, behind those read already; none while bytes of one wait for their banks. -/
def readImages (s : State) (k : Nat) (sess : Bool) (cid : Nat) : List ImageRead → List (Nat × List Word) → Option (List ImageRead) × State
  | got, [] => (some got, dropBrought s (.command cid))
  | got, x :: xs =>
    match readImage s k x.1 x.2 sess ((got.head?).map (·.n)) cid with
    | (none, s) => (none, s)
    | (some r, s) => readImages s k sess cid (got ++ [r]) xs

/-- IMAGE_INVALID with its DETAIL: the first image concerned and, within it, the lowest offset. -/
def imageFault (l : List ImageRead) : Option Nat :=
  (l.zipIdx).findSome? fun x => (least x.1.bad).map fun o => o % 2 ^ 32 + x.2 * 2 ^ 32

/-- The smallest general region of a partition's slices. -/
def leastGeneral (s : State) (k : Nat) : Nat :=
  ((partSlices s k).map (generalBytes s)).foldl min Config.sliceBytes

/-- The status and DETAIL a RUN completes with without admission (R168, R326, R420, R447). -/
def runFault (s : State) (k : Nat) (slot : Option Nat) (l : List ImageRead) : Option (Nat × Nat) :=
  let sess := match slot with
    | some i => !(sessOpen (s.ses i) && (s.ses i).part.toNat == k)
    | none => false
  if s.therm.coolfault then some (stThermal, 0)
  else if sess then some (stBadSession, slot.getD 0)
  else match imageFault l with
    | some d => some (stImage, d)
    | none =>
      let need := (l.map (·.genb)).foldl max 0
      if leastGeneral s k < need then some (stCapacity, need - leastGeneral s k)
      else if nrun s k < ((l.head?).map (·.n)).getD 0 then some (stCapacity, 0)
      else none

/-! ### Starting an image (R56, R165, R331) -/

/-- Partition address of the mailbox entry of slot `e` (R166). -/
def mailboxAddr (s : State) (k e : Nat) : Option Nat := (poolAddr s k 0 0).map (· + 64 * e)

/-- The context of logical croft `i` begins an image. The saturation flag, the numbering of contributions and the count of retired
instructions carry over between the images of one command (R81, R208, R299). -/
def freshCtx (x : Ctx) (q : Req) (m : Img) (i now : Nat) (first : Bool) : Ctx :=
  let st := m.streams.getD i (0, 0)
  { Ctx.reset with
    run := .running
    lc := i
    n := q.n
    count := st.2
    base := st.1
    gend := m.gend
    inCroft := !first
    wait := if first && m.gend == 0 then .gend else .none
    since := now
    args := tsetList zeroW [] 0 m.args
    sat := if first then false else x.sat
    seq := if first then 0 else x.seq
    retired := if first then 0 else x.retired }

/-- A croft's context begins an image: heater duty has stopped before it does (R453). -/
def startCtx (q : Req) (m : Img) (first : Bool) (s : State) (c : CtxId × Nat) : State :=
  modCtx (setHeater s c.1.p false) c.1 fun x => freshCtx x q m c.2 s.now first

/-- Start image number `j` of a request: its contexts, its windows, and its own numbering of barriers, rounds and collectives. -/
def startImage (s : State) (k e j : Nat) : State :=
  match (s.slot k e).req with
  | none => s
  | some q =>
    match q.imgs[j]? with
    | none => s
    | some m =>
      let q := { q with
        cur := j, gend := m.gend, gwen := m.window.isSome
        gw0 := (m.window.map fun w : Nat × Nat × Nat => w.1).getD 0
        gw1 := (m.window.map fun w : Nat × Nat × Nat => w.2.1).getD 0
        gwlen := (m.window.map fun w : Nat × Nat × Nat => w.2.2).getD 0
        stage := if j = 0 then .gather else .croft }
      let s := modSlot s k e fun x => { x with req := some q, bars := [], coll := none, rounds := [] }
      (slotCtxs s k e).zipIdx.foldl (startCtx q m (j == 0)) s

/-- The gather stage begins: the session's descriptor goes into the mailbox and its address into program argument 3, then, once the entry is
written, the start line rings (R165, R328 step 1). LEN at admission is taken here, when the slot's earlier commands have completed
(log entry 80). -/
def beginGather (s : State) (k e cid : Nat) (slot : Option Nat) : State :=
  match slot with
  | none => startImage s k e 0
  | some i =>
    match mailboxAddr s k e with
    | none => startImage s k e 0
    | some a =>
      let x := s.ses i
      let s := writeVia s (viaPart k) a (leBytes 64 (sessBits x x.len.toNat).toNat) (fun _ => false) .reeve (.command cid)
      let s := modSlot s k e fun y => { y with req := y.req.map fun q => { q with
        sess := some (i, x.len.toNat)
        imgs := q.imgs.map fun m => { m with args := m.args.take 3 ++ [BitVec.ofNat 64 a] } } }
      if owed s (.command cid) then s else startImage s k e 0

/-- The session slot a request's command names. -/
def reqSlot (s : State) (q : Req) : Option Nat := (cmdBy s q.cid).bind cmdSlot

/-- Whether a request must wait before its gather stage (R164, R167, R330): for an earlier command that names its session and for the zeros
that such commands wrote, or for any earlier request in an armed partition. -/
def mustWaitTurn (s : State) (k e : Nat) (q : Req) : Bool :=
  (match (s.slot k (1 - e)).req with
    | none => false
    | some o => decide (o.ord < q.ord) && s.twin.armed == some k) ||
  match reqSlot s q with
  | none => false
  | some i => slotBusy s q.cid i || owed s .zeros

/-! ### Admission (R327, R328) -/

/-- ORDER (R315): every earlier command of the queue has completed. -/
def orderOk (s : State) (c : Cmd) : Bool := !pktOrder c.pkt || !(s.cmds.any fun d => d.q == c.q && decide (d.id < c.id))

/-- RUN (R317, R447): the reeve takes up a RUN; during a cooling fault it completes with THERMAL. -/
def runAs (s : State) (cid op : Nat) : State :=
  match waitingCmd s cid op with
  | none => s
  | some _ => if s.therm.coolfault then finish s cid stThermal 0 else modCmd s cid fun c => { c with stage := .ordered }

def execRun (cid : Nat) (s : State) : Host.Outcome State Fault Refusal := .next (runAs s cid 0x0101)

/-- RUN_CHAINED (R331). -/
def execRunChained (cid : Nat) (s : State) : Host.Outcome State Fault Refusal := .next (runAs s cid 0x0102)

/-- The free execution slot, slot 0 first. -/
def freeSlot (s : State) (k : Nat) : Option Nat :=
  if (s.slot k 0).req.isNone then some 0 else if (s.slot k 1).req.isNone then some 1 else none

/-- A request enters a slot with what its partition's entry says now (R215). -/
def enterSlot (s : State) (k e : Nat) (c : Cmd) (l : List ImageRead) : State :=
  let w := s.pent k
  let n := ((l.head?).map (·.n)).getD 0
  let gend := ((l.head?).map fun r : ImageRead => r.img.gend).getD 0
  let waits := match cmdSlot c with
    | some i => slotBusy s c.id i
    | none => false
  let q : Req := ⟨c.id, l.map (·.img), 0, n, gend, false, 0, 0, 0, .sessWait, s.now, s.nextOrd, 0, none, false, 0, 0, 0, none,
    nextPair s k, pentRelaxed w, false, waits⟩
  let s := modPart { s with nextOrd := s.nextOrd + 1 } k fun x => { x with
    adm := x.adm.filter fun i => i ≠ c.id, relaxed := pentRelaxed w, rates := w }
  let s := modSlot s k e fun _ => { Slot.reset with req := some q, ended := (s.slot k e).ended }
  let s := modCmd (bump s (ctrPart k 10) 1) c.id fun d => { d with stage := .inSlot, began := s.now }
  admitPaired (endWarm s k) k c.id (pktOp c.pkt)

/-- REQUEST_ADMIT (R164, R326 to R328): the first command of the admission order, a RUN, enters a free slot; one that R326 fails completes
without admission. One that names a session waits for the zeros that earlier commands wrote to it, and any for the bytes of its image. -/
def execRequestAdmit (part : Fin 8) (s : State) : Host.Outcome State Fault Refusal :=
  let k := part.val
  .next (match (s.part k).adm.head? with
  | none => s
  | some cid =>
    match cmdBy s cid, freeSlot s k with
    | some c, some e =>
      if c.stage = .ordered ∧ admits s k = true ∧ orderOk s c = true then
        let s := clearIfDue (votePart s k) k
        if (cmdSlot c).isSome && owed s .zeros then s
        else match readImages s k (cmdSlot c).isSome cid [] (imagesOf c) with
          | (none, s) => s
          | (some l, s) =>
            match runFault s k (cmdSlot c) l with
            | some f => finish s cid f.1 f.2
            | none =>
              let s := enterSlot s k e c l
              match (s.slot k e).req with
              | none => s
              | some q => if mustWaitTurn s k e q then s else beginGather s k e cid (cmdSlot c)
      else s
    | _, _ => s)

/-- SESSION_WAIT_END (R165, R167): the request's turn has come and its gather stage begins, or its mailbox entry has been written. -/
def execSessionWaitEnd (part : Fin 8) (e : Fin 2) (s : State) : Host.Outcome State Fault Refusal :=
  .next (match (s.slot part e).req with
  | none => s
  | some q =>
    if q.stage ≠ .sessWait ∨ mustWaitTurn s part e q = true then s
    else if q.sess.isSome then (if owed s (.command q.cid) then s else startImage s part e 0)
    else beginGather s part e q.cid (reqSlot s q))

/-! ### The croft stages (R328 steps 2 to 4) -/

/-- Whether every croft of a request has retired the END of its last image (R332), so that it has left its croft stages (R328 step 4). -/
def leftCroft (s : State) (k e : Nat) (q : Req) : Bool := (q.stage == .croft || q.stage == .gather) && decide (q.imgs.length ≤ q.cur + 1) && allEnded s k e

/-- Whether a slot's request may start its croft stages before the other's. -/
def mayRank (s : State) (k e : Nat) (q : Req) : Bool :=
  match (s.slot k (1 - e)).req with
  | none => true
  | some o => (o.stage != .croft || leftCroft s k (1 - e) o) && (o.stage != .gather || o.fail.isSome || !gathered s k (1 - e) || decide (q.ord < o.ord))

/-- An overdue self-test holds a start of croft stages for 120 µs, each of them one: CAL_HOLD_NS counts it (R422, R430). -/
def heldStart (s : State) (k : Nat) : State :=
  match (s.part k).holdStart with
  | [] => s
  | _ :: l => bump (modPart (advance s 120000) k fun x => { x with holdStart := l }) (ctrSquare 41) 120000

/-- CROFT_STAGES_START (R328): the start line rings again. Leaving the gather stage ends an epoch (R208). -/
def execCroftStagesStart (part : Fin 8) (e : Fin 2) (s : State) : Host.Outcome State Fault Refusal :=
  let k := part.val
  .next (match (s.slot k e).req with
  | none => s
  | some q =>
    if q.stage = .gather ∧ q.fail = none ∧ gathered s k e = true ∧ mayRank s k e q = true then
      let s := heldStart s k
      let at0 := gendSince s k e q
      let s := bump s (ctrPart k 9) (s.now - at0)
      let s := modSlot s k e fun x => { x with req := some { q with stage := .croft, gendAt := at0 } }
      let s := epochEnd s k e
      (slotCtxs s k e).foldl (fun s c => modCtx s c fun x =>
        if x.wait = .gend then { x with wait := .none, inCroft := true } else x) s
    else s)

/-! ### Completion (R168, R319, R328 step 5, R331) -/

/-- Whether every write of a request has completed. -/
def reqQuiet (s : State) (q : Req) : Bool := ((cmdBy s q.cid).map (cmdQuiet s)).getD true

/-- Whether every context has retired END and nothing it issued still runs. -/
def allDone (s : State) (k e : Nat) : Bool :=
  (slotCtxs s k e).all fun c => (s.ctx c).ended && (s.ctx c).unacked == 0 && !((s.croft c.p).engines.any fun g => g.e == e)

/-- A request that failed ends with the outcome kept. -/
def endFailed (s : State) (k e : Nat) (f : Nat × BitVec 64) : State := clearIfDue (endRequest s k e f.1 f.2.toNat) k

/-- NEWLEN as the mailbox holds it: none where it is poisoned; nothing at all while its read waits for its bank. -/
def readNewlen (s : State) (k e cid : Nat) : Option (Option Nat) × State :=
  match mailboxAddr s k e with
  | none => (some none, s)
  | some a =>
    let r := fetchVia s (viaPart k) (a + 20) 4 k (.command cid)
    (r.1.map fun l => if l.any (·.2) then none else some (readNum l 0 4), r.2)

/-- What a request that ran to its end comes to: status, DETAIL, and the length to commit (R168). -/
def requestOutcome (s : State) (k e : Nat) (q : Req) : Option (Nat × Nat × Option (Nat × Commit)) × State :=
  match q.sess with
  | none => (some (0, 0, none), s)
  | some (i, _) =>
    if sessOpen (s.ses i) = false then (some (stBadSession, i, none), s)
    else
      match readNewlen s k e q.cid with
      | (none, s) => (none, s)
      | (some none, s) => (some (stPoison, (mailboxAddr s k e).getD 0, none), s)
      | (some (some l), s) =>
        match commitKind (s.ses i) l 64 with
        | .bad => (some (stSessLength, l, none), s)
        | c => (some (0, 0, some (l, c)), s)

/-- The request leaves its slot with its record: the commit or the rollback comes first (R168, R170). -/
def closeReq (s : State) (k e : Nat) (q : Req) (status detail : Nat) (commit : Option (Nat × Commit)) : State :=
  let r := reqRec s k e q status detail
  let s := match q.sess, commit with
    | some (i, l0), some (l, c) => commitFor s q.cid i l l0 0 c
    | some (i, l0), none => if status = stPoison ∨ status = stSessLength then rollback s i l0 0 else s
    | _, _ => s
  let s := emptySlot (freeBufs s k e fun _ => true) k e
  let s := unpair (drainPart s k) k q.cid status
  clearIfDue (match r with
    | none => s
    | some r => putRec s r) k

/-- The croft stages are over: the record is written once the epochs of the slot are applied (R208), in an armed partition once the twin's
completion fields are equal (R301). -/
def finishReq (s : State) (k e : Nat) : State :=
  match (s.slot k e).req with
  | none => s
  | some q =>
    match q.fail with
    | some f => endFailed s k e f
    | none =>
      if owed s (.epoch k e) then s
      else match requestOutcome s k e q with
        | (none, s) => s
        | (some (st, detail, commit), s) =>
          if s.twin.armed = some k ∧ st = 0 then
            let op := ((cmdBy s q.cid).map fun c => pktOp c.pkt).getD 0
            let s := offerCrec s q.pairK (crecBits op st (reqSat s k e) q.fallback q.waste q.drop)
            if crecsIn s q.pairK then
              if crecsEqual s q.pairK then closeReq s k e q st detail commit else divergeAt s q.pairK 3
            else s
          else closeReq s k e q st detail commit

/-- REQUEST_COMPLETE (R328, R331): every croft has retired END. The next image of a RUN_CHAINED starts, or the end of the RUN ends an epoch
and the record is written, once what it still waits for is done. A request whose croft stopped ends with that outcome. -/
def execRequestComplete (part : Fin 8) (e : Fin 2) (s : State) : Host.Outcome State Fault Refusal :=
  let k := part.val
  .next (match (s.slot k e).req with
  | none => s
  | some q =>
    match q.fail with
    | some f => endFailed s k e f
    | none =>
      if q.stage = .done then finishReq s k e
      else if q.stage = .croft ∧ allDone s k e = true ∧ reqQuiet s q = true ∧ (s.twin.armed ≠ some k ∨ agreed s q.pairK endPoint = true) then
        let s := dropHash s q.pairK endPoint
        if q.cur + 1 < q.imgs.length then startImage s k e (q.cur + 1)
        else
          let s := modSlot s k e fun x => { x with req := some { q with stage := .done } }
          finishReq (epochEnd s k e) k e
      else s)

/-- TIME_LIMIT (R332): TLIM microseconds have passed since the admission, and not every croft has retired its last END. -/
def execTimeLimit (part : Fin 8) (e : Fin 2) (s : State) : Host.Outcome State Fault Refusal :=
  .next (match (s.slot part e).req with
  | none => s
  | some q =>
    let tlim := ((cmdBy s q.cid).map fun c => pktField c.pkt 56 4).getD 0
    if 0 < tlim ∧ q.stage ≠ .done ∧ leftCroft s part e q = false then (endCommand (notBefore s (q.at0 + 1000 * tlim)) q.cid stTimeLimit 0).2 else s)

end Sys2Proof.Machine
end

