-- ==== Sys2Proof/Machine/Lockstep.lean ====
section
/-! DEFINITION. Lock-step with the twin: arming, the twin's messages, and the twin link (R296 to R305, R485). -/

namespace Sys2Proof.Machine

/-- A device command that has not begun and whose turn it is: device commands run one at a time in order of fetch (R333). -/
def deviceTurn (s : State) (cid op : Nat) : Option Cmd :=
  match waitingCmd s cid op with
  | none => none
  | some c =>
    if s.cmds.any fun d => decide (d.id < cid) && !isPartOp (pktOp d.pkt) && pktOp d.pkt != 0x0401 && pktOp d.pkt != 0x0501 &&
        d.stage != .recorded
    then none else some c

/-! ### Arming (R296) -/

/-- Contract level of a partition. -/
def levelOf (s : State) (k : Nat) : BitVec 64 := if pentLevel (s.pent k) then 1 else 2

/-- The partition is armed: pairing starts at 0, and the records of R300 are empty. -/
def armNow (s : State) (k : Nat) : State :=
  let s := disarm s
  let s := { s with twin := { s.twin with armed := some k } }
  (partSlices s k ++ (List.range 512).filterMap (computeOf s k)).foldl
    (fun s p => if (s.croft p).dirty = [] ∧ (s.croft p).remote = [] then s else modCroft s p fun x => { x with dirty := [], remote := [] }) s

/-- What keeps a partition from being armed here (R296): RELAXED, a request in execution, another armed partition, or no link. One that a
divergence blocks may be armed anew (R302). -/
def armBarred (s : State) (k : Nat) : Bool :=
  pentRelaxed (s.pent k) || !(admitted s k).isEmpty || !s.twin.linkUp ||
    (s.twin.armed.isSome && !(s.twin.armed == some k && s.twin.blocked))

/-- The ARM of the twin and the local command have both come: the conditions of R296 must hold now, and the levels must be equal. -/
def meetTwin (s : State) (cid k : Nat) (level : BitVec 64) : State :=
  if level = levelOf s k ∧ armBarred s k = false then finish (armNow s k) cid 0 0
  else finish { s with twin := { s.twin with arming := none, level := none } } cid stLockState 0

/-- A level the twin sent within the last second. -/
def twinLevel (s : State) : Option (BitVec 64) :=
  match s.twin.level with
  | some (l, t) => if s.now ≤ t + 1000000000 then some l else none
  | none => none

/-- LOCKSTEP_ARM: fails with LOCKSTEP_STATE where R296 says so, otherwise tells the twin and waits for it. -/
def execLockstepArm (cid : Nat) (s : State) : Host.Outcome State Fault Refusal :=
  .next (match deviceTurn s cid 0x0901 with
  | none => s
  | some c =>
    let k := pktPart c.pkt
    let s := votePart s k
    if armBarred s k || s.twin.arming.isSome then finish s cid stLockState 0
    else
      let s := sendTwin s 1 0 [levelOf s k]
      match twinLevel s with
      | some l => meetTwin s cid k l
      | none => modCmd { s with twin := { s.twin with arming := some (cid, k, s.now) } } cid fun c => { c with stage := .begun })

/-- LOCKSTEP_DISARM: both units disarm, the twin by notice. -/
def execLockstepDisarm (cid : Nat) (s : State) : Host.Outcome State Fault Refusal :=
  .next (match deviceTurn s cid 0x0902 with
  | none => s
  | some c =>
    if s.twin.armed = some (pktPart c.pkt) then finish (disarm (sendTwin s 8 0 [])) cid 0 0 else finish s cid 0 0)

/-- ARM_TIMEOUT: the twin has not armed within 1 s. -/
def execArmTimeout (s : State) : Host.Outcome State Fault Refusal :=
  .next (match s.twin.arming with
  | none => s
  | some (cid, _, t) =>
    let s := notBefore s (t + 1000000000)
    finish { s with twin := { s.twin with arming := none } } cid stLockState 0)

/-- TWIN_ARM: the twin's ARM and its contract level. One that comes more than 1 s after the local command is too late for it (R296). -/
def execTwinArm (level : BitVec 64) (s : State) : Host.Outcome State Fault Refusal :=
  .next (match s.twin.arming with
  | some (cid, k, t) =>
    if t + 1000000000 < s.now then
      finish { s with twin := { s.twin with arming := none, level := some (level, s.now) } } cid stLockState 0
    else meetTwin s cid k level
  | none => { s with twin := { s.twin with level := some (level, s.now) } })

/-! ### Comparison (R301, R302) -/

/-- TWIN_CMD (R297): opcodes of a pair that differ diverge with kind 4. -/
def execTwinCmd (k : BitVec 32) (opcode : BitVec 64) (s : State) : Host.Outcome State Fault Refusal :=
  let o := opcode.extractLsb' 0 16
  .next (if s.twin.armed.isNone then s
    else
      let s := { s with twin := { s.twin with theirCmd := s.twin.theirCmd ++ [(k.toNat, o)] } }
      match s.twin.cmds.find? fun x => x.1 == k.toNat with
      | some x => if x.2.2 = o then s else divergeAt s k.toNat 4
      | none => s)

/-- HASHSET: the twin's hashes of a point, compared with the local ones; a second set of the point is of the twin's next image, and waits. -/
def execHashset (k point : BitVec 32) (hs : List (BitVec 64)) (s : State) : Host.Outcome State Fault Refusal :=
  .next (match s.twin.armed with
  | none => s
  | some part =>
    let early := (hashesOf s.twin.theirs k.toNat point).isSome
    let s := { s with twin := { s.twin with theirs := s.twin.theirs ++ [(k.toNat, point, hs)] } }
    match slotOfPair s part k.toNat with
    | none => s
    | some e => if early then s else compareAt s part e k.toNat point)

/-- CREC: the twin's completion fields. A record that waits for them is written, or the pair diverges with kind 3. -/
def execCrec (k : BitVec 32) (fields : BitVec 128) (s : State) : Host.Outcome State Fault Refusal :=
  let n := k.toNat
  .next (match s.twin.armed with
  | none => s
  | some part =>
    let s := { s with twin := { s.twin with theirRec := s.twin.theirRec ++ [(n, fields)] } }
    match ourCrec s n with
    | none => s
    | some f =>
      if f ≠ fields then divergeAt s n 3
      else match slotOfPair s part n with
        | some e => finishReq s part e
        | none => match pairCmd s n with
          | some cid => match cmdBy s cid with
            | some c => finish (dropPair s n) cid c.status.toNat c.detail.toNat
            | none => s
          | none => s)

/-- TWIN_FAIL (R304): the paired command fails with TWIN_FAILED, or is aborted where the twin's was. One not admitted here yet fails at its
admission. -/
def execTwinFail (k : BitVec 32) (status : BitVec 64) (s : State) : Host.Outcome State Fault Refusal :=
  let n := k.toNat
  .next (if s.twin.armed.isNone then s
    else match pairCmd s n with
      | some _ =>
        let s := bump s (ctrSquare 17) 1
        if status = 1 then failPaired s n stAborted 0 else failPaired s n stTwinFailed status.toNat
      | none =>
        if s.twin.nextK ≤ n then { s with twin := { s.twin with theirFail := s.twin.theirFail ++ [(n, status)] } } else s)

/-! ### The first difference (R302) -/

/-- Of a list of terms, those of a range of indices, 4,096 at most: what a PROBE asks for. -/
def inRange (l : List (Nat × BitVec 64)) (lo hi : Nat) : List (Nat × BitVec 64) :=
  (l.filter fun t => decide (lo ≤ t.1 ∧ t.1 ≤ hi)).take 4096

/-- The terms of a logical croft of a pair, as it stands at its hold, or as they were kept when the pair diverged here. -/
def termsOfPair (s : State) (part k lc kind : Nat) : List (Nat × BitVec 64) :=
  match pairedCtx s part k lc with
  | some c => termsOf s c kind
  | none => match s.twin.kept with
    | none => []
    | some x => if x.k = k then ((x.terms.find? fun t => t.lc == lc && t.kind == kind).map (·.terms)).getD [] else []

/-- PROBE: the twin asks for term hashes of a logical croft; they go back in a TERMS, each as an index and a hash of 8 B (log entry
14). -/
def execProbe (k : BitVec 32) (lc : BitVec 16) (kind : BitVec 8) (lo hi : BitVec 52) (s : State) :
    Host.Outcome State Fault Refusal :=
  .next (match s.twin.armed with
  | none => s
  | some part =>
    sendTwin s 7 k.toNat ((inRange (termsOfPair s part k.toNat lc.toNat kind.toNat) lo.toNat hi.toNat).flatMap fun t =>
      [BitVec.ofNat 64 t.1, t.2]))

/-- Up to which index a list of terms is whole: a list of 4,096 may go on. -/
def wholeTo (l : List (Nat × BitVec 64)) : Option Nat := if l.length < 4096 then none else (l.getLast?).map (·.1)

/-- The least index at which two lists of terms differ. -/
def firstDiff (a b : List (Nat × BitVec 64)) : Option Nat :=
  let far := [wholeTo a, wholeTo b].filterMap id
  let idx := ((a ++ b).map (·.1)).filter fun i => far.all fun m => decide (i ≤ m)
  least (idx.filter fun i => (a.find? fun t => t.1 == i) != (b.find? fun t => t.1 == i))

/-- Fields of the record for a difference at a croft. A term that only one unit has leaves the other's hash a free value, and for a remote
write of the twin alone its address, which no message of R301 carries; nor does one carry the twin's physical croft (log entry 13). -/
def termFields (s : State) (c : CtxId) (q : Probing) (i : Nat) (a b : List (Nat × BitVec 64)) : List (Nat × Nat × Nat) :=
  let x := s.croft c.p
  let h := fun (l : List (Nat × BitVec 32 × List (BitVec 64))) (off : Nat) =>
    match (hashesOf l q.k q.point).bind (·[q.lc]?) with
    | some v => [(off, 8, v.toNat)]
    | none => []
  let t := fun (l : List (Nat × BitVec 64)) (off : Nat) =>
    match l.find? fun t => t.1 == i with
    | some t => [(off, 8, t.2.toNat)]
    | none => []
  let addr := if q.kind = 2 then ((x.remote.find? fun r => r.1 == i).map fun r : Nat × Nat × BitVec 64 => (24, 8, r.2.1)).toList
    else [(24, 8, if q.kind = 1 then 64 * i else 0)]
  [(4, 4, q.point.toNat), (10, 2, q.lc), (12, 2, c.p.val), (16, 8, if q.kind = 2 then i else (s.ctx c).retired)] ++ addr ++
    h s.twin.hashes 32 ++ h s.twin.theirs 40 ++ t a 48 ++ t b 56

/-- TERMS: the terms asked for. The first that differs is the first difference; without one, the search goes on in the same kind, then in the
next (R302). Where no term of any kind differs though H does, the spec names no first difference: kind 2 is recorded, with its count, its
address and its hashes left free values (log entry 81). -/
def execTerms (k : BitVec 32) (ts : List (BitVec 64 × BitVec 64)) (s : State) : Host.Outcome State Fault Refusal :=
  .next (match s.twin.armed, s.twin.probing with
  | some part, some q =>
    if q.k ≠ k.toNat then s
    else match pairedCtx s part q.k q.lc with
      | none => s
      | some c =>
        let a := inRange (termsOf s c q.kind) q.lo lastIndex
        let b := ts.map fun t => (t.1.toNat, t.2)
        match firstDiff a b with
        | some i => diverge s q.k q.kind (termFields s c q i a b)
        | none =>
          match least ([wholeTo a, wholeTo b].filterMap id) with
          | some m => askTerms s { q with lo := m + 1 }
          | none => if q.kind < 2 then askTerms s { q with kind := q.kind + 1, lo := 0 }
            else diverge s q.k 2 [(4, 4, q.point.toNat), (10, 2, q.lc), (12, 2, c.p.val)]
  | _, _ => s)

/-! ### Notices and losses -/

/-- TWIN_DISARM: the twin's notice. -/
def execTwinDisarm (s : State) : Host.Outcome State Fault Refusal := .next (if s.twin.armed.isSome then disarm s else s)

/-- TWIN_MESSAGE_TIMEOUT (R305): a message expected at a hold has not come within 10 ms. The held command fails, and the partition
disarms. -/
def execTwinMessageTimeout (s : State) : Host.Outcome State Fault Refusal :=
  .next (match s.twin.armed, s.twin.waiting with
  | some part, some (k, t) =>
    let s := failPaired (notBefore s (t + 10000000)) k stLockLost 0
    raise (bump (disarm s) (ctrSquare 18) 1) 0x000A 2 [(16, 1, part)]
  | _, _ => s)

/-- TWIN_MESSAGE_CRC_FAIL (R301): the last `n` messages are sent again from the buffer. -/
def execTwinMessageCrcFail (n : Nat) (s : State) : Host.Outcome State Fault Refusal :=
  let l := s.twin.buffer.drop (s.twin.buffer.length - n)
  .next (bump (l.foldl (fun s m => emit s (.twin m)) s) (ctrSquare 15) l.length)

/-- TWIN_LINK_TRAIN (R485): the link trains, or retrains after a loss of lock. -/
def execTwinLinkTrain (s : State) : Host.Outcome State Fault Refusal :=
  .next (if s.boot.rails then bump { s with twin := { s.twin with linkUp := true } } (ctrSquare 61) 1 else s)

/-- TWIN_LINK_DOWN (R485): the link loses lock; `lanes` are those still locked. With a partition armed, R305 applies to the next hold; otherwise the event is raised. -/
def execTwinLinkDown (lanes : BitVec 4) (s : State) : Host.Outcome State Fault Refusal :=
  .next (if s.twin.linkUp then
      let s := { s with twin := { s.twin with linkUp := false } }
      if s.twin.armed.isSome then s else raise s 0x0406 0 [(16, 1, lanes.toNat)]
    else s)

end Sys2Proof.Machine
end

