-- ==== Sys2Proof/Machine/Command.lean ====
section
/-! DEFINITION. Commands that move data: the partition commands other than RUN (R158, R159, R171, R329, R336 to R338), and the ending of a
command with its record. -/

namespace Sys2Proof.Machine

/-! ### Beginning (R315, R329) -/

/-- Whether a partition command other than RUN begins now: it is first in its partition's order, and no request is in either slot. -/
def mayBegin (s : State) (c : Cmd) : Bool :=
  let k := pktPart c.pkt
  (s.part k).adm.head? == some c.id && (admitted s k).isEmpty && admits s k && orderOk s c

/-- Whether the slot of a SESSION_APPEND or a SESSION_CLOSE is not ready for it: an earlier command that names it has not completed, or, for an
append, zeros are still to be written (R159, R164, R167). -/
def appendWaits (s : State) (c : Cmd) : Bool :=
  pktOp c.pkt == 0x0302 && (slotBusy s c.id (pktSession c.pkt) || owed s .zeros) || pktOp c.pkt == 0x0303 && slotBusy s c.id (pktSession c.pkt)

/-- Begin a partition command: counted, paired in an armed partition, then `act`. A partition deleted while the command waited is no
longer valid. -/
def beginPart (s : State) (cid op : Nat) (act : Cmd → State → State) : State :=
  match waitingCmd s cid op with
  | none => s
  | some c =>
    let k := pktPart c.pkt
    if mayBegin s c then
      let s := votePart s k
      if appendWaits s c then s
      else if pentValid (s.pent k) then
        let s := endWarm (clearIfDue s k) k
        let s := admitPaired (bump (modCmd s cid fun d => { d with began := s.now }) (ctrPart k 10) 1) k cid op
        match waitingCmd s cid op with
        | none => s
        | some c => act c s
      else finish s cid stBadPart 0
    else s

/-! ### Sources and destinations (R188, R474, R525) -/

/-- A command has begun and waits for bytes. -/
def markBegun (s : State) (cid : Nat) : State := modCmd s cid fun d => { d with stage := .begun }

/-- The bytes at a source of a command, once they have come: from device memory, or from the host or a peer, whose accesses are issued first. -/
def source (s : State) (c : Cmd) (k a n : Nat) : Option (List (Byte × Bool)) × State :=
  let w : Word := BitVec.ofNat 64 a
  match c.data with
  | some d => (some d, s)
  | none =>
    if n = 0 then (some [], s)
    else if spaceOf w = 0 then
      match fetchVia s (viaPart k) (addrOf w) n k (.command c.id) with
      | (some l, s) => (some l, dropBrought s (.command c.id))
      | (none, s) => (none, markBegun s c.id)
    else (none, hostMove (markBegun s c.id) (spaceOf w == 2) (addrOf w) false n [] false (.cmdRead c.id))

/-- The address of the first poisoned granule of a source. -/
def poisonAt (a : Nat) (bs : List (Byte × Bool)) : Option Nat :=
  ((List.range bs.length).find? fun i => (bs[i]?.map fun b : Byte × Bool => b.2).getD false).map fun i =>
    (addrOf (BitVec.ofNat 64 a) + i) / 64 * 64

/-- Write bytes of a partition up to the first that meets a retired sub-channel: the physical croft of that slice, when there is one. -/
def putPart (s : State) (cid k a : Nat) (bs : List (Byte × Bool)) : Option Nat × State :=
  let n := reachable s k a bs.length
  let s' := writeVia s (viaPart k) a ((bs.take n).map (·.1)) (fun i => (bs[i]?.map fun b : Byte × Bool => b.2).getD false) .reeve (.command cid)
  (if n < bs.length then some (match partAddr s k (a + n) with
    | .ok w => w.p
    | .error _ => 0) else none, s')

/-- Bytes for an address in the runs of granules that are poisoned alike (R337, R365). -/
def poisonRuns (a : Nat) (bs : List (Byte × Bool)) : List (Nat × List Byte × Bool) :=
  joinRuns ((piecesOf 64 a bs.length).map fun x =>
    let l := (bs.drop (x.1 - a)).take x.2
    (x.1, l.map (·.1), l.any (·.2)))

/-- Write a command's bytes to a destination in the form of R188: the croft of a retired sub-channel it met, when it met one. -/
def deliverTo (s : State) (c : Cmd) (k a : Nat) (bs : List (Byte × Bool)) : Option Nat × State :=
  let w : Word := BitVec.ofNat 64 a
  if spaceOf w = 0 then putPart s c.id k (addrOf w) bs
  else if bs.isEmpty then (none, s)
  else (none, (poisonRuns (addrOf w) bs).foldl (fun s r =>
      hostMove s (spaceOf w == 2) r.1 true r.2.1.length r.2.1 r.2.2 (.cmdWrite c.id)) s)

/-- A command with nothing left to move but its writes: UNIT_LOST where they met a retired sub-channel, else the status given. -/
def settleAfter (s : State) (cid : Nat) (lost : Option Nat) (status detail : Nat) : State :=
  match lost with
  | some p => settle s cid stUnitLost p
  | none => settle s cid status detail

/-! ### MEM_FILL and MEM_COPY (R337, R370) -/

/-- MEM_FILL: whole words of the pattern, never read. -/
def fillPart (s : State) (cid k a n : Nat) (pat : BitVec 64) : Option Nat × State :=
  let m := reachable s k a n
  (if m < n then some (match partAddr s k (a + m) with
    | .ok w => w.p
    | .error _ => 0) else none, fillVia s (viaPart k) a m pat .reeve (.command cid))

def execMemFill (cid : Nat) (s : State) : Host.Outcome State Fault Refusal :=
  .next (beginPart s cid 0x0202 fun c s =>
    let r := fillPart s cid (pktPart c.pkt) (pktField c.pkt 16 8) (pktField c.pkt 24 8) (BitVec.ofNat 64 (pktField c.pkt 32 8))
    settleAfter r.2 cid r.1 0 0)

/-- Whether two ranges of addresses in the form of R188 share a byte. -/
def rangesMeet (a b n : Nat) (samePart : Bool) : Bool :=
  let x : Word := BitVec.ofNat 64 a
  let y : Word := BitVec.ofNat 64 b
  spaceOf x == spaceOf y && (spaceOf x != 0 || samePart) && decide (addrOf x < addrOf y + n ∧ addrOf y < addrOf x + n)

/-- Free bytes for an undefined destination. -/
def freeBytes (s : State) (n : Nat) : List (Byte × Bool) :=
  let w := freeVal (8 * n) s
  (List.range n).map fun i => (w.extractLsb' (8 * i) 8, false)

/-- The transfer of a MEM_COPY. An overlapping destination is undefined (R337). -/
def moveCopy (s : State) (c : Cmd) : State :=
  let src := pktField c.pkt 16 8
  let dst := pktField c.pkt 24 8
  let n := pktField c.pkt 32 8
  let sp := pktField c.pkt 40 1
  match source s c sp src n with
  | (none, s) => s
  | (some bs, s) =>
    let meet := rangesMeet src dst n (decide (sp = pktPart c.pkt))
    let r := deliverTo s c (pktPart c.pkt) dst (if meet then freeBytes s n else bs)
    let s := if meet then drew r.2 else r.2
    match poisonAt src bs with
    | some a => settleAfter s c.id r.1 stPoison a
    | none => settleAfter s c.id r.1 0 0

def execMemCopy (cid : Nat) (s : State) : Host.Outcome State Fault Refusal :=
  .next (beginPart s cid 0x0203 fun c s => moveCopy s c)

/-! ### LOAD_TABLE (R125, R336) -/

/-- The descriptor a LOAD_TABLE writes; `codebook` is its first 32 source bytes for CB4. -/
def newShard (s : State) (k : Nat) (p : BitVec 512) (codebook : BitVec 256) : Shard where
  rfmt := BitVec.ofNat 4 (pktField p 37 1)
  valid := true
  lost := 0
  dm := BitVec.ofNat 4 (pktField p 38 1)
  pitch := BitVec.ofNat 8 (pktField p 39 1)
  rowsm1 := BitVec.ofNat 24 (pktField p 32 4)
  salt16 := if pktField p 37 1 / 16 % 2 = 1 then BitVec.ofNat 16 (pktField p 44 2) else (pentSalt (s.pent k)).extractLsb' 0 16
  band := BitVec.ofNat 19 (pktField p 40 4)
  wbase := BitVec.ofNat 64 (pktField p 24 8)
  codebook := codebook

/-- Bytes of a shard's band in each bank. -/
def Shard.bandBytes (d : Shard) : Nat := cdiv d.rows 96 * d.pitchBytes

/-- Whether two ranges share a byte. -/
def meetRanges (a n b m : Nat) : Bool := decide (a < b + m ∧ b < a + n)

/-- Whether a slice can take a shard under R336, beside the shards `others`. -/
def shardFits (s : State) (q : Nat) (d : Shard) (others : List Shard) : Bool :=
  let m := (s.slice q).map
  let off := d.wbase.toNat % Config.sliceBytes
  let band := 32 * d.band.toNat
  decide (d.wbase.toNat % 4096 = 0) && decide (cdiv (rowBytes d.rfmt.toNat d.dim) 32 * 32 ≤ d.pitchBytes) &&
    decide (m.tableBase ≤ off ∧ off + d.window ≤ Config.sliceBytes) && decide (Config.bankBytes - m.tblBytes ≤ band) &&
    decide (band + d.bandBytes ≤ Config.bankBytes) && shardOk s q &&
    others.all fun x => !meetRanges d.wbase.toNat d.window x.wbase.toNat x.window && !meetRanges band d.bandBytes (32 * x.band.toNat) x.bandBytes

/-- The slice a LOAD_TABLE writes to, when every check of R336 holds. -/
def loadTarget (s : State) (k tid : Nat) (d : Shard) : Option Nat :=
  match dataOf s k (d.wbase.toNat / Config.sliceBytes) with
  | none => none
  | some p =>
    let q := tableSlice s p
    if d.wbase.toNat / Config.sliceBytes < partN s k ∧
        shardFits s q d (((shardsOf s q).filter fun e => e.1 ≠ tid).map (·.2)) = true then some q else none

/-- A LOAD_TABLE with its source: rows and descriptor, or VALID = 0 for a poisoned source (R367). Loading a TID removes its lost-list entries
(R409). -/
def moveTable (s : State) (c : Cmd) : State :=
  let p := c.pkt
  let k := pktPart p
  let tid := pktField p 36 1
  match loadTarget s k tid (newShard s k p 0) with
  | none => settle s c.id stBadTable 0
  | some q =>
    match source s c k (pktField p 16 8) (tableBytes p) with
    | (none, s) => s
    | (some bs, s) =>
      let cb := if pktField p 37 1 % 16 = 15 then 32 else 0
      let d := newShard s k p (BitVec.ofNat 256 (leNat ((bs.take cb).map (·.1))))
      match poisonAt (pktField p 16 8) bs with
      | some a => settle (setShard s q tid { s.shard q tid with valid := false }) c.id stPoison a
      | none =>
        let s := dropLost (setShard s q tid d) fun w => lostKind w == 0 && lostPart w == k && lostTid w == tid
        let r := putPart s c.id k d.wbase.toNat (bs.drop cb)
        settleAfter r.2 c.id r.1 0 0

def execLoadTable (cid : Nat) (s : State) : Host.Outcome State Fault Refusal :=
  .next (beginPart s cid 0x0201 fun c s => moveTable s c)

/-! ### Sessions (R158, R159, R171) -/

/-- The geometry of a SESSION_OPEN as a slot that is not open yet. -/
def geomOf (k : Nat) (p : BitVec 512) : Sess :=
  let g : BitVec 64 := BitVec.ofNat 64 (pktField p 16 8)
  { Sess.reset with
    part := BitVec.ofNat 3 k
    slide := g.getLsbD 5
    laym1 := g.extractLsb' 8 4
    headm1 := g.extractLsb' 12 4
    dh128 := g.getLsbD 16
    kvfmt := g.extractLsb' 17 2
    capbm1 := g.extractLsb' 32 13 }

/-- Whether a slot is not FREE, or is being opened. -/
def slotTaken (s : State) (i : Nat) : Bool := (s.ses i).state != 0 || s.cmds.any fun c => (c.post.map (·.1)) == some i

/-- A SESSION_OPEN: the pages are zeroed, and the slot is OPEN when its record is written (`handRec`). Zeros for pages in a retired
sub-channel are discarded, and the slot opens all the same: the spec is silent (log entry 83). -/
def openSession (c : Cmd) (s : State) : State :=
  let k := pktPart c.pkt
  let i := pktSession c.pkt
  let x := geomOf k c.pkt
  if slotTaken s i then settle s c.id stBadSession i
  else if sessFits x = false then settle s c.id stReserved 16
  else
    let ext := sessExt s k x
    match poolAlloc s k ext with
    | none => settle s c.id stCapacity 0
    | some o =>
      let x := { x with poff := BitVec.ofNat 32 o, ext := BitVec.ofNat 32 ext }
      let s := zeroAll s k x
      settle (modCmd s c.id fun d => { d with post := some (i, { x with state := 1 }) }) c.id 0 0

def execSessionOpen (cid : Nat) (s : State) : Host.Outcome State Fault Refusal := .next (beginPart s cid 0x0301 openSession)

/-- The bytes of a SESSION_APPEND's source. -/
def appendBytes (x : Sess) (a : Nat) : Nat := 2 * a * sessLayers x * sessHeads x * sessDh x * sessW x

/-- Write positions `t0` to `t1 − 1` of one block from a source: the keys in rows, each value transposed into its column (R161, R171). -/
def putBlock (s : State) (cid k : Nat) (x : Sess) (a : Nat) (t0 t1 : Nat) (vec : Nat → List (Byte × Bool)) : Option Nat × State :=
  let w := sessW x
  let dh := sessDh x
  let dw := dh * w
  let ts := (List.range (t1 - t0)).map (· + t0)
  let keys := ts.flatMap fun t => (vec t).take dw
  let r := putPart s cid k (a + t0 % 64 * dw) keys
  (List.range dh).foldl (fun (r : Option Nat × State) d =>
    let col := ts.flatMap fun t => ((vec t).drop (dw + d * w)).take w
    let y := putPart r.2 cid k (a + 64 * dw + d * 64 * w + t0 % 64 * w) col
    (if r.1.isSome then r.1 else y.1, y.2)) r

/-- Write the appended positions of every layer and head. -/
def putAppend (s : State) (cid k : Nat) (x : Sess) (a : Nat) (bs : List (Byte × Bool)) : Option Nat × State :=
  let l0 := x.len.toNat
  let rec' := 2 * sessDh x * sessW x
  let blocks := (List.range ((l0 + a - 1) / 64 + 1 - l0 / 64)).map (· + l0 / 64)
  (List.range (sessLayers x)).foldl (fun r l => (List.range (sessHeads x)).foldl (fun r h => blocks.foldl (fun (r : Option Nat × State) b =>
    match pageAddr r.2 k x l h ((x.first.toNat + b) % (sessCapb x + 1)) with
    | none => r
    | some pa =>
      let base := (l * sessHeads x + h) * a * rec'
      let y := putBlock r.2 cid k x pa (max l0 (64 * b)) (min (l0 + a) (64 * b + 64)) fun t => (bs.drop (base + (t - l0) * rec')).take rec'
      (if r.1.isSome then r.1 else y.1, y.2)) r) r) ((none : Option Nat), s)

/-- A SESSION_APPEND: its positions, then the commit of R168 with NEWLEN = LEN + A; a failure restores the slot (R170). -/
def moveAppend (s : State) (c : Cmd) : State :=
  let k := pktPart c.pkt
  let i := pktSession c.pkt
  let x := s.ses i
  let a := pktField c.pkt 24 2 + 1
  let l0 := x.len.toNat
  let src := pktField c.pkt 16 8
  if sessOpen x = false ∨ x.part.toNat ≠ k then settle s c.id stBadSession i
  else
    let kind := commitKind x (l0 + a) (max 64 a)
    if kind = .bad ∨ (kind = .slide ∧ 64 < a) then settle (rollback s i l0 a) c.id stSessLength (l0 + a)
    else if rangeOk s k src (appendBytes x a) = false then settle (rollback s i l0 a) c.id stReserved 16
    else match source s c k src (appendBytes x a) with
      | (none, s) => s
      | (some bs, s) =>
        match poisonAt src bs with
        | some pa => settle (rollback s i l0 a) c.id stPoison pa
        | none =>
          match putAppend s c.id k x a bs with
          | (some p, s) => settle (rollback s i l0 a) c.id stUnitLost p
          | (none, s) => settle (commitFor s c.id i (l0 + a) l0 a kind) c.id 0 0

def execSessionAppend (cid : Nat) (s : State) : Host.Outcome State Fault Refusal :=
  .next (beginPart s cid 0x0302 fun c s => moveAppend s c)

/-- SESSION_CLOSE: the slot is FREE; its pages are not cleared, and its lost-list entry goes (R409). -/
def execSessionClose (cid : Nat) (s : State) : Host.Outcome State Fault Refusal :=
  .next (beginPart s cid 0x0303 fun c s =>
    let i := pktSession c.pkt
    let x := s.ses i
    if (sessOpen x || sessLost x) && x.part.toNat == pktPart c.pkt then
      let s := setSes s i { x with state := 0 }
      settle (dropLost s fun w => lostKind w == 1 && lostNum w == i) cid 0 0
    else settle s cid stBadSession i)

/-! ### The end of a command -/

/-- Whether a command still waits for bytes it reads. -/
def stillReads (s : State) (cid : Nat) : Bool := owed s (.command cid) || s.link.reqs.any fun r => decide (r.why = .cmdRead cid)

/-- A begun command goes on when its source has come. -/
def resumeCmd (s : State) (cid : Nat) : State :=
  match cmdBy s cid with
  | none => s
  | some c =>
    let op := pktOp c.pkt
    if c.stage ≠ .begun ∨ stillReads s cid = true then s
    else if op = 0x0201 then moveTable s c
    else if op = 0x0203 then moveCopy s c
    else if op = 0x0302 then moveAppend s c
    else s

end Sys2Proof.Machine
end

