-- ==== Sys2Proof/Machine/Lms.lean ====
section
/-! DEFINITION. The hash-based signatures of the part (R496 to R501): HSS of two levels as RFC 8554 defines it, with SHA-256 and the one-time
signatures LMOTS_SHA256_N32_W4. Only SHA-256 has no body here, and what RFC 8554 derives from a seed (log entry 5). Public keys, signatures and
type codes are in the byte order of RFC 8554: the most significant byte first. -/

namespace Sys2Proof.Machine

/-- SHA-256 as 32 bytes, the first digest byte first. -/
def digest (bs : List Byte) : List Byte := (leBytes 32 (Config.sha256 bs).toNat).reverse

/-- The bytes of a number, `n` of them, most significant first. -/
def beBytes (n x : Nat) : List Byte := (leBytes n x).reverse

/-- The number of bytes, most significant first. -/
def beNat (bs : List Byte) : Nat := leNat bs.reverse

/-- `n` bytes from an offset. -/
def cut (bs : List Byte) (off n : Nat) : List Byte := (bs.drop off).take n

/-- A tree: its identifier I, and the type code and the height of its level (R496). -/
structure Tree where
  ident : List Byte
  code  : Nat
  high  : Nat
deriving DecidableEq, Repr

/-! ### One-time signatures: 67 chains of 15 steps -/

/-- Type code of LMOTS_SHA256_N32_W4. -/
def otsCode : Nat := 3

/-- Bytes of a one-time signature: its type code, C, and 67 chain values. -/
def otsBytes : Nat := 2180

/-- The 4-bit digits of bytes, the high half of each first. -/
def nibbles (bs : List Byte) : List Nat := bs.flatMap fun b => [b.toNat / 16, b.toNat % 16]

/-- The digits that a message digest gives the 67 chains: its own 64, and three of their checksum. -/
def otsDigits (q : List Byte) : List Nat :=
  let d := nibbles q
  let sum := (d.map fun x => 15 - x).foldl (· + ·) 0
  d ++ (nibbles (beBytes 2 (16 * sum))).take 3

/-- The digest of a message under leaf `q` of a tree and a randomiser C. -/
def otsMessage (t : Tree) (q : Nat) (c msg : List Byte) : List Byte := digest (t.ident ++ beBytes 4 q ++ beBytes 2 0x8181 ++ c ++ msg)

/-- `n` steps of chain `i` from step `j`. -/
def otsChain (t : Tree) (q i : Nat) : Nat → Nat → List Byte → List Byte
  | 0, _, x => x
  | n + 1, j, x => otsChain t q i n (j + 1) (digest (t.ident ++ beBytes 4 q ++ beBytes 2 i ++ beBytes 1 j ++ x))

/-- The public key of a leaf, from the ends of its chains. -/
def otsPublic (t : Tree) (q : Nat) (ends : List (List Byte)) : List Byte := digest (t.ident ++ beBytes 4 q ++ beBytes 2 0x8080 ++ ends.flatten)

/-- The public key that a one-time signature of a message leads to. -/
def otsRecover (t : Tree) (q : Nat) (sig msg : List Byte) : List Byte :=
  otsPublic t q ((otsDigits (otsMessage t q (cut sig 4 32) msg)).zipIdx.map fun d => otsChain t q d.2 (15 - d.1) d.1 (cut sig (36 + 32 * d.2) 32))

/-! ### Trees -/

/-- The node of a leaf, whose number is 2^h + q. -/
def leafNode (t : Tree) (q : Nat) (key : List Byte) : List Byte := digest (t.ident ++ beBytes 4 (2 ^ t.high + q) ++ beBytes 2 0x8282 ++ key)

/-- The node numbered `r` above two others. -/
def innerNode (t : Tree) (r : Nat) (left right : List Byte) : List Byte := digest (t.ident ++ beBytes 4 r ++ beBytes 2 0x8383 ++ left ++ right)

/-- The root that a path leads to from node `r`. -/
def pathRoot (t : Tree) : Nat → List (List Byte) → List Byte → List Byte
  | _, [], x => x
  | r, y :: ys, x => pathRoot t (r / 2) ys (if r % 2 = 1 then innerNode t (r / 2) y x else innerNode t (r / 2) x y)

/-- Bytes of a signature of one tree: q, the one-time signature, the type code and the path. -/
def lmsBytes (high : Nat) : Nat := 8 + otsBytes + 32 * high

/-- A public key of one tree: its type codes, I and the root. -/
def lmsPublic (t : Tree) (root : List Byte) : List Byte := beBytes 4 t.code ++ beBytes 4 otsCode ++ t.ident ++ root

/-- Whether a signature of a message verifies under the public key of a tree of height `high` and type `code`. -/
def lmsVerify (code high : Nat) (pub msg sig : List Byte) : Bool :=
  let t : Tree := ⟨cut pub 8 16, code, high⟩
  let q := beNat (cut sig 0 4)
  let path := (List.range high).map fun i => cut sig (8 + otsBytes + 32 * i) 32
  pub.length == 56 && sig.length == lmsBytes high && beNat (cut pub 0 4) == code && beNat (cut pub 4 4) == otsCode && beNat (cut sig 4 4) == otsCode &&
    beNat (cut sig (4 + otsBytes) 4) == code && decide (q < 2 ^ high) &&
    pathRoot t (2 ^ high + q) path (leafNode t q (otsRecover t q (cut sig 4 otsBytes) msg)) == cut pub 24 32

/-! ### The two levels -/

/-- Whether a two-level signature of a message verifies under a public key, for trees of the types and heights given: the first tree signs the
public key of the second, which signs the message. -/
def hssVerify (code1 high1 code2 high2 : Nat) (pub msg sig : List Byte) : Bool :=
  let n := lmsBytes high1
  let pub2 := cut sig (4 + n) 56
  pub.length == 60 && sig.length == 60 + n + lmsBytes high2 && beNat (cut pub 0 4) == 2 && beNat (cut sig 0 4) == 1 &&
    lmsVerify code1 high1 (pub.drop 4) pub2 (cut sig 4 n) && lmsVerify code2 high2 pub2 msg (sig.drop (60 + n))

/-- A signature of the root key: both trees are LMS_SHA256_M32_H20 (R496). -/
def rootVerify (pub msg sig : List Byte) : Bool := hssVerify 8 20 8 20 pub msg sig

/-! ### The device attestation key (R501) -/

/-- The level 1 tree: LMS_SHA256_M32_H10. -/
def upperTree (seed : BitVec 256) : Tree := ⟨beBytes 16 (Config.lmsId seed 1 0).toNat, 6, 10⟩

/-- The level 2 tree numbered `k`: LMS_SHA256_M32_H15. -/
def lowerTree (seed : BitVec 256) (k : Nat) : Tree := ⟨beBytes 16 (Config.lmsId seed 2 k).toNat, 7, 15⟩

/-- The secret start of chain `i` of leaf `q` of a tree (RFC 8554, Appendix A). -/
def otsSecret (t : Tree) (secret : BitVec 256) (q i : Nat) : List Byte :=
  digest (t.ident ++ beBytes 4 q ++ beBytes 2 i ++ beBytes 1 0xFF ++ beBytes 32 secret.toNat)

/-- The public key of leaf `q` of a tree. -/
def otsKey (t : Tree) (secret : BitVec 256) (q : Nat) : List Byte :=
  otsPublic t q ((List.range 67).map fun i => otsChain t q i 15 0 (otsSecret t secret q i))

/-- The node numbered `r` of a tree, `n` levels above its leaves. -/
def treeNode (t : Tree) (secret : BitVec 256) : Nat → Nat → List Byte
  | 0, r => leafNode t (r - 2 ^ t.high) (otsKey t secret (r - 2 ^ t.high))
  | n + 1, r => innerNode t r (treeNode t secret n (2 * r)) (treeNode t secret n (2 * r + 1))

/-- The public key of a tree. -/
def treePublic (t : Tree) (secret : BitVec 256) : List Byte := lmsPublic t (treeNode t secret t.high 1)

/-- The signature of a message with leaf `q` of a tree, under the randomiser `c`. -/
def lmsSign (t : Tree) (secret : BitVec 256) (q : Nat) (c msg : List Byte) : List Byte :=
  let ots := beBytes 4 otsCode ++ c ++ ((otsDigits (otsMessage t q c msg)).zipIdx.flatMap fun d => otsChain t q d.2 d.1 0 (otsSecret t secret q d.2))
  let path := (List.range t.high).map fun i =>
    let r := (2 ^ t.high + q) / 2 ^ i
    treeNode t secret i (if r % 2 = 1 then r - 1 else r + 1)
  beBytes 4 q ++ ots ++ beBytes 4 t.code ++ path.flatten

/-- The randomiser C of a leaf. -/
def randomiser (seed : BitVec 256) (level tree q : Nat) : List Byte := beBytes 32 (Config.lmsRand seed level tree q).toNat

/-- The device attestation public key: that of the level 1 tree. -/
def devicePublic (seed : BitVec 256) : List Byte := beBytes 4 2 ++ treePublic (upperTree seed) (Config.lmsSeed seed 1 0)

/-- The signature of the public key of tree `k` with level 1 leaf `k`: the same at every boot (R501). -/
def treeSignature (seed : BitVec 256) (k : Nat) : List Byte :=
  lmsSign (upperTree seed) (Config.lmsSeed seed 1 0) k (randomiser seed 1 0 k) (treePublic (lowerTree seed k) (Config.lmsSeed seed 2 k))

/-- An attestation-key signature of a message with leaf `q` of tree `k` (R501). -/
def deviceSign (seed : BitVec 256) (k q : Nat) (msg : List Byte) : List Byte :=
  beBytes 4 1 ++ treeSignature seed k ++ treePublic (lowerTree seed k) (Config.lmsSeed seed 2 k) ++
    lmsSign (lowerTree seed k) (Config.lmsSeed seed 2 k) q (randomiser seed 2 k q) msg

end Sys2Proof.Machine
end

