-- ==== Sys2Proof/Machine/Device.lean ====
section
/-! DEFINITION. Device commands (R333, R339, R340): SET_PARTITION, SET_ENVELOPE, QUERY_FLOORPLAN, READ_TELEMETRY, TIME_SYNC and ATTEST. -/

namespace Sys2Proof.Machine

/-! ### SET_PARTITION (R184, R192, R212, R213, R215, R269, R339) -/

/-- The entry a SET_PARTITION stores: the reset values where VALID is 0. -/
def storedEntry (w : BitVec 256) : BitVec 256 := if pentValid w then w else ptabRates

/-- ACTIVE crofts of the hamlets of a mask, rising: by village, hamlet and croft (R163). -/
def activeOf (s : State) (mask : BitVec 16) : List Nat :=
  (List.range 512).filter fun p => mask.getLsbD (hamletOf p) && (s.croft p).cstate == .active

/-- Whether the crofts of a partition are numbered anew: its hamlets change, it comes or goes, or it has a capacity fault (R420). -/
def renumbers (s : State) (k : Nat) (w : BitVec 256) : Bool :=
  let o := s.pent k
  pentValid o != pentValid w || (pentValid w && pentMask o != pentMask w) || (s.part k).capFault

/-- Slices the partition has under the new entry. -/
def slicesUnder (s : State) (k : Nat) (w : BitVec 256) : List Nat :=
  if pentValid w = false then [] else if renumbers s k w then activeOf s (pentMask w) else partSlices s k

/-- Whether PSALT, TBL, SPOOL or HMASK change (R215). -/
def placesChange (s : State) (k : Nat) (w : BitVec 256) : Bool :=
  let o := s.pent k
  renumbers s k w || (pentValid w && (pentSalt o != pentSalt w || pentTbl o != pentTbl w || pentSpool o != pentSpool w))

/-- Whether a loaded shard of a slice that stays would break R215 under a new TBL. -/
def shardStranded (s : State) (q : Nat) (w : BitVec 256) : Bool :=
  let m : SliceMap := ⟨0, pentTbl w, 0, 0⟩
  (shardsOf s q).any fun e => decide (32 * e.2.band.toNat < Config.bankBytes - m.tblBytes ∨ e.2.wbase.toNat % Config.sliceBytes < m.tableBase)

/-- Commands of a partition that are admitted: in a slot, or running alone. -/
def hasAdmitted (s : State) (k : Nat) : Bool :=
  !(admitted s k).isEmpty || s.cmds.any fun c => isPartOp (pktOp c.pkt) && pktPart c.pkt == k && (c.stage == .begun || c.stage == .finished)

/-- The STATE_CONFLICT cases of R339. DESIGN CHOICE (log entry 99): deleting a partition of level 1, which stores CLEVEL 0, changes CLEVEL. -/
def setConflict (s : State) (k : Nat) (w : BitVec 256) : Bool :=
  let o := s.pent k
  s.twin.armed == some k || (placesChange s k w && (!(admitted s k).isEmpty || !(slotsOf s k fun _ => true).isEmpty)) ||
    (pentValid w && (List.range 8).any fun j => j != k && pentValid (s.pent j) && (pentMask (s.pent j) &&& pentMask w) != 0) ||
    (pentLevel o != pentLevel w && s.queues.any fun e => qEn e.2 && (qMask e.2).getLsbD k) ||
    (pentValid o && !pentValid w && hasAdmitted s k) ||
    (pentValid w && ((partSlices s k).filter fun q => (slicesUnder s k w).contains q).any fun q => shardStranded s q w)

/-- HC of a slice under a new entry (R189, R192). -/
def hcUnder (s : State) (q : Nat) (w : BitVec 256) : Nat := (SliceMap.mk (liveOf s q) (pentTbl w) (pentSpool w) (pentSalt w)).hc

/-- Bytes by which SPOOL exceeds the smallest HC under the new entry. -/
def spoolOver (s : State) (k : Nat) (w : BitVec 256) : Nat :=
  4096 * pentSpool w - ((slicesUnder s k w).map fun q => hcUnder s q w).foldl min (4096 * pentSpool w)

/-- A slice leaves its partition (R215): no shard, undefined contents, the reset mapping. -/
def leaveSlice (s : State) (k q : Nat) : State :=
  let s := flushSlice s q
  let s := (shardsOf s q).foldl (fun s e => setShard s q e.1 { e.2 with valid := false }) s
  let s := dropLost s fun w => lostKind w == 0 && lostPart w == k && lostNum w == q
  let s := modSlice s q fun x => { x with map := { SliceMap.reset with live := x.map.live } }
  makeUndef s q 0 8192

/-- A slice under its partition's entry: the mapping of the entry with its live sub-channels. Contents become undefined where it joins,
and below the table region where the mapping changes. -/
def mapSlice (s : State) (w : BitVec 256) (q : Nat) (joins : Bool) : State :=
  let m : SliceMap := ⟨liveOf s q, pentTbl w, pentSpool w, pentSalt w⟩
  if joins then makeUndef (modSlice (flushSlice s q) q fun x => { x with map := m }) q 0 8192
  else if (s.slice q).map = m then s
  else makeUndef (modSlice (flushSlice s q) q fun x => { x with map := m }) q 0 (generalRows m)

/-- The lost shards of the slices of hamlets that leave a partition are listed no more (R409). -/
def dropHamlets (s : State) (k : Nat) (gone : BitVec 16) : State :=
  dropLost s fun l => lostKind l == 0 && lostPart l == k && gone.getLsbD (hamletOf (lostNum l))

/-- The numbers of a partition are forgotten; a croft that had one and is not ACTIVE is FALLOW. -/
def unnumber (s : State) (k : Nat) : State :=
  let drop := fun {α : Type} (t : Table α) => t.filter fun e => ¬ (512 * k ≤ e.1 ∧ e.1 < 512 * k + 512)
  let had := (List.range 512).filter fun p => (s.croft p).inPart && (s.croft p).part == k
  let s := (s.floor.migs.filter fun m => m.part = k).foldl dropMig s
  let s := { s with floor := { s.floor with home := drop s.floor.home, comp := Tri.same (drop s.floor.comp.use), data := drop s.floor.data } }
  had.foldl (fun s p => modCroft s p fun x => { x with
    inPart := false, part := 0, pidx := 0, cstate := if x.cstate = .active then .active else .fallow }) s

/-- Number crofts 0 upward; the shards of a slice take its new index. -/
def numberCrofts (s : State) (k : Nat) (ps : List Nat) : State :=
  (ps.zipIdx).foldl (fun s x =>
    let s := setData (setComp s k x.2 (some x.1)) k x.2 (some x.1)
    let s := { s with floor := { s.floor with home := tset zeroN s.floor.home (512 * k + x.2) (villageOf x.1 + 1) } }
    let s := (shardsOf s x.1).foldl (fun s e => setShard s x.1 e.1 { e.2 with
      wbase := BitVec.ofNat 64 (x.2 * Config.sliceBytes + e.2.wbase.toNat % Config.sliceBytes) }) s
    modCroft s x.1 fun c => { c with inPart := true, part := k, pidx := x.2 }) s

/-- Portions of a partition that are no more have no θ (R444; log entry 64). -/
def dropPortions (s : State) (k : Nat) : State :=
  { s with therm := { s.therm with theta := s.therm.theta.filter fun e => ¬ (e.1 / 4 = k ∧ partInVillage s k (e.1 % 4) = false) } }

/-- Partition `k` takes the entry `w`. -/
def applyEntry (s : State) (k : Nat) (w : BitVec 256) : State :=
  let o := s.pent k
  let old := partSlices s k
  let new := slicesUnder s k w
  let anew := renumbers s k w
  let hamlets := (if pentValid o then pentMask o else 0) ||| (if pentValid w then pentMask w else 0)
  let s := (old.filter fun q => ¬ new.contains q).foldl (fun s q => leaveSlice s k q) s
  let s := { s with ptab := tset ptabReset s.ptab k (Tri.same w) }
  let s := if anew then numberCrofts (unnumber s k) k new else s
  let s := new.foldl (fun s q => mapSlice s w q (!old.contains q)) s
  let s := (old ++ new).foldl rehome s
  let s := dropHamlets s k ((if pentValid o then pentMask o else 0) &&& ~~~ (if pentValid w then pentMask w else 0))
  let s := if anew then modPart s k fun x => { x with capFault := false, holdStart := [] } else s
  let s := if pentValid o = pentValid w ∧ pentMask o = pentMask w then s
    else clearCounts (modPart s k fun x => { x with clearDue := false }) k hamlets
  let s := if pentValid w then s else dropLost s fun l => lostPart l == k
  genUp (dropPortions s k)

/-- SET_PARTITION. -/
def execSetPartition (cid : Nat) (s : State) : Host.Outcome State Fault Refusal :=
  .next (match deviceTurn s cid 0x0601 with
  | none => s
  | some c =>
    let k := pktPart c.pkt
    let s := voteMap (votePart s k)
    let w := storedEntry (pktEntry c.pkt)
    if setConflict s k w then finish s cid stConflict 0
    else if pentValid w ∧ 0 < spoolOver s k w then finish s cid stCapacity (spoolOver s k w)
    else finish (applyEntry s k w) cid 0 0)

/-! ### SET_ENVELOPE (R425 to R427, R500) -/

/-- Whether envelope `e` is permitted: E3 always, the others by the licence. -/
def permits (l : Option Licence) (e : Nat) : Bool :=
  e == 3 || match l with
    | some x => decide (1 ≤ e) && x.mask.getLsbD (e - 1)
    | none => false

/-- ROOTPK of an image (R498). -/
def rootKey (img : List Byte) : List Byte := cut img 16 60

/-- A licence as R425 lays it out: none where its length, MAGIC, VERSION, DEVID or signature fails. The signature is checked under the ROOTPK of
the running image (R500). -/
def readLicence (s : State) (bs : List Byte) : Option Licence :=
  let n := fun off k => leNat ((bs.drop off).take k)
  if bs.length = 5748 ∧ n 0 4 = 0x454C4943 ∧ n 4 2 = 1 ∧ n 8 8 = s.fuses.devid.toNat ∧
      rootVerify (rootKey s.boot.running) (bs.take 32) (bs.drop 32) = true then
    some ⟨BitVec.ofNat 8 (n 6 1), BitVec.ofNat 64 (n 16 8), bs⟩
  else none

/-- The envelope and the licence are stored; the envelope takes effect at the next 10 ms step (R427). -/
def setEnv (s : State) (l : Option Licence) (e : Nat) : State :=
  let s := eepromWas s (.env s.eeprom.env.use)
  let s := { s with eeprom := { s.eeprom with env := Tri.same ⟨l, e⟩ }, dev := { s.dev with envNext := e, lic := Tri.same l } }
  raise s 0x0208 0 [(16, 1, e), (20, 8, (l.map fun x : Licence => x.serial.toNat).getD 0)]

/-- A SET_ENVELOPE with the licence it supplies. A licence that arrives poisoned completes it with DATA_POISON (R366, R525; log entry
15). -/
def moveEnvelope (s : State) (c : Cmd) : State :=
  let e := pktField c.pkt 16 1
  match source s c (pktPart c.pkt) (pktField c.pkt 24 8) (pktField c.pkt 32 4) with
  | (none, s) => s
  | (some bs, s) =>
    match poisonAt (pktField c.pkt 24 8) bs, readLicence s (bs.map (·.1)) with
    | some a, _ => settle s c.id stPoison a
    | none, none => settle s c.id stSignature 0
    | none, some l =>
      let s := voteLic s
      if l.serial.toNat < (s.dev.lic.use.map fun x : Licence => x.serial.toNat).getD 0 ∨ permits (some l) e = false then settle s c.id stConflict 0
      else settle (setEnv s (some l) e) c.id 0 0

/-- SET_ENVELOPE. -/
def execSetEnvelope (cid : Nat) (s : State) : Host.Outcome State Fault Refusal :=
  .next (match deviceTurn s cid 0x0602 with
  | none => s
  | some c =>
    if pktField c.pkt 32 4 = 0 then
      let s := voteLic s
      let l := s.dev.lic.use
      if permits l (pktField c.pkt 16 1) then finish (setEnv s l (pktField c.pkt 16 1)) cid 0 0 else finish s cid stConflict 0
    else moveEnvelope s c)

/-! ### Reports (R340, R405, R519) -/

/-- A device command that writes bytes to DST: DETAIL is their count. -/
def report (s : State) (c : Cmd) (dst : Nat) (bs : List Byte) : State :=
  let r := deliverTo s c (pktPart c.pkt) dst (bs.map fun b => (b, false))
  settleAfter r.2 c.id r.1 0 bs.length

/-- QUERY_FLOORPLAN: the record at one instant, at most MAXLEN bytes of it. -/
def execQueryFloorplan (cid : Nat) (s : State) : Host.Outcome State Fault Refusal :=
  .next (match deviceTurn s cid 0x0701 with
  | none => s
  | some c =>
    let s := voteParts (voteRows (voteDefects (voteMap s)))
    report s c (pktField c.pkt 16 8) ((planRecord s).take (pktField c.pkt 24 4)))

/-- READ_TELEMETRY. -/
def execReadTelemetry (cid : Nat) (s : State) : Host.Outcome State Fault Refusal :=
  .next (match deviceTurn s cid 0x0702 with
  | none => s
  | some c =>
    let s := voteLife (voteParts s)
    report s c (pktField c.pkt 16 8) (telemetry s (pktField c.pkt 24 8) (pktField c.pkt 32 4)))

/-! ### TIME_SYNC (R484) -/

/-- Device time is given a value; one outside 0 to 2⁶³ − 1 is RESERVED_VALUE, DETAIL the offset of TVALUE. -/
def giveTime (s : State) (cid : Nat) (t : Int) : State :=
  if t < 0 ∨ (2 : Int) ^ 63 ≤ t then finish s cid stReserved 24
  else finish { s with dev := { s.dev with time := t.toNat } } cid 0 0

/-- The command of a TIME_SYNC whose turn it is and whose TMODE is `m`. -/
def timeSync (s : State) (cid m : Nat) : Option Cmd :=
  (deviceTurn s cid 0x0801).bind fun c => if pktField c.pkt 16 1 = m then some c else none

def execTimeSyncSet (cid : Nat) (s : State) : Host.Outcome State Fault Refusal :=
  .next (match timeSync s cid 0 with
  | none => s
  | some c => giveTime s cid (pktField c.pkt 24 8))

/-- TMODE 1 adds the signed TVALUE. -/
def execTimeSyncStep (cid : Nat) (s : State) : Host.Outcome State Fault Refusal :=
  .next (match timeSync s cid 1 with
  | none => s
  | some c => giveTime s cid ((s.dev.time : Int) + (BitVec.ofNat 64 (pktField c.pkt 24 8)).toInt))

def execTimeSyncRead (cid : Nat) (s : State) : Host.Outcome State Fault Refusal :=
  .next (match timeSync s cid 2 with
  | none => s
  | some _ => finish s cid 0 (s.dev.time % 2 ^ 64))

/-! ### Attestation (R501 to R509) -/

/-- T: the highest bit of TREEFUSE that reads 1 (R501). -/
def treeOf (s : State) : Nat := ((List.range 1024).filter fun i => s.fuses.treefuse.getLsbD i).foldl max 0

/-- The next tree: the first fuse bit above T that holds a burn is burned, and the level-2 tree has to be built; without a bit left the
QH9 can no longer attest (R504, R505). Whether a bit holds is a free value (log entry 4). -/
def newTree (s : State) : State :=
  match (List.range 1024).find? fun t => decide (treeOf s < t) && Config.burnHolds t with
  | none => { s with sec := { s.sec with dead := true } }
  | some t => { s with
      fuses := { s.fuses with treefuse := s.fuses.treefuse ||| BitVec.twoPow 1024 t }
      sec := { s.sec with tree := t, leaf := 0, built := false } }

/-- Write the leaf state to all three EEPROM copies; whether it succeeded, a free value (R504; log entry 4). -/
def writeLeaf (s : State) (tree limit : Nat) : Bool × State :=
  if freeVal 1 s = 1 then
    let s := eepromWas (drew s) (.leaf s.eeprom.leaf.use)
    (true, { s with eeprom := { s.eeprom with leaf := Tri.same ⟨tree, limit⟩ } })
  else (false, drew s)

/-- The starting leaf after a reset (R503), and the EEPROM write that reserves its block: where that fails, the next ATTEST makes it. -/
def startLeaf (s : State) : State :=
  let t := treeOf s
  let (v, l, s) := voteEeprom s.eeprom.leaf 6 s
  let s := { s with eeprom := { s.eeprom with leaf := l } }
  let fresh := match v with
    | none => true
    | some w => decide (t < w.tree ∨ (w.tree = t ∧ 32512 < w.limit))
  let s := if fresh then newTree s
    else { s with sec := { s.sec with tree := t, leaf := match v with
      | some w => if w.tree = t then w.limit else 0
      | none => 0 } }
  let s := { s with sec := { s.sec with ready := true } }
  if s.sec.dead then s else (writeLeaf s s.sec.tree (s.sec.leaf + 256)).2

/-- A reset has brought the part to READY: the starting leaf is set, once (R503). -/
def readyReset (s : State) : State := if s.sec.ready then s else startLeaf s

/-- Reserve the block of leaves that the next one lies in, where the EEPROM does not hold it: whether its write succeeded (R504). -/
def reserveLeaf (s : State) : Bool × State :=
  let (v, l, s) := voteEeprom s.eeprom.leaf 6 s
  let s := { s with eeprom := { s.eeprom with leaf := l } }
  match v with
  | none => writeLeaf s s.sec.tree (s.sec.leaf + 256)
  | some w =>
    if w.tree ≠ s.sec.tree then writeLeaf s s.sec.tree (s.sec.leaf + 256)
    else if w.limit ≤ s.sec.leaf then writeLeaf s s.sec.tree (w.limit + 256)
    else (true, s)

/-- Make a leaf ready for a signature (R503, R504): false where the QH9 cannot attest or the EEPROM write fails. -/
def readyLeaf (s : State) : Bool × State :=
  let s := readyReset s
  let s := if s.sec.dead = false ∧ 32768 ≤ s.sec.leaf then newTree s else s
  if s.sec.dead then (false, s) else reserveLeaf s

def ideCode : Ide → Nat
  | .off => 0
  | .secure => 1
  | .insecure => 2

/-- Input of M3 (R507). -/
def measuredState (s : State) : List Byte :=
  (List.range 8).flatMap (fun k => le 32 (s.pent k).toNat) ++ le 1 s.dev.env ++ le 1 (s.twin.armed.getD 0xFF) ++ le 1 (ideCode s.link.ide) ++
    le 5 0

/-- Exactly `n` bytes. -/
def exactly (n : Nat) (bs : List Byte) : List Byte := (padTo n bs).take n

/-- Bytes 0 to 255 of the report, which the signature covers (R508). -/
def reportBody (s : State) (nonce : Nat) : List Byte :=
  let lic := s.dev.lic.use
  le 4 0x54535441 ++ le 2 1 ++ le 2 0 ++ le 8 s.fuses.devid.toNat ++ le 8 s.dev.time ++ le 8 s.floor.gen ++ le 32 nonce ++
    digest s.boot.running ++ digest ((lic.map fun x : Licence => x.bytes).getD []) ++ digest (planRecord s) ++ digest (measuredState s) ++
    le 8 ((lic.map fun x : Licence => x.serial.toNat).getD 0) ++ le 4 s.dev.fwrel.toNat ++ le 2 s.sec.tree ++ le 2 0 ++ le 4 s.sec.leaf ++ le 44 0

/-- Bytes of an attestation report (R508). -/
def reportBytes : Nat := 11268

/-- The read-only region of the EEPROM as it reads: APK and ENDORSE. -/
def keyRegion (s : State) : List Byte := exactly 5776 s.eeprom.keys

/-- Its CRC-32C holds (R508). -/
def keysOk (s : State) : Bool := crc32c (keyRegion s) == s.eeprom.keysCrc

/-- The region holds what manufacture writes into it (R501, R508): APK is the device attestation public key, and ENDORSE a root-key signature
over DEVID followed by APK. -/
def keysGenuine (s : State) (root : List Byte) : Bool :=
  keysOk s && cut (keyRegion s) 0 60 == devicePublic s.fuses.seed &&
    rootVerify root (le 8 s.fuses.devid.toNat ++ cut (keyRegion s) 0 60) (cut (keyRegion s) 60 5716)

/-- The report of a body (R508). APK and ENDORSE are zero where their CRC fails. -/
def attestReport (s : State) (body : List Byte) : List Byte :=
  body ++ deviceSign s.fuses.seed s.sec.tree s.sec.leaf body ++ (if keysOk s then keyRegion s else List.replicate 5776 0)

/-- An ATTEST signs what it measured with the next leaf, and writes its report. -/
def signReport (s : State) (c : Cmd) (body : List Byte) : State :=
  report { s with sec := { s.sec with leaf := s.sec.leaf + 1 } } c (pktField c.pkt 48 8) (attestReport s body)

/-- An ATTEST measures at one instant, and signs or waits for the tree (R506, R507). -/
def attestGo (s : State) (c : Cmd) : State :=
  let r := readyLeaf s
  if r.1 = false then settle r.2 c.id stConflict 0
  else
    let s := voteLic (voteParts (voteRows (voteDefects (voteMap r.2))))
    let body := reportBody s (pktField c.pkt 16 32)
    if s.sec.built then signReport s c body else markBegun { s with sec := { s.sec with waiting := s.sec.waiting ++ [(c.id, body)] } } c.id

/-- ATTEST (R507, R509). -/
def execAttest (cid : Nat) (s : State) : Host.Outcome State Fault Refusal :=
  .next (match deviceTurn s cid 0x0A04 with
  | none => s
  | some c => if pktField c.pkt 56 4 < reportBytes then finish s cid stReserved 56 else attestGo s c)

/-- ATTEST_TREE_BUILT (R506): the level-2 tree is built, and an ATTEST that waits for it goes on. -/
def execAttestTreeBuilt (s : State) : Host.Outcome State Fault Refusal :=
  .next (if s.boot.stage = .ready ∧ s.sec.built = false ∧ s.sec.dead = false then
      let l := s.sec.waiting
      let s := { s with sec := { s.sec with built := true, waiting := [] } }
      l.foldl (fun s x => match cmdBy s x.1 with
        | some c => if c.stage = .begun then signReport s c x.2 else s
        | none => s) s
    else s)

/-- A command whose source has come goes on. -/
def resumeAny (s : State) (cid : Nat) : State :=
  match cmdBy s cid with
  | none => s
  | some c => if pktOp c.pkt = 0x0602 ∧ c.stage = .begun ∧ stillReads s cid = false then moveEnvelope s c else resumeCmd s cid

/-- REEVE_COMMAND_DONE (R320, R342): a command whose bytes have come from its banks goes on. The record of one whose outcome is decided is
written once its writes have completed; in an armed partition once the twin's completion fields are equal (R301). -/
def execReeveCommandDone (cid : Nat) (s : State) : Host.Outcome State Fault Refusal :=
  .next (match cmdBy s cid with
  | none => s
  | some c =>
    if c.stage = .begun then resumeAny s cid
    else if c.stage = .finished ∧ cmdQuiet s c = true then
      match c.done, pairOf s cid with
      | some r, _ => putRec s r
      | none, none => finish s cid c.status.toNat c.detail.toNat
      | none, some k =>
        if c.status ≠ 0 then finish (unpair s (pktPart c.pkt) cid c.status.toNat) cid c.status.toNat c.detail.toNat
        else
          let s := offerCrec s k (crecBits (pktOp c.pkt) 0 false false 0 0)
          if crecsIn s k then
            if crecsEqual s k then finish (dropPair s k) cid c.status.toNat c.detail.toNat else divergeAt s k 3
          else s
    else s)

end Sys2Proof.Machine
end

