-- ==== Sys2Proof/Machine/HostLink.lean ====
section
/-! DEFINITION. The host port (R465 to R478): the link going down and returning, HDM decoders, accesses of the host and of peers, back-invalidation,
snoops, the completions of accesses the QH9 issues, and IDE. -/

namespace Sys2Proof.Machine

/-! ### The link (R466, R467) -/

/-- Whether a width and a rate are among those the QH9 trains to (R465). -/
def linkRuns (width rate : Nat) : Bool := (width == 16 || width == 8) && (rate == 64 || rate == 32 || rate == 16)

/-- LINK_TRAINED (R466): training begins when PERST# is released and BOOTSTAGE has reached WAIT_FW. Below x16 at 64 GT/s the QH9 raises
LINK_DEGRADED. -/
def execLinkTrained (width rate : Nat) (s : State) : Host.Outcome State Fault Refusal :=
  .next (if s.link.perst = false ∧ s.boot.rails = true ∧ s.boot.stage ≠ .rom ∧ linkRuns width rate = true then
      let low := decide (width < 16 ∨ rate < 64)
      let s := { s with link := { s.link with
        width := width, rate := rate, deg := low, up := s.link.up || s.link.width == 0 } }
      if low then raise s 0x0401 1 [(16, 1, width), (17, 1, rate)] else s
    else s)

/-- LINK_DOWN (R467): fetching stops, and accesses to the host are held. Where the records of an outage before are not all written yet, its event
is raised now. -/
def execLinkDown (s : State) : Host.Outcome State Fault Refusal :=
  .next (if s.link.up then
      let s := match s.link.back with
        | none => s
        | some (t, n, _) => raise { s with link := { s.link with back := none } } 0x0402 2 [(16, 8, t), (24, 2, n)]
      { s with link := { s.link with
        up := false, downAt := s.now, downEnds := 0, downDone := false
        reqs := s.link.reqs.map fun r => { r with held := true } } }
    else s)

/-- Requests in execution, in order of admission, by command. -/
def inExecution (s : State) : List Nat := (sortBy (fun q : Req => q.ord) ((List.range 8).flatMap fun k => (admitted s k).map (·.2))).map (·.cid)

/-- LINK_DOWN_TIMEOUT (R467): after 1 s every request in execution ends as ABORT would end it; the records are held. -/
def execLinkDownTimeout (s : State) : Host.Outcome State Fault Refusal :=
  .next (if s.link.up = false ∧ s.link.width ≠ 0 ∧ s.link.downDone = false ∧ s.link.perst = false then
      let s := notBefore s (s.link.downAt + 1000000000)
      let r := endCommands s (inExecution s) stAborted 0
      { r.2 with link := { r.2.link with downEnds := r.1, downDone := true } }
    else s)

/-- A time of the bound of R343 after an outage that began at `t0` and ends now: the time the link was down does not count (R467). -/
def pastOutage (s : State) (t0 t : Nat) : Nat := if t ≤ t0 then t + (s.now - t0) else s.now

/-- The doorbells of a pair after an outage. -/
def shiftBells (s : State) (t0 : Nat) (x : Queue) : Queue := { x with rung := x.rung.map fun r => (r.1, pastOutage s t0 r.2.1, r.2.2) }

/-- LINK_UP (R467): the held records and writes go out in their order, and LINK_DOWN is raised with the outage when the records are written. -/
def execLinkUp (s : State) : Host.Outcome State Fault Refusal :=
  .next (if s.link.up = false ∧ s.link.width ≠ 0 ∧ s.link.perst = false then
      let t0 := s.link.downAt
      let qs := s.queues.map (·.1)
      let s := qs.foldl (fun s q => modQueue s q (shiftBells s t0)) s
      let s := { s with
        cmds := s.cmds.map fun c => { c with bellAt := pastOutage s t0 c.bellAt }
        link := { s.link with
          up := true
          back := some (s.now - t0, s.link.downEnds, s.queues.flatMap fun e => e.2.hold.map (·.cid))
          reqs := s.link.reqs.map fun r => { r with held := false, at0 := s.now } } }
      let s := qs.foldl pump s
      flushBack (evPump (2 * s.dev.evq.length + 1) s)
    else s)

/-! ### HDM decoders (R468, R470) -/

def decoderAt (s : State) (d : Nat) : Decoder := tget decoder0 s.link.decoders d

def setDecoder (s : State) (d : Nat) (x : Decoder) : State :=
  { s with link := { s.link with decoders := tset decoder0 s.link.decoders d x } }

/-- First device physical address past the committed ranges below decoder `d`. -/
def dpaAfter (s : State) (d : Nat) : Nat :=
  ((List.range d).map fun i => if (decoderAt s i).commit then (decoderAt s i).dpa + (decoderAt s i).size else 0).foldl max 0

/-- Whether a commit of decoder `d` at DPA base `a` meets R468. -/
def commitOk (s : State) (d a : Nat) : Bool :=
  let x := decoderAt s d
  let m := 2 ^ 28
  x.base % m == 0 && x.size % m == 0 && x.skip % m == 0 &&
    (List.range 4).all (fun i => if i < d then (decoderAt s i).commit else i == d || !(decoderAt s i).commit) &&
    (List.range 4).all (fun i => i == d || !(decoderAt s i).commit ||
      decide (a + x.size ≤ (decoderAt s i).dpa ∨ (decoderAt s i).dpa + (decoderAt s i).size ≤ a)) &&
    decide (a + x.size ≤ 0xC000000000)

/-- HDM_DECODER_COMMIT: DPAbase follows the previous range and the skip; a commit that breaks R468 fails with the error of a decoder. -/
def commitDecoder (s : State) (d : Nat) : State :=
  let x := decoderAt s d
  let a := dpaAfter s d + x.skip
  if x.commit then s
  else if commitOk s d a then setDecoder s d { x with commit := true, err := false, dpa := a }
  else setDecoder s d { x with err := true }

def execHdmDecoderCommit (d : Fin 4) (s : State) : Host.Outcome State Fault Refusal := .next (commitDecoder s d)

/-- The page bits of the slots within a range of device physical addresses are cleared (R470). -/
def clearPages (s : State) (lo len : Nat) : State :=
  (s.slices.map (·.1)).foldl (fun s p =>
    match sliceSlot s p with
    | none => s
    | some d => modSlice s p fun x => { x with
        bi := x.bi.filter fun e => ¬ (lo ≤ d * Config.sliceBytes + 4096 * e.1 ∧ d * Config.sliceBytes + 4096 * e.1 < lo + len) }) s

/-- HDM_DECODER_UNCOMMIT (R470). -/
def uncommitDecoder (s : State) (d : Nat) : State :=
  let x := decoderAt s d
  if x.commit then clearPages (setDecoder s d { x with commit := false, err := false, dpa := 0 }) x.dpa x.size
  else setDecoder s d { x with err := false }

def execHdmDecoderUncommit (d : Fin 4) (s : State) : Host.Outcome State Fault Refusal := .next (uncommitDecoder s d)

/-- The committed decoder that holds a host address. -/
def decoderOf (s : State) (h : Nat) : Option Decoder :=
  ((List.range 4).map (decoderAt s)).find? fun x => x.commit && decide (x.base ≤ h ∧ h < x.base + x.size)

/-- The place of a host physical address (R468); an address in no committed decoder has none. -/
def hostAddr (s : State) (h : Nat) : Except Nat Where :=
  match decoderOf s h with
  | none => .error causeAddr
  | some x => devAddr s (x.dpa + (h - x.base))

/-- `readVia` and `writeVia` by host address. -/
def viaHost : State → Nat → Except Nat Where := fun s a => hostAddr s a

/-! ### Accesses of the host and of peers (R469, R470, R476) -/

/-- Lines of an access that the last row of R469 serves are counted. -/
def countUnbacked (s : State) (h n : Nat) : State :=
  bump s (ctrSquare 50) ((piecesOf 64 h n).filter fun x => (spanCause s (hostAddr s) x.1 x.2).isSome).length

/-- A read through a range with BI enabled sets the bit of its page. -/
def trackPages (s : State) (h n : Nat) : State :=
  (piecesOf 4096 h n).foldl (fun s x =>
    match decoderOf s x.1, hostAddr s x.1 with
    | some d, .ok w => if d.bi then modSlice s w.p fun y => { y with bi := tset zeroB y.bi (w.off / 4096) true } else s
    | _, _ => s) s

/-- Where a granule of a read from outside must wait for its bank (R205, R219). -/
def outsideWaits (s : State) (h : Nat) : Option (Where × Nat × Nat) :=
  match hostAddr s h with
  | .error _ => none
  | .ok w => (readQueue s w.p w.off).map fun x => (w, x.1, x.2)

/-- One granule of a read from outside: it waits in the queue of its sub-channel, or its data goes back. -/
def outsidePiece (src : Src) (s : State) (x : Nat × Nat) : State :=
  match outsideWaits s x.1 with
  | some (w, q, u) => enqueue s q u ⟨w.p, w.off, .read x.2 0 .source [], src, s.now, false⟩
  | none =>
    let r := readVia s viaHost x.1 x.2 src 0xFF
    emit r.2 (.readData (r.1.map (·.1)) (r.1.any (·.2)))

/-- A read of device memory from outside: bytes with no place read zero, with poison. Where a granule of it must wait, each granule goes back
on its own (log entry 76). -/
def outsideRead (s : State) (h n : Nat) (src : Src) : State :=
  let s := trackPages (countUnbacked s h n) h n
  if (piecesOf 64 h n).any fun x => (outsideWaits s x.1).isSome then (piecesOf 64 h n).foldl (outsidePiece src) s
  else
    let r := readVia s viaHost h n src 0xFF
    emit r.2 (.readData (r.1.map (·.1)) (r.1.any (·.2)))

/-- A write of device memory from outside: bytes with no place are discarded, and it is answered once all of it is stored (R219, R334, R471). -/
def outsideWrite (s : State) (h : Nat) (data : List Byte) (poison : Bool) (src : Src) : State :=
  let who := Asker.port s.link.nextReq
  let s := countUnbacked { s with link := { s.link with nextReq := s.link.nextReq + 1 } } h data.length
  answer (writeVia s viaHost h data (fun _ => poison) src who) who

/-- An access from outside that has its tokens is served. -/
def serveOutside (s : State) (x : PortWait) : State :=
  if x.write then outsideWrite s x.addr x.data x.poison x.src else outsideRead s x.addr x.len x.src

/-- Bytes of an access from outside that have a place, and those of them that the square cache holds. -/
def placedBytes (s : State) (h n : Nat) : Nat × Nat :=
  (piecesOf 64 h n).foldl (fun r x =>
    match hostAddr s x.1 with
    | .error _ => r
    | .ok w => (r.1 + x.2, if s.sqc.any fun l => l.p == w.p && l.line == w.off / 128 then r.2 + x.2 else r.2)) (0, 0)

/-- The demands of an access from outside (R214, R259): data read crosses from its village to the square and over the link to the host, and
what the square cache serves takes its tokens; data written crosses the other way. -/
def portDemand (s : State) (x : PortWait) : Demand :=
  let b := placedBytes s x.addr x.len
  if x.write then demandOf 4 b.1 ++ demandOf 3 b.1 else demandOf 0 b.2 ++ demandOf 1 (b.1 - b.2) ++ demandOf 2 b.1

/-- The partition whose tokens an access from outside takes: that of its first byte's slice. -/
def portPart (s : State) (h : Nat) : Option Nat :=
  match hostAddr s h with
  | .error _ => none
  | .ok w => partOf s w.p

/-- An access from outside: it waits in the host port where its partition has too few tokens or an earlier access of it waits (R214), or it
is served. -/
def outsideAccess (s : State) (write : Bool) (h n : Nat) (data : List Byte) (poison : Bool) (src : Src) : State :=
  match portPart s h with
  | none => serveOutside s ⟨0, write, h, n, data, poison, src, s.now⟩
  | some k =>
    let x : PortWait := ⟨k, write, h, n, data, poison, src, s.now⟩
    let s := accrue s k
    let ds := portDemand s x
    if (s.link.portQ.any fun y => y.part == k) || (shortOf s k ds).isSome then
      { s with link := { s.link with portQ := s.link.portQ ++ [x] } }
    else serveOutside (takeTokens s k ds) x

/-- Whether the host port serves accesses to device memory: in HALT only the management interfaces are served (R397; log entry 65). -/
def portServes (s : State) : Bool := s.link.up && s.boot.stage != .halt

/-- Whether CXL.mem accesses are served: in the insecure state every one fails (R478). -/
def memServed (s : State) : Bool := portServes s && s.link.ide != .insecure

/-- CXL_MEM_READ. -/
def execCxlMemRead (hpa : BitVec 64) (len : Nat) (s : State) : Host.Outcome State Fault Refusal :=
  .next (if memServed s then outsideAccess s false hpa.toNat len [] false .host else s)

/-- CXL_MEM_WRITE. -/
def execCxlMemWrite (hpa : BitVec 64) (data : List Byte) (poison : Bool) (s : State) : Host.Outcome State Fault Refusal :=
  .next (if memServed s then outsideAccess s true hpa.toNat data.length data poison .host else s)

/-- UIO_REQUEST (R476): a peer's request, decoded and served as the host's are. -/
def execUioRequest (addr : BitVec 64) (write : Bool) (len : Nat) (data : List Byte) (poison : Bool) (s : State) :
    Host.Outcome State Fault Refusal :=
  .next (if portServes s = false then s
    else if write then outsideAccess s true addr.toNat data.length data poison .peer
    else outsideAccess s false addr.toNat len [] false .peer)

/-! ### Back-invalidation and snoops (R471, R473) -/

/-- Device physical line of a waiting write. -/
def biLine (s : State) (b : BiWait) : Nat := dpaOf s b.p (64 * b.line) / 64

/-- A write that waited goes on: its bytes are stored, or wait for their bank. -/
def applyBi (s : State) (b : BiWait) : State :=
  let s := bump s (ctrSquare 52) (s.now - b.at0)
  match b.act with
  | .bytes off data poison who => answer (writeTold s b.p off data poison .square who) who
  | .atom c id addr op ty operand newVal back seq =>
    if orphan s c id then s else flushGot (atomElement s c id addr op ty operand newVal back seq .answered) c id
  | .staged => toldStaged s b.p b.line

/-- BIRSP (R471): the writes that wait for the line complete; writes that found none of the 256 free send their BISnpInv. -/
def execBirsp (line : Nat) (s : State) : Host.Outcome State Fault Refusal :=
  let out := s.link.bisn.take 256
  let done := out.filter fun b => biLine s b = line
  let left := out.filter fun b => biLine s b ≠ line
  let next := (s.link.bisn.drop 256).take (256 - left.length)
  .next (if done.isEmpty then s
    else
      let s := { s with link := { s.link with bisn := left ++ s.link.bisn.drop 256 } }
      let s := next.foldl (fun s b => bump (emit s (.bisnp b.p b.line)) (ctrSquare 51) 1) s
      pumpAll (done.foldl applyBi s))

/-- HOST_SNOOP (R473): a snoop to a host line is answered; a held line is clean, and is dropped. -/
def execHostSnoop (line : BitVec 64) (s : State) : Host.Outcome State Fault Refusal :=
  .next (if 0 < tget zeroN s.link.hostLines line.toNat then
      bump (emit { s with link := { s.link with hostLines := tset zeroN s.link.hostLines line.toNat 0 } } (.snoopHit true)) (ctrSquare 53) 1
    else emit s (.snoopHit false))

/-! ### Completions of accesses the QH9 issued (R366, R367, R473, R474, R523) -/

/-- The bytes of an access that has come back, each with the mark of its 64 B granule; `bad` numbers the poisoned granules, from that of the
first byte on. -/
def markBytes (r : HostReq) (data : List Byte) (bad : List Nat) : List (Byte × Bool) :=
  (exactly r.len data).zipIdx.map fun b => (b.1, bad.contains ((r.addr + b.2) / 64 - r.addr / 64))

/-- Whether a request for a purpose is outstanding. -/
def outstanding (s : State) (why : Purpose) : Bool := s.link.reqs.any fun x => x.why == why

/-- Bytes that the host or a peer returns for an engine's READ: they wait for the rest of it, at an address that is no partition's (R63). -/
def dmaCame (s : State) (c : CtxId) (id : Nat) (r : HostReq) (bs : List (Byte × Bool)) : State :=
  match engineOf s c.p id with
  | none => s
  | some g =>
    match dmaOfInstr g.instr with
    | some (_, f, _) =>
      let lo := relocLo s c (unitRange f.ladr (dmaLen f)) + (r.addr - addrOf (BitVec.ofNat 64 g.base))
      let s := flushGot (keepGot s c id (2 ^ 63 + r.addr) lo bs) c id
      if outstanding s r.why then s else engineReady s c.p id
    | none => s

/-- Bytes that the host or a peer returns for a command: it goes on when all of them have come. -/
def cmdCame (s : State) (cid : Nat) (r : HostReq) (bs : List (Byte × Bool)) : State :=
  let s := modCmd s cid fun c => { c with parts := c.parts ++ [(r.addr, bs)] }
  if outstanding s r.why then s
  else resumeAny (modCmd s cid fun c => { c with data := some ((sortBy (·.1) c.parts).flatMap (·.2)), parts := [] }) cid

/-- A host or peer read has come back: a local store takes it, or its command goes on. -/
def readCame (s : State) (r : HostReq) (data : List Byte) (bad : List Nat) : State :=
  match r.why with
  | .dmaRead c id => dmaCame s c id r (markBytes r data bad)
  | .cmdRead cid => cmdCame s cid r (markBytes r data bad)
  | .record q => recAnswered s q true
  | .event => evDone s true
  | _ => s

/-- An access failed: its command fails with HOST_ACCESS and the address, a record faults its pair, an event is dropped. -/
def accessFailed (s : State) (r : HostReq) : State :=
  match r.why with
  | .record q => recAnswered s q false
  | .event => evDone s false
  | .dmaRead c _ => failReq s (partAt s c.p) c.e stHostAccess (BitVec.ofNat 64 r.addr)
  | .dmaWrite cid =>
    match slotOfCmd s cid with
    | some (k, e) => failReq s k e stHostAccess (BitVec.ofNat 64 r.addr)
    | none => s
  | .cmdRead cid =>
    match cmdBy s cid with
    | none => s
    | some c =>
      if c.stage ≠ .begun then s
      else
        let s := if pktOp c.pkt = 0x0302 then rollback s (pktSession c.pkt) (s.ses (pktSession c.pkt)).len.toNat (pktField c.pkt 24 2 + 1) else s
        settle s cid stHostAccess r.addr
  | .cmdWrite cid =>
    match cmdBy s cid with
    | none => s
    | some c => if c.status = 0 ∨ c.status = BitVec.ofNat 16 stPoison then settle s cid stHostAccess r.addr else s

/-- An outstanding access is over: served, or failed. -/
def closeAccess (s : State) (r : HostReq) (ok : Bool) (data : List Byte) (bad : List Nat) : State :=
  let s := { s with link := { s.link with reqs := s.link.reqs.filter fun x => x.id ≠ r.id } }
  if ok then readCame s r data bad else accessFailed (bump s (ctrSquare 55) 1) r

def accessBy (s : State) (id : Nat) : Option HostReq := s.link.reqs.find? fun r => r.id == id && !r.held

/-- HOST_ACCESS_COMPLETION: in the insecure state every access to host memory fails (R478). -/
def execHostAccessCompletion (id : Nat) (ok : Bool) (data : List Byte) (bad : List Nat) (s : State) : Host.Outcome State Fault Refusal :=
  .next (match accessBy s id with
  | none => s
  | some r => closeAccess s r (ok && (r.peer || s.link.ide != .insecure)) data bad)

/-- HOST_ACCESS_TIMEOUT (R474): no answer within 50 ms. -/
def execHostAccessTimeout (id : Nat) (s : State) : Host.Outcome State Fault Refusal :=
  .next (match accessBy s id with
  | none => s
  | some r => closeAccess (notBefore s (r.at0 + 50000000)) r false [] [])

/-! ### IDE (R477, R478) -/

/-- CXL_IDE_KM: a key set is programmed; the link leaves the insecure state. -/
def execCxlIdeKm (keySet : Fin 2) (s : State) : Host.Outcome State Fault Refusal :=
  .next { s with link := { s.link with ide := .secure, ideKeys := s.link.ideKeys ||| BitVec.twoPow 2 keySet } }

/-- IDE_FAIL (R478): an integrity failure puts the link into the insecure state. -/
def execIdeFail (keySet : Fin 2) (sent : Bool) (s : State) : Host.Outcome State Fault Refusal :=
  .next (if s.link.ide = .secure then
      raise { s with link := { s.link with ide := .insecure, ideKeys := 0 } } 0x0403 2 [(16, 1, keySet), (17, 1, sent.toNat)]
    else s)

end Sys2Proof.Machine
end

