-- ==== Sys2Proof/Machine/Regs.lean ====
section
/-! DEFINITION. The registers of BAR0 (R308, R468, R510 to R518): reads as the I3C port returns them, and writes. -/

namespace Sys2Proof.Machine

/-! ### Reading (R513 to R518) -/

/-- Stage codes (R394). -/
def stageCode : Stage → Nat
  | .rom => 0x1
  | .waitFw => 0x2
  | .verify => 0x3
  | .train => 0x4
  | .selftest => 0x5
  | .march => 0x6
  | .retention => 0x7
  | .fill => 0x8
  | .floorplan => 0x9
  | .ready => 0xA
  | .halt => 0xF

/-- DEVINFO (R514). -/
def devInfo (s : State) : Word := BitVec.ofNat 64 (0x09A1 + s.dev.slotid.toNat * 2 ^ 16 + s.dev.fwrel.toNat * 2 ^ 32)

/-- DEVSTATUS (R514). -/
def devStatus (s : State) : Word :=
  BitVec.ofNat 64 (stageCode s.boot.stage + s.dev.fatal.toNat * 2 ^ 8 + s.floor.short.toNat * 2 ^ 9 + s.therm.coolfault.toNat * 2 ^ 10 +
    s.therm.flowstop.toNat * 2 ^ 11 + s.link.deg.toNat * 2 ^ 12 + s.dev.locked.toNat * 2 ^ 13 +
    (if s.link.ide = .insecure then 2 ^ 14 else 0) + s.dev.w1c.toNat * 2 ^ 16)

/-- TIMESTAT (R518). TRIM shows whole nanoseconds, rounded down (log entry 17). -/
def timeStat (s : State) : Word :=
  BitVec.ofNat 64 (s.dev.locked.toNat + s.dev.flagged.toNat * 2 + (BitVec.ofInt 32 (s.dev.trim / 8)).toNat * 2 ^ 32)

/-- ENVSTAT (R518). -/
def envStat (s : State) : Word := BitVec.ofNat 64 (s.dev.env % 4 + s.dev.lic.use.isSome.toNat * 4)

/-- The 8 B at a BAR0 offset below 0x80; an offset that R513 does not assign reads as zero (R511). -/
def devRead (s : State) (off : Nat) : Word :=
  if off = 0x00 then devInfo s
  else if off = 0x08 then devStatus s
  else if off = 0x10 then s.dev.errstatus
  else if off = 0x18 then BitVec.ofNat 64 s.dev.leak.toNat
  else if off = 0x20 then s.dev.evbase
  else if off = 0x28 then s.dev.evcfg
  else if off = 0x30 then BitVec.ofNat 64 s.dev.evhead
  else if off = 0x38 then BitVec.ofNat 64 s.dev.evtail
  else if off = 0x40 then BitVec.ofNat 64 s.dev.time
  else if off = 0x48 then timeStat s
  else if off = 0x50 then BitVec.ofNat 64 s.dev.lastpps
  else if off = 0x58 then BitVec.ofNat 64 s.dev.when.toNat
  else if off = 0x60 then BitVec.ofNat 64 s.dev.airneed.toNat
  else if off = 0x68 then envStat s
  else if off = 0x70 then s.fuses.devid
  else 0


/-- First byte of the HDM decoder registers in BAR0, and their layout, after CXL 3.1 (log entry 16). -/
def hdmAt : Nat := 0x11210

/-- Word `i` of a pair's entry (R308): reserved fields read as zero (R10). -/
def queueRead (s : State) (q i : Nat) : Word :=
  let x := s.queue q
  if i = 0 then x.cfg ||| BitVec.ofNat 64 (qEn x).toNat
  else if i = 1 then x.base.use.sqbase
  else if i = 2 then x.base.use.cqbase
  else BitVec.ofNat 64 (x.sqhead % 2 ^ 16 + x.cqtail % 2 ^ 16 * 2 ^ 32)

/-- Word `i` of an HDM decoder's registers: base, size, control with its commit bits, and skip (log entry 16). -/
def decoderRead (s : State) (d i : Nat) : Word :=
  let x := decoderAt s d
  if i = 0 then BitVec.ofNat 64 x.base
  else if i = 1 then BitVec.ofNat 64 x.size
  else if i = 2 then BitVec.ofNat 64 (x.commit.toNat * 2 ^ 9 + x.commit.toNat * 2 ^ 10 + x.err.toNat * 2 ^ 11 + x.bi.toNat * 2 ^ 13 + x.skip % 2 ^ 32 * 2 ^ 32)
  else BitVec.ofNat 64 (x.skip / 2 ^ 32)

/-- The pending bits of vectors 64·i to 64·i + 63. -/
def pbaRead (s : State) (i : Nat) : Word :=
  (List.range 64).foldl (fun w j => if tget zeroB s.dev.pba (64 * i + j) then w ||| BitVec.twoPow 64 j else w) 0

/-- The capabilities array of the CXL device register block, the device status and the mailbox's capability, whose payload is 4 KiB: read-only,
with the layout of CXL 3.1 (log entry 16). None for a byte the block holds as it was written. -/
def cxlFixed (s : State) (i : Nat) : Option Word :=
  if i = 0 then some (0x10000 + 2 * 2 ^ 32)
  else if i = 2 then some (0x10001 + 0x40 * 2 ^ 32)
  else if i = 3 then some 8
  else if i = 4 then some (0x10002 + 0x60 * 2 ^ 32)
  else if i = 5 then some 0x1020
  else if i = 8 then some (BitVec.ofNat 64 (s.dev.fatal.toNat + (if s.boot.stage = .ready then 4 else 0) + 16))
  else if i = 12 then some 12
  else if i < 12 then some 0
  else none

/-- Word `i` of the CXL device register block. -/
def cxlRead (s : State) (i : Nat) : Word := (cxlFixed s i).getD (BitVec.ofNat 64 (leNat (tgetList zero8 s.link.cxlDev (8 * i) 8)))

/-- The CXL component registers beside the decoders: the array of capabilities, the HDM decoder capability of four decoders, and the IDE
capability with the state of the link (log entry 16). -/
def componentRead (s : State) (off : Nat) : Word :=
  if off = 0x11000 then BitVec.ofNat 64 (0x02110001 + (0x00010005 + 0x200 * 2 ^ 20) * 2 ^ 32)
  else if off = 0x11008 then BitVec.ofNat 64 (0x00010007 + 0x300 * 2 ^ 20)
  else if off = 0x11200 then BitVec.ofNat 64 (2 + 2 * 2 ^ 32)
  else if off = 0x11300 then 1
  else if off = 0x11308 then BitVec.ofNat 64 (ideCode s.link.ide)
  else 0

/-- The Register Locator DVSEC (R510): of each register block, its identifier, its BAR and its offset. -/
def registerLocator : List (Nat × Nat × Nat) := [(1, 0, 0x10000), (3, 0, 0x1000)]

/-- Bytes of the two BARs (R510), which are 64-bit and not prefetchable: BAR1 and BAR3 hold the upper halves of their addresses, and the others
are not implemented. -/
def barBytes (i : Nat) : Option Nat := if i = 0 then some 0x40000 else if i = 2 then some 0x8000 else none

/-- Regions of BAR0 that take other sizes than 8 B: MSI-X table and pending bits, CXL component and device registers (R511; log entry 16). -/
def sizesAt (off : Nat) : List Nat :=
  if 0x4000 ≤ off ∧ off < 0xC100 then [4, 8]
  else if 0x10000 ≤ off ∧ off < 0x20000 then [4, 8]
  else if 0x1000 ≤ off ∧ off < 0x2000 then [1, 2, 4, 8]
  else [8]

/-- Whether an access of a size at an offset is one that its registers take: naturally aligned, and of a size of theirs (R511). -/
def accessOk (off size : Nat) : Bool := (sizesAt off).contains size && off % size == 0

/-- The 8 B at an aligned BAR0 offset (R10, R510, R513); zero where no register serves it (R511). -/
def regWord (s : State) (off : Nat) : Word :=
  if off < 0x80 then devRead s off
  else if 0x1000 ≤ off ∧ off < 0x2000 then cxlRead s ((off - 0x1000) / 8)
  else if 0x4000 ≤ off ∧ off < 0xC000 then tget msix0 s.dev.msixTable ((off - 0x4000) / 8)
  else if 0xC000 ≤ off ∧ off < 0xC100 then pbaRead s ((off - 0xC000) / 8)
  else if hdmAt ≤ off ∧ off < hdmAt + 0x80 then decoderRead s ((off - hdmAt) / 32) ((off - hdmAt) % 32 / 8)
  else if 0x10000 ≤ off ∧ off < 0x20000 then componentRead s off
  else if 0x20000 ≤ off ∧ off < 0x40000 then queueRead s ((off - 0x20000) / 32) (off % 32 / 8)
  else 0

/-- A read on the link at a BAR0 offset: zero for an access that its registers do not take (R511). The table has no row for a read, which
changes nothing. -/
def regRead (s : State) (off : Nat) (size : Nat := 8) : Word :=
  if accessOk off size then BitVec.ofNat 64 (bitsOf (regWord s (off / 8 * 8)).toNat (8 * (off % 8)) (8 * size)) else 0

/-- A read of BAR2: the doorbells are write-only, and read as zero (R10, R310). -/
def doorbellRead (_ : State) (_ : Nat) : Word := 0

/-! ### The W1C registers (R515 to R517) -/

/-- A write of 1 to ERRSTATUS bits clears them; the counters behind them stay. -/
def clearErrs (s : State) (w : Word) : State := { s with dev := { s.dev with errstatus := s.dev.errstatus &&& ~~~ w } }

/-- A write of 1 to W1C bits of DEVSTATUS clears them; ALERT releases ALERT# (R481). -/
def clearDevBits (s : State) (w : Word) : State :=
  let s := { s with dev := { s.dev with w1c := s.dev.w1c &&& ~~~ (w.extractLsb' 16 4) } }
  if w.getLsbD 16 then { s with i3c := { s.i3c with alert := false } } else s

def execErrstatusClear (w : BitVec 64) (s : State) : Host.Outcome State Fault Refusal := .next (clearErrs s w)

def execDevstatusClear (w : BitVec 64) (s : State) : Host.Outcome State Fault Refusal := .next (clearDevBits s w)

/-! ### The event ring (R352, R518, R523) -/

/-- A write of 0 to EVCFG.EN: records that wait are dropped and counted. -/
def disableRing (s : State) : State :=
  if evEn s.dev then
    let l := s.dev.evq
    let s := { s with
      dev := { s.dev with evcfg := s.dev.evcfg &&& ~~~ (1 : Word), evq := [], evSent := false }
      link := { s.link with reqs := s.link.reqs.filter fun r => r.why ≠ .event } }
    l.foldl evDrop s
  else s

/-- A write of 1 to EVCFG.EN: the ring starts empty, what waits for a ring that is enabled being dropped as at a write of 0 (R518; log entry 12).
A device ring must lie in backed memory; a size R518 reserves leaves it disabled (log entry 12). Lost events are reported first. -/
def enableRing (s : State) : State :=
  let s := disableRing s
  if decide (8 < (s.dev.evcfg.extractLsb' 8 4).toNat) || (evDevMem s.dev && !ringOk s s.dev.evbase.toNat (32 * evSize s.dev)) then s
  else flushLost { s with dev := { s.dev with evcfg := s.dev.evcfg ||| 1, evhead := 0, evtail := 0, evphase := true, evq := [] } }

/-- Fields of EVCFG beside EN. -/
def evcfgMask : Word := 0x07FF0F06

/-- A write to EVCFG: while EN is 1 only EN is taken. -/
def writeEvcfg (s : State) (w : Word) : State :=
  if evEn s.dev then (if w.getLsbD 0 then enableRing s else disableRing s)
  else
    let s := { s with dev := { s.dev with evcfg := w &&& evcfgMask } }
    if w.getLsbD 0 then enableRing s else s

/-- A write to EVHEAD; a value not below the ring size, or that names an unwritten entry, is ignored. -/
def writeEvhead (s : State) (w : Word) : State :=
  let h := (w.extractLsb' 0 12).toNat
  let n := evSize s.dev
  let d := s.dev
  if n ≤ h ∨ (d.evtail + n - d.evhead) % n < (h + n - d.evhead) % n then s
  else flushLost { s with dev := { d with evhead := h } }

def execEventRingEnable (s : State) : Host.Outcome State Fault Refusal := .next (enableRing s)

def execEvheadWrite (w : BitVec 64) (s : State) : Host.Outcome State Fault Refusal := .next (writeEvhead s w)

/-! ### Other registers -/

/-- ERRCFG takes a leak period of 1 to 3,600 s. -/
def writeErrcfg (s : State) (w : Word) : State :=
  let n := (w.extractLsb' 0 12).toNat
  if 1 ≤ n ∧ n ≤ 3600 then { s with dev := { s.dev with leak := w.extractLsb' 0 12 } } else s

def writeEvbase (s : State) (w : Word) : State :=
  if evEn s.dev then s else { s with dev := { s.dev with evbase := w &&& ~~~ (0xFFF : Word) } }

/-- Word `i` of a pair's entry (R308): while EN is 1 only EN is taken. -/
def writeEntry (s : State) (q i : Nat) (w : Word) : State :=
  let s := voteQueue s q
  let x := s.queue q
  if i = 0 then
    if qEn x then (if w.getLsbD 0 then s else disableQ s q)
    else
      let s := modQueue s q fun x => { x with cfg := w &&& 0x00FFFF0FFFFFFF06 }
      if w.getLsbD 0 then enableQ s q else s
  else if qEn x then s
  else if i = 1 then modQueue s q fun x => { x with base := Tri.same { x.base.use with sqbase := w &&& ~~~ (0xFFF : Word) } }
  else if i = 2 then modQueue s q fun x => { x with base := Tri.same { x.base.use with cqbase := w &&& ~~~ (0xFFF : Word) } }
  else s

/-- Word `i` of an HDM decoder's registers; a committed decoder takes none but the write that clears its commit bit (log entry 16). -/
def writeDecoder (s : State) (d i : Nat) (w : Word) : State :=
  let x := decoderAt s d
  if x.commit then (if i = 2 ∧ w.getLsbD 9 = false then uncommitDecoder s d else s)
  else if i = 0 then setDecoder s d { x with base := w.toNat }
  else if i = 1 then setDecoder s d { x with size := w.toNat }
  else if i = 2 then
    let s := setDecoder s d { x with bi := w.getLsbD 13, skip := x.skip / 2 ^ 32 * 2 ^ 32 + (w.extractLsb' 32 32).toNat }
    if w.getLsbD 9 then commitDecoder s d else s
  else setDecoder s d { x with skip := x.skip % 2 ^ 32 + (w.extractLsb' 0 32).toNat * 2 ^ 32 }

/-- A word of the MSI-X table is written: a vector that is masked no more and is pending sends its message (R510; log entry 16). -/
def writeMsix (s : State) (i : Nat) (w : Word) : State :=
  let s := { s with dev := { s.dev with msixTable := tset msix0 s.dev.msixTable i w } }
  if tget zeroB s.dev.pba (i / 2) && !msixMasked s (i / 2) then
    emit { s with dev := { s.dev with pba := tset zeroB s.dev.pba (i / 2) false } } (.msix (i / 2))
  else s

/-- A word of the CXL device register block is written: its read-only registers take nothing. -/
def writeCxl (s : State) (i : Nat) (w : Word) : State :=
  if (cxlFixed s i).isSome then s else { s with link := { s.link with cxlDev := tsetList zero8 s.link.cxlDev (8 * i) (leBytes 8 w.toNat) } }

/-- The 8 B at an aligned BAR0 offset are written; an offset that no register takes ignores it (R511). -/
def setWord8 (s : State) (off : Nat) (w : Word) : State :=
  if off = 0x08 then clearDevBits s w
  else if off = 0x10 then clearErrs s w
  else if off = 0x18 then writeErrcfg s w
  else if off = 0x20 then writeEvbase s w
  else if off = 0x28 then writeEvcfg s w
  else if off = 0x30 then writeEvhead s w
  else if off = 0x58 then { s with dev := { s.dev with when := w.getLsbD 0 } }
  else if 0x1000 ≤ off ∧ off < 0x2000 then writeCxl s ((off - 0x1000) / 8) w
  else if 0x4000 ≤ off ∧ off < 0xC000 then writeMsix s ((off - 0x4000) / 8) w
  else if hdmAt ≤ off ∧ off < hdmAt + 0x80 then writeDecoder s ((off - hdmAt) / 32) ((off - hdmAt) % 32 / 8) w
  else if 0x20000 ≤ off then writeEntry s ((off - 0x20000) / 32) (off % 32 / 8) w
  else s

/-- A word with `size` bytes of it from byte `at'` replaced. -/
def mergeWord (old : Word) (at' size : Nat) (w : Word) : Word :=
  BitVec.ofNat 64 (leNat ((leBytes 8 old.toNat).take at' ++ leBytes size w.toNat ++ (leBytes 8 old.toNat).drop (at' + size)))

/-- A write on the link at a BAR0 offset: one that its registers do not take has no effect (R511). -/
def regWrite (s : State) (off : Nat) (w : RegData) : State :=
  if accessOk off w.size then setWord8 s (off / 8 * 8) (mergeWord (regWord s (off / 8 * 8)) (off % 8) w.size w.bits) else s

/-- REGISTER_WRITE (R511). -/
def execRegisterWrite (off : BitVec 18) (w : RegData) (s : State) : Host.Outcome State Fault Refusal := .next (regWrite s off.toNat w)

end Sys2Proof.Machine
end

