-- ==== Sys2Proof/Machine/Firmware.lean ====
section
/-! DEFINITION. Firmware delivery and verification (R398 to R400, R428, R480, R498 to R500, R512). -/

namespace Sys2Proof.Machine

/-- Bytes of the largest image (R399). -/
def fwMost : Nat := 24 * 2 ^ 20

/-- The completion record the mailbox returns (R319, R512): a record of contract level 2, of no queue. -/
def mailRecord (s : State) (seq : BitVec 32) (status detail : Nat) : BitVec 256 :=
  recBits s Queue.reset ⟨0, seq, BitVec.ofNat 16 status, BitVec.ofNat 64 detail, false, false, 0, 0, 0, false⟩

/-- The answer to a firmware command: a record on the mailbox, or the status word of the FW_* commands (R480). -/
def fwAnswer (s : State) (src : FwSource) (seq : BitVec 32) (status detail : Nat) : State :=
  match src with
  | .mailbox => emit s (.mailbox true (mailRecord s seq status detail))
  | .i3c => { s with i3c := { s.i3c with fwStat := BitVec.ofNat 16 status } }

/-- The I3C target answers: from the end of a cold start's ROM stage on (R487). -/
def portAnswers (s : State) : Bool := s.boot.rails && (s.boot.stage != .rom || s.boot.warm)

/-- A firmware command from a source: over I3C it comes to nothing while the target does not answer. -/
def fwFrom (s : State) (src : FwSource) (t : State) : Host.Outcome State Fault Refusal :=
  .next (if src = .i3c ∧ portAnswers s = false then s else t)

/-- A firmware command arrives: over I3C the next private read returns its status word (R480). -/
def fwCommand (s : State) (src : FwSource) : State :=
  if src = .i3c then { s with i3c := { s.i3c with resp := .fw } } else s

/-- The claim ends, and what was delivered is discarded. -/
def endClaim (s : State) : State :=
  { s with boot := { s.boot with claim := none, fwSize := none, image := [], lastOff := none, verifyBy := none } }

/-- Whether a source may go on with its image (R398). -/
def claimed (s : State) (src : FwSource) : Bool := s.boot.stage == .waitFw && s.boot.claim == some src

/-- FW_BEGIN: status, DETAIL and the state. -/
def beginFw (s : State) (src : FwSource) (size : Nat) : Nat × Nat × State :=
  if s.boot.stage ≠ .waitFw ∨ (s.boot.claim.isSome ∧ s.boot.claim ≠ some src) then (stConflict, 0, s)
  else if fwMost < size then (stReserved, 16, if claimed s src then { s with boot := { s.boot with claimAt := s.now } } else s)
  else (0, 0, { s with boot := { s.boot with
    claim := some src, claimAt := s.now, fwSize := some size, image := [], lastOff := none } })

/-- Whether a chunk's length is one R399 takes: whole 4 KiB up to 1 MiB, except for the chunk that ends the image. -/
def lenOk (size off len : Nat) : Bool :=
  decide (1 ≤ len ∧ len ≤ 1048576 ∧ off + len ≤ size) && (decide (len % 4096 = 0) || off + len == size)

/-- FW_CHUNK: contiguous, or the previous chunk again. Over I3C its SRC is 0 and its CRC-32C holds; over the mailbox its bytes came from SRC. -/
def chunkFw (s : State) (src : FwSource) (addr : Nat) (off len : Nat) (data : List Byte) (crc : BitVec 32) : Nat × Nat × State :=
  if claimed s src = false then (stConflict, 0, s)
  else
    let s := { s with boot := { s.boot with claimAt := s.now } }
    if src = .i3c ∧ addr ≠ 0 then (stReserved, 16, s)
    else if src = .i3c ∧ (data.length ≠ len ∨ crc32c data ≠ crc) then (stSignature, 0, s)
    else if off ≠ s.boot.image.length ∧ s.boot.lastOff ≠ some off then (stConflict, 0, s)
    else if lenOk (s.boot.fwSize.getD 0) off len = false then (stReserved, 28, s)
    else if data.length ≠ len then (stHostAccess, addr, s)
    else (0, 0, { s with boot := { s.boot with image := s.boot.image.take off ++ data, lastOff := some off } })

/-- FW_COMMIT begins verification, or fails and ends the claim where bytes are missing; none while it runs. -/
def commitFw (s : State) (src : FwSource) (seq : BitVec 32) : Option (Nat × Nat) × State :=
  if claimed s src = false then (some (stConflict, 0), s)
  else if s.boot.image.length < s.boot.fwSize.getD 0 then (some (stConflict, 0), endClaim s)
  else
    (none, { s with
      boot := { s.boot with stage := .verify, verifyBy := some src, claimAt := s.now, fwSeq := seq }
      i3c := if src = .i3c then { s.i3c with fwStat := 0xFFFF } else s.i3c })

/-- FW_BEGIN. -/
def execFwBegin (src : FwSource) (size : BitVec 32) (s : State) : Host.Outcome State Fault Refusal :=
  let r := beginFw (fwCommand s src) src size.toNat
  fwFrom s src (fwAnswer r.2.2 src 0 r.1 r.2.1)

/-- FW_CHUNK. -/
def execFwChunk (src : FwSource) (addr : BitVec 64) (off len : BitVec 32) (data : List Byte) (crc : BitVec 32) (s : State) :
    Host.Outcome State Fault Refusal :=
  let r := chunkFw (fwCommand s src) src addr.toNat off.toNat len.toNat data crc
  fwFrom s src (fwAnswer r.2.2 src 0 r.1 r.2.1)

/-- FW_COMMIT. -/
def execFwCommit (src : FwSource) (s : State) : Host.Outcome State Fault Refusal :=
  fwFrom s src (match commitFw (fwCommand s src) src 0 with
  | (some x, s) => fwAnswer s src 0 x.1 x.2
  | (none, s) => s)

/-- FW_CLAIM_TIMEOUT (R398): the claiming source has sent no firmware command for 10 s. -/
def execFwClaimTimeout (s : State) : Host.Outcome State Fault Refusal :=
  .next (if s.boot.stage = .waitFw ∧ s.boot.claim.isSome then endClaim (notBefore s (s.boot.claimAt + 10000000000)) else s)

/-- CXL_MAILBOX_KCP (R512): a KCP packet of FW_BEGIN, FW_CHUNK or FW_COMMIT on the primary mailbox. Any other packet and any other mailbox
opcode is Unsupported; the opcodes that CXL 3.1 makes mandatory are none of this command's (log entry 16). -/
def execCxlMailboxKcp (m : MailIn) (data : List Byte) (s : State) : Host.Outcome State Fault Refusal :=
  let pkt := m.pkt
  let op := pktOp pkt
  let seq := pktSeq pkt
  .next (if m.opcode ≠ 0xC000 ∨ (op ≠ 0x0A01 ∧ op ≠ 0x0A02 ∧ op ≠ 0x0A03) then emit s (.mailbox false 0)
    else match least (headBad op pkt ++ paramBad op pkt) with
      | some o => fwAnswer s .mailbox seq stReserved o
      | none =>
        if op = 0x0A01 then
          let r := beginFw s .mailbox (pktField pkt 16 4)
          fwAnswer r.2.2 .mailbox seq r.1 r.2.1
        else if op = 0x0A02 then
          let r := chunkFw s .mailbox (pktField pkt 16 8) (pktField pkt 24 4) (pktField pkt 28 4) data 0
          fwAnswer r.2.2 .mailbox seq r.1 r.2.1
        else match commitFw s .mailbox seq with
          | (some x, s) => fwAnswer s .mailbox seq x.1 x.2
          | (none, s) => s)

/-! ### Verification -/

/-- R499: an image is accepted. -/
def imageOk (s : State) (img : List Byte) (size : Nat) : Bool :=
  let n := fun off k => leNat ((img.drop off).take k)
  let body := n 12 4
  n 0 4 == 0x4D524651 && n 4 2 == 1 && n 6 2 == 0 && ((img.drop 76).take 52).all (· == 0) && size == 128 + body + 5716 &&
    Config.sha256 (rootKey img) == s.fuses.roothash && rootVerify (rootKey img) (img.take (128 + body)) (img.drop (128 + body))

/-- R428: the stored licence and envelope once VERIFY has passed, at a cold start. -/
def storedEnvelope (s : State) : State :=
  match voteEeprom s.eeprom.env 4 s with
  | (none, _, s) => s
  | (some w, t, s) =>
    let s := { s with eeprom := { s.eeprom with env := t } }
    match w.lic with
    | none => s
    | some l =>
      if readLicence s l.bytes = some l then
        let s := { s with dev := { s.dev with lic := Tri.same (some l) } }
        if permits (some l) w.env then
          let s := if s.dev.env = w.env then s else genUp s
          { s with dev := { s.dev with env := w.env, envNext := w.env } }
        else s
      else s

/-- VERIFY_DONE (R248, R400): 0.15 s after FW_COMMIT. A good image is loaded into the firmware memory (log entry 79) and starts, and TRAIN
begins; a bad one is dropped. -/
def execVerifyDone (s : State) : Host.Outcome State Fault Refusal :=
  .next (match s.boot.stage, s.boot.verifyBy with
  | .verify, some src =>
    let s := notBefore s (s.boot.claimAt + 150000000)
    let img := s.boot.image
    if imageOk s img (s.boot.fwSize.getD 0) then
      let s := fwAnswer s src s.boot.fwSeq 0 0
      let s := { endClaim s with
        boot := { (endClaim s).boot with stage := .train, running := img }
        fwMem := tsetList zero8 [] 0 img
        fwErr := []
        dev := { s.dev with fwrel := BitVec.ofNat 32 (leNat ((img.drop 8).take 4)) } }
      if s.boot.warm then s else storedEnvelope s
    else
      let s := fwAnswer s src s.boot.fwSeq stSignature 0
      { endClaim s with boot := { (endClaim s).boot with stage := .waitFw } }
  | _, _ => s)

end Sys2Proof.Machine
end

