-- ==== Sys2Proof/Machine/Integrity.lean ====
section
/-! DEFINITION. The upkeep of the banks (R372 to R382): leaking buckets, expiring tracking entries, the sweepers, and row sparing. -/

namespace Sys2Proof.Machine

/-- BUCKET_LEAK (R373): every leak period each error bucket loses 1, stopping at 0. -/
def execBucketLeak (s : State) : Host.Outcome State Fault Refusal :=
  let t := s.dev.leak.toNat * 1000000000
  let s := notBefore s ((s.now / t + 1) * t)
  let s := (s.slices.map (·.1)).eraseDups.foldl (fun s p => modSlice s p fun x => { x with bucket := x.bucket - 1 }) s
  .next { s with sqBucket := s.sqBucket - 1 }

/-- Nanoseconds of 15 min. -/
def quarterNs : Nat := 900000000000

/-- TRACKING_EXPIRE (R374): an entry is dropped 24 h after its first correction, by device time. -/
def execTrackingExpire (p : Fin 512) (loc : Nat) (s : State) : Host.Outcome State Fault Refusal :=
  .next (match (s.slice p).track.find? fun t => t.loc == loc with
  | none => s
  | some t => modSlice (notBefore s (s.now + (t.first + dayNs - s.dev.time))) p fun x => { x with track := x.track.filter fun u => u.loc ≠ loc })

/-! ### The sweepers (R376 to R378) -/

/-- Rows of a pass: every row of 96 banks, spare rows included. -/
def passRows : Nat := 96 * Config.bankRows

/-- Words of a physical row that hold something: the others are never written, and the sweeper does nothing to them. -/
def heldWords (s : State) (p k prow : Nat) : List Nat :=
  (List.range 256).filter fun n =>
    let key := wordKey p k prow (n / 4) (n % 4)
    (undefAt s (key / 10)).isSome || s.mem.any fun c => c.1 / 10 == key / 10

/-- What the sweeper does about one word of a row (R378): SWEEP_FIX counts the words that it writes. -/
def sweepWord (p : Nat) (s : State) (l : Loc) : State :=
  let c := wordAt s (bankKey s p l)
  let t := (settleWord s p l c .sweeper (((dataSeat s p).map (·.1)).getD 0xFF) (offsetOf s p l)).2
  match classify l c with
  | .corr _ _ => if (t.slice p).noted.contains l.bits then t else bump t (ctrSlice p 44) 1
  | .uncorr => bump (putAt t (bankKey t p l) (poisonWord l)) (ctrSlice p 44) 1
  | .guard => bump (putAt t (bankKey t p l) (poisonWord l)) (ctrSlice p 44) 1
  | _ => s

/-- What the sweeper does about one word of a physical row that serves none, a spare row not in use or the original of a remapped one: it is
corrected or poisoned where it lies and counted; there is nothing to spare (log entry 39). -/
def sweepIdle (p : Nat) (s : State) (l : Loc) : State :=
  let key := wordKey p l.k l.row l.col l.w
  let c := wordAt s key
  let count := fun s : State => bump (countFault s p l c .sweeper 0xFF 0 0 (decide (8192 ≤ l.row))) (ctrSlice p 44) 1
  match classify l c with
  | .corr b0 b1 => count (putAt s key ((WClass.corr b0 b1).fix c))
  | .uncorr => count (putAt s key (poisonWord l))
  | .guard => count (putAt s key (poisonWord l))
  | _ => s

/-- The words of a physical row. -/
def physWords (s : State) (p k prow : Nat) : List (BitVec 80) :=
  (List.range 256).map fun n => wordAt s (wordKey p k prow (n / 4) (n % 4))

/-- The sweeper reads a physical row whole, and again the granules in which it finds an error (R231). A spare row serves the row remapped to
it. -/
def sweepRow (s : State) (p k prow : Nat) : State :=
  let row := rowServed s p k prow
  let s := if (heldWords s p k prow).isEmpty then s else countReread s p (slotSub k) (rowRereads k row (physWords s p k prow))
  let one := if physRow s p k row = prow ∧ row < 8192 then sweepWord p else sweepIdle p
  let n := if physRow s p k row = prow ∧ row < 8192 then row else prow
  (heldWords s p k prow).foldl (fun s i => one s ⟨k, n, i / 4, i % 4⟩) s

/-- SWEEPER_ROW_READ: the next row of the pass; banks of a retired sub-channel are passed over. A row whose bank an access or a gleaner uses, or
whose sub-channel takes no access, waits (R377, R378). -/
def execSweeperRowRead (p : Fin 512) (s : State) : Host.Outcome State Fault Refusal :=
  let x := s.slice p
  let k := x.sweep / Config.bankRows
  let gone := isRetired s p (slotSub k) || x.lost
  let t := if gone then s else sweepRow (countRow s p k) p k (x.sweep % Config.bankRows)
  .next (if !gone && rowQueue s p k then s
    else if passRows ≤ x.sweep + 1 then
      modSlice (bump t (ctrSlice p 43) 1) p fun y => { y with sweep := 0, sweepAt := t.now, sweepLate := false }
    else modSlice t p fun y => { y with sweep := x.sweep + 1 })

/-- SWEEP_LATE (R377): a pass is 15 min behind; it is raised once in a pass. -/
def execSweepLate (p : Fin 512) (minutes : BitVec 16) (s : State) : Host.Outcome State Fault Refusal :=
  .next (if (s.slice p).sweepLate || decide (minutes < 15) then s
    else raise (modSlice s p fun x => { x with sweepLate := true }) 0x0106 0 [(16, 2, p), (18, 2, minutes.toNat)])

/-- ROW_SPARE (R381, R382): a permanent row is copied into the next free spare and remapped; a permanent spare row is spared in turn. A row that
has been remapped, or a spare row that serves none, has nothing to spare. -/
def execRowSpare (p : Fin 512) (layer : Fin 12) (bank : Fin 8) (row : Fin 8208) (s : State) : Host.Outcome State Fault Refusal :=
  let k := 8 * layer.val + bank.val
  let r := rowServed s p k row
  .next (if physRow s p k r = row.val ∧ r < 8192 then spareRow s p k r else s)

end Sys2Proof.Machine
end

