-- ==== Sys2Proof/Machine/Bringup.lean ====
section
/-! DEFINITION. Power, the three resets, the stages of bring-up, and calibration while serving (R345, R392 to R404, R421 to R423, R466, R467,
R486 to R489). -/

namespace Sys2Proof.Machine

/-! ### Power (R486, R487, R489) -/

/-- What a loss of power leaves in the EEPROM: it may interrupt a write that has just begun, whose copy 0 is then bad and whose other
copies hold the older value (R387). Whether it does is a free value. -/
def eepromOff (s : State) : Eeprom :=
  match s.eeprom.old with
  | some (o, t) => if t = s.now ∧ freeVal 1 s = 1#1 then s.eeprom.interrupted o else { s.eeprom with old := none }
  | none => s.eeprom

/-- Every rail is off: all state is lost but the EEPROM and the fuses. -/
def powerOff (s : State) : State :=
  { State.reset with
    pending := s.pending
    free := s.free + 1
    fuses := s.fuses
    eeprom := eepromOff s
    boot := { Boot.reset with inRange := false } }

/-- COLD_START (R392): the input comes into range; everything but the EEPROM and the fuses is as after reset. -/
def execColdStart (s : State) : Host.Outcome State Fault Refusal :=
  .next { State.reset with pending := s.pending, free := s.free, fuses := s.fuses, eeprom := s.eeprom }

/-- RAILS_GOOD (R487): 3 ms after the input came into range device time starts at 3,000,000 and the ROM stage begins. -/
def execRailsGood (s : State) : Host.Outcome State Fault Refusal :=
  .next (if s.boot.inRange = true ∧ s.boot.rails = false ∧ s.boot.thermtrip = false then
      let s := notBefore s 3000000
      { s with boot := { s.boot with rails := true }, dev := { s.dev with timeOn := true, time := 3000000 } }
    else s)

/-- INPUT_OUT_OF_RANGE (R489). -/
def execInputOutOfRange (s : State) : Host.Outcome State Fault Refusal := .next (powerOff s)

/-- OVERVOLTAGE (R486): above 57.5 V for 100 µs. -/
def execOvervoltage (mv : Nat) (s : State) : Host.Outcome State Fault Refusal := .next (if 57500 < mv then powerOff s else s)

/-- INPUT_LOW (R486): below 46 V for 1 s. -/
def execInputLow (mv : BitVec 16) (s : State) : Host.Outcome State Fault Refusal :=
  .next (if mv.toNat < 46000 ∧ s.boot.rails = true then raise s 0x0407 1 [(16, 2, mv.toNat)] else s)

/-! ### What every reset does to commands (R345, R393) -/

/-- The session slots that commands without a record name, each with the length and the positions its rollback takes. -/
def namedSlots (s : State) (l : List Cmd) : List (Nat × Nat × Nat) :=
  l.filterMap fun c =>
    (cmdSlot c).map fun i =>
      match (slotOfCmd s c.id).bind fun x => (s.slot x.1 x.2).req.bind (·.sess) with
      | some (_, l0) => (i, l0, 0)
      | none => (i, (s.ses i).len.toNat,
          if pktOp c.pkt = 0x0302 ∧ (c.stage = .begun ∨ c.undo.isSome = true) then pktField c.pkt 24 2 + 1 else 0)

/-- One entry for each session slot: the length of the first command that names it, and the most positions that any of them has written. -/
def onePerSlot : List (Nat × Nat × Nat) → List (Nat × Nat × Nat)
  | [] => []
  | x :: r =>
    let t := onePerSlot r
    (x.1, x.2.1, ((t.filter fun y => y.1 = x.1).map (·.2.2)).foldl max x.2.2) :: t.filter fun y => y.1 ≠ x.1

/-- The request of a slot ends without a record: its waits are counted, its contexts become idle, and its gleaner commands are dropped. -/
def clearSlot (s : State) (k e : Nat) : State :=
  match (s.slot k e).req with
  | none => s
  | some q => dropGl ((slotCtxs s k e).foldl endCtx (endWaits s k e q)) k e

/-- A partition's slots and its order are emptied. -/
def clearPart (s : State) (k : Nat) : State :=
  modPart (clearSlot (clearSlot s k 0) k 1) k fun x => { x with s0 := Slot.reset, s1 := Slot.reset, adm := [], clearDue := false, holdStart := [] }

/-- Every reset: in-flight commands end without a record, the sessions they name are rolled back, the attestation tree is to be built anew (R506),
and queue pairs, the event ring, lock-step, bells and
semaphores are reset. Device memory, descriptors, the partition table and device time are kept. FATAL stays only after a lost critical word
(R388). -/
def dropCommands (s : State) : State :=
  let l := s.cmds
  let s := l.reverse.foldl undoCommit s
  let s := (onePerSlot (namedSlots s l)).foldl (fun s x => rollback s x.1 x.2.1 x.2.2) s
  let s := (s.queues.map (·.1)).foldl endCqStall s
  let s := (List.range 8).foldl clearPart s
  let s := s.link.bisn.foldl applyBi { s with link := { s.link with bisn := [] } }
  let s := disarm (disableRing s)
  { s with
    cmds := []
    queues := []
    sieves := []
    bells := []
    bellQ := []
    sems := []
    semQ := []
    slices := s.slices.foldl (fun t e => tset slice0 t e.1 { e.2 with bi := [], gl := [], glUnits := [] }) []
    dev := { s.dev with fatal := s.dev.critLost, evbase := 0, evcfg := 0, evhead := 0, evtail := 0, evphase := true, msixTable := [], pba := [] }
    brought := []
    therm := { s.therm with theta := [] }
    link := { s.link with reqs := [], hostLines := [], back := none }
    sec := { s.sec with waiting := [], built := false } }

/-- The votes of a reset: the EEPROM kinds are mended, or reported lost (R387). -/
def romVotes (s : State) : State :=
  let a := voteEeprom s.eeprom.defects 0 s
  let s := { a.2.2 with eeprom := { a.2.2.eeprom with defects := a.2.1 } }
  let b := voteEeprom s.eeprom.env 4 s
  let s := { b.2.2 with eeprom := { b.2.2.eeprom with env := b.2.1 } }
  let c := voteEeprom s.eeprom.life 5 s
  let s := { c.2.2 with eeprom := { c.2.2.eeprom with life := c.2.1 } }
  let d := voteEeprom s.eeprom.leaf 6 s
  let s := { d.2.2 with eeprom := { d.2.2.eeprom with leaf := d.2.1 } }
  let e := voteEeprom s.eeprom.spareRows 0 s
  { e.2.2 with eeprom := { e.2.2.eeprom with spareRows := e.2.1 } }

/-- FUNCTION_LEVEL_RESET (R345, R393). -/
def execFunctionLevelReset (s : State) : Host.Outcome State Fault Refusal := .next (romVotes (dropCommands s))

/-- A sub-channel at a warm reset: its hold ends, what a layer refused is sent again, and the writes that waited for it are stored. Reads
that waited end with the link. -/
def flushSub (s : State) (p u : Nat) : State :=
  let s := releaseHold s p u
  let l := ((s.slice p).sub u).queue
  (l.filter QEntry.writes).foldl serveEntry (modSub s p u fun y => { y with queue := [] })

/-- What the slices and the square buffer reaches the banks. -/
def flushAll (s : State) : State :=
  let s := (s.slices.map (·.1)).foldl (fun s p => (List.range 4).foldl (fun s u => flushSub s p u) s) s
  let s := s.sqc.foldl (fun s l => dropSq s l.p l.line) s
  (s.slices.map (·.1)).foldl drainSlice s

/-- A croft after a warm reset: its floor-plan entry and its lane map are kept, the rest is as after reset (log entry 3). -/
def warmCroft (x : Croft) : Croft :=
  { x with
    c0 := Ctx.reset, c1 := Ctx.reset, engines := [], nextId := 0, mma := [], front := Bank.reset, back := Bank.reset
    pipe := [], chunkOrd := 0, seqAt := 0, loadAt := 0, setA := ⟨0, 0⟩, setB := ⟨0, 0⟩, acc := [], accBad := [], hold := none, mhz := 400, stepAt := 0, stretch := false, dirty := [], remote := []
    badLanes := x.badLanes ++ x.pendBad.filter (fun l => ¬ x.badLanes.contains l), pendBad := [], rot := x.rot, pendRot := x.pendRot }

/-- PERST# is asserted while the input is in range (R393, R488): the reeves return to the ROM stage. In HALT only a cold start helps (R397). -/
def warmReset (s : State) : State :=
  if s.boot.rails = true ∧ s.link.perst = false then
    let s := stopHeaters ((List.range 4).foldl (fun s v => setWarm s v false) s)
    let s := flushAll (dropCommands s)
    { s with
      crofts := s.crofts.foldl (fun t e => tset croft0 t e.1 (warmCroft e.2)) []
      ls := []
      lsPoison := []
      lsTaint := []
      lsErr := []
      boot := { s.boot with
        stage := if s.boot.stage = .halt then .halt else .rom
        warm := true, retStep := 0, claim := none, fwSize := none, image := [], lastOff := none, verifyBy := none, running := []
        faults := [], badRows := [] }
      ports := s.ports.foldl (fun t e => tset port0 t e.1 { e.2 with trained := false, idOk := false }) []
      dev := { s.dev with fwrel := 0 }
      link := { s.link with
        perst := true, up := false, width := 0, rate := 0, downDone := false, decoders := [], portQ := []
        ide := if s.link.ide = .insecure then .insecure else .off, ideKeys := 0 }
      sec := { s.sec with ready := false } }
  else s

/-- WARM_RESET (R392, R488). -/
def execWarmReset (s : State) : Host.Outcome State Fault Refusal := .next (warmReset s)

/-- PERST# is released, and the host port may train (R466). -/
def perstRelease (s : State) : State := { s with link := { s.link with perst := false } }

def execPerstRelease (s : State) : Host.Outcome State Fault Refusal := .next (perstRelease s)

/-- HOT_RESET (R467): over the link, it acts as PERST# asserted and released. -/
def execHotReset (s : State) : Host.Outcome State Fault Refusal := .next (if s.link.up then perstRelease (warmReset s) else s)

/-! ### The stages (R387, R394 to R397) -/

/-- The life counters continue from the EEPROM at a cold start, or restart from zero (R455). -/
def loadLife (s : State) : State :=
  match s.eeprom.life.vote with
  | some w => { s with therm := { s.therm with life := Tri.same w } }
  | none => { s with therm := { s.therm with life := Tri.same ⟨[], 0⟩, lifeReset := true } }

/-- A unit whose failure stops bring-up (R397). -/
def halting (d : UnitFault) : Bool := d == .reeve 0 || d == .crossbar || d == .hostPort || d == .criticalStore

/-- A stage ends with the faults it found: the next stage, or HALT. -/
def endStage (s : State) (l : List UnitFault) (next : Stage) : State :=
  { s with boot := { s.boot with faults := s.boot.faults ++ l, stage := if l.any halting then .halt else next } }

/-- ROM_DONE: the fuses and contacts are read, the EEPROM is voted, and the I3C target answers; at a cold start 20 ms after the input came into
range (R487). -/
def execRomDone (r : RomOut) (s : State) : Host.Outcome State Fault Refusal :=
  .next (if s.boot.stage = .rom ∧ s.boot.rails = true then
      let s := romVotes (if s.boot.warm then s else notBefore s 20000000)
      let s := if s.boot.warm then s else loadLife { s with i3c := { s.i3c with readyAt := s.now } }
      endStage { s with dev := { s.dev with slotid := r.slotId } } r.faults .waitFw
    else s)

/-- A port whose village has not confirmed its identity when training ends is closed, and its village is lost (R255). -/
def closePort (s : State) (v : Nat) : State :=
  let x := s.port v
  if x.idOk || x.lost then s
  else raise (lostInTrain s v) 0x0006 2 [(16, 1, v), (17, 1, x.rot.toNat + 4 * x.mir.toNat)]

/-- TRAIN_DONE. -/
def execTrainDone (faults : List UnitFault) (s : State) : Host.Outcome State Fault Refusal :=
  .next (if s.boot.stage = .train then endStage ((List.range 4).foldl closePort s) faults .selftest else s)

/-- The ring-oscillator offsets of a cold start are those that SELFTEST measures (R436). -/
def measureRings (s : State) : State := drew { s with therm := { s.therm with roRun := s.free, roOff := [] } }

/-- SELFTEST_DONE: a warm reset goes on with SCRUB. -/
def execSelftestDone (faults : List UnitFault) (s : State) : Host.Outcome State Fault Refusal :=
  .next (if s.boot.stage = .selftest then endStage (if s.boot.warm then s else measureRings s) faults (if s.boot.warm then .fill else .march) else s)

/-- Rows a memory test found failing, by slice, bank slot and row. -/
def addRows (s : State) (l : List (Fin 512 × Fin 96 × Fin 8208)) : State :=
  { s with boot := { s.boot with
    badRows := s.boot.badRows ++ (l.map fun x => (x.1.val, x.2.1.val, x.2.2.val)).filter fun x => ¬ s.boot.badRows.contains x } }

/-- MARCH_DONE (R395). -/
def execMarchDone (rows : List (Fin 512 × Fin 96 × Fin 8208)) (s : State) : Host.Outcome State Fault Refusal :=
  .next (if s.boot.stage = .march then
      let s := addRows s rows
      { s with boot := { s.boot with stage := .retention, retStep := 0, rtemp := [] } }
    else s)

/-- The canaries at a retention step: the tile's sensor value is recorded, and the third step sets their hold times (R439). -/
def recordCanary (s : State) (k : Nat) : State :=
  let canT := (List.range 192).foldl (fun t i => tset zeroI t (3 * i + k) (tget zeroI s.therm.tileV i)) s.therm.canT
  if k = 2 then
    let ok := (List.range 192).foldl (fun t i => tset zeroB t i true) s.therm.canOk
    let h := (List.range 768).foldl (fun t c => tset zeroN t c (Config.canaryHold s.free c)) s.therm.canH
    drew { s with therm := { s.therm with canT := canT, canRun := s.free, canOk := ok, canH := h } }
  else { s with therm := { s.therm with canT := canT } }

/-- RETENTION_STEP (R396): step `k` has run at the lowest temperature the stacks reached; heater load ends and FILL follows the third. -/
def execRetentionStep (k : Fin 3) (temp : Nat) (rows : List (Fin 512 × Fin 96 × Fin 8208)) (s : State) : Host.Outcome State Fault Refusal :=
  .next (if s.boot.stage = .retention ∧ s.boot.retStep = k.val then
      let s := recordCanary (addRows s rows) k
      let s := if k.val = 2 then stopHeaters s else s
      { s with boot := { s.boot with
        retStep := k.val + 1
        rtemp := s.boot.rtemp ++ [temp]
        stage := if k.val = 2 then .fill else .retention } }
    else s)

/-- RETENTION_SETTLE_TIMEOUT (R396): a stack has not reached the step's temperature within 60 s. -/
def execRetentionSettleTimeout (k : Fin 3) (temp : Nat) (v h : Fin 4) (s : State) : Host.Outcome State Fault Refusal :=
  .next (if s.boot.stage = .retention ∧ s.boot.retStep = k.val then
      raise (genUp { s with boot := { s.boot with retShort := true } }) 0x0207 1 [(16, 1, k), (17, 1, temp), (18, 1, v), (19, 1, h)]
    else s)

/-- FILL_DONE (R364): every code word is the never-written word of its place. -/
def execFillDone (s : State) : Host.Outcome State Fault Refusal :=
  .next (if s.boot.stage = .fill ∧ s.boot.warm = false then
      let s := (s.slices.map (·.1)).foldl (fun s p => modSlice s p fun x => { x with wcb := [], mgb := [] }) s
      { s with mem := [], undef := [], sqc := [], boot := { s.boot with stage := .floorplan } }
    else s)

/-- Physical rows of a slice that hold something, as bank slot and row. -/
def heldRows (s : State) (p : Nat) : List (Nat × Nat) :=
  let listed := (s.mem.filterMap fun c =>
    let r := c.1 / 10 / 256
    if r / 8208 / 96 = p then some (r / 8208 % 96, r % 8208) else none).eraseDups
  let open' := (s.undef.filter fun u => u.p = p).flatMap fun u =>
    (List.range 96).flatMap fun k => ((List.range (u.hi - u.lo)).map fun i => (k, physRow s p k (u.lo + i)))
  (listed ++ open').eraseDups

/-- SCRUB_DONE (R372, R394): at a warm reset every code word has been read once and corrected. -/
def execScrubDone (s : State) : Host.Outcome State Fault Refusal :=
  .next (if s.boot.stage = .fill ∧ s.boot.warm = true then
      let s := (List.range 512).foldl (fun s p => (heldRows s p).foldl (fun s x =>
        if isRetired s p (slotSub x.1) || (s.slice p).lost then s else sweepRow s p x.1 x.2) s) s
      { s with boot := { s.boot with stage := .floorplan } }
    else s)

/-! ### The floor plan at a cold start (R395, R397, R401, R402, R404) -/

/-- Take one occurrence of each element of a list out of another. -/
def takeOut (l : List UnitFault) : List UnitFault → List UnitFault
  | [] => l
  | d :: ds => takeOut (l.erase d) ds

/-- The union of two defect lists; a lane of a group, a bell lane or a chain link stands in it once for each one lost. -/
def unionDefects (a b : List UnitFault) : List UnitFault := a ++ takeOut b a

/-- A sub-channel whose failed links have not been judged. -/
def unjudged (y : SubCh) : Judged := ⟨y, 0, none, false, [], []⟩

/-- A sub-channel under a failed link, and whether it retires. -/
def Judged.settle (j : Judged) : SubCh := if j.retire then { j.sub with width := .retired } else j.sub

/-- Gleaners of a sub-channel in every layer. -/
def gleanersOf (u : Nat) : BitVec 48 := (List.range 12).foldl (fun v l => v ||| BitVec.twoPow 48 (4 * l + u)) 0

/-- A lane of a group is lost: a spare takes its place, or the group is retired; a port with no working group loses its village. -/
def groupLane (s : State) (v dir g : Nat) : State :=
  let s := modGroup s v dir g fun x => if x.spares < 2 then { x with spares := x.spares + 1 } else { x with retired := true, replay := [] }
  if workingGroups (s.port v) 0 = 0 ∧ workingGroups (s.port v) 1 = 0 then modPort s v fun x => { x with lost := true } else s

/-- A unit of the defect set is fallow, or keeps its repair. The spec says nothing of rounds without their sieve, or of accesses without the square
cache: such a unit stands in the defect set, and has no further effect (log entry 104). -/
def applyDefect (s : State) (d : UnitFault) : State :=
  match d with
  | .croft p => modCroft s p fun x => { x with cstate := .fallow }
  | .lane p l => modCroft s p fun x => if x.badLanes.contains l.val then x else { x with badLanes := x.badLanes ++ [l.val] }
  | .gleaner p l u => modSlice s p fun x => { x with glFallow := x.glFallow ||| BitVec.twoPow 48 (4 * l.val + u.val) }
  | .chain p l u => modSlice s p fun x =>
      let b := BitVec.twoPow 48 (4 * l.val + u.val)
      if x.chainSp &&& b = 0 then { x with chainSp := x.chainSp ||| b } else { x with chainData := x.chainData ||| b }
  | .link p u l => modSub s p u fun y => (judgeData (unjudged y) l).settle
  | .cmdLink p u i via => modSub s p u fun y => (judgeVia (unjudged y) (2 * i + via)).settle
  | .clock p u => modSub s p u fun y => if y.clkSp then { y with width := .retired } else { y with clkSp := true }
  | .subch p u => modSub s p u fun y => { y with width := .retired }
  | .sliceCtl p => modSlice s p fun x => { x with lost := true }
  | .village v => modPort s v fun x => { x with lost := true }
  | .portLane v dir g => groupLane s v dir g
  | .bellLane v dir => modPort s v fun x => { x with bellBad := tset zeroN x.bellBad dir (tget zeroN x.bellBad dir + 1) }
  | .reeve r => setReeve s r .fallow
  | .sieve _ => s
  | .squareCache => s
  | .crossbar => s
  | .hostPort => s
  | .criticalStore => s

/-- Spare a row of an unwritten bank, or retire its sub-channel when its spares are gone (R395). A row that this bring-up found is reported as
one spared in service is (R381); `old` are those that were spared before. -/
def coldSpare (bad old : List (Nat × Nat × Nat)) (s : State) (r : Nat × Nat × Nat) : State :=
  let (p, k, row) := r
  if 8192 ≤ row then s
  else match goodSpare bad p k (tget zeroN (s.slice p).spCount k) with
    | some j =>
      let s := modSlice s p fun x => { x with
        spares := tset zeroN x.spares (8208 * k + row) (8192 + j), spCount := tset zeroN x.spCount k (j + 1) }
      if old.contains r then s else reportSpare s p k row j
    | none =>
      let u := slotSub k
      if isRetired s p u then s
      else
        let s := modSub s p u fun y => { y with width := .retired }
        { s with floor := { s.floor with defects := Tri.same (s.floor.defects.use ++ [.subch (Fin.ofNat 512 p) (Fin.ofNat 4 u)]) } }

/-- The croft a defect belongs to. -/
def faultCroft : UnitFault → Option Nat
  | .croft p => some p
  | .lane p _ => some p
  | .gleaner p _ _ => some p
  | .chain p _ _ => some p
  | .link p _ _ => some p
  | .cmdLink p _ _ _ => some p
  | .clock p _ => some p
  | .subch p _ => some p
  | .sliceCtl p => some p
  | _ => none

/-- R404: what keeps a croft from being ACTIVE, beside a defect of its own. -/
def croftFit (s : State) (p : Nat) : Bool :=
  !(s.slice p).lost && liveOf s p != 0 && decide ((s.croft p).badLanes.length ≤ 2) && !(s.port (villageOf p)).lost

/-- The croft's entry from the defect set: its marks, the gleaners and the mapping of its live sub-channels, its state and its device slot. -/
def formCroft (s : State) (p : Nat) : State :=
  let live := liveOf s p
  let s := modSlice s p fun x => { x with
    lost := x.lost || live == 0
    map := { SliceMap.reset with live := live }
    glFallow := (List.range 4).foldl (fun v u => if live.getLsbD u then v else v ||| gleanersOf u) x.glFallow }
  let fit := croftFit s p
  let s := modCroft s p fun x => { x with
    fused := s.fuses.defects.any fun d => faultCroft d == some p
    testFail := (s.boot.faults.any fun d => faultCroft d == some p) || s.boot.badRows.any fun r => r.1 == p
    cstate := if fit then x.cstate else .fallow }
  if (s.croft p).cstate = .active then setDevSlot s p (some p) else s

/-- HMASK of partition 0 after bring-up: each hamlet with an ACTIVE croft (R213). -/
def activeMask (s : State) : BitVec 16 :=
  (List.range 16).foldl (fun v h =>
    if (List.range 32).any fun i => (s.croft (32 * h + i)).cstate == .active then v ||| BitVec.twoPow 16 h else v) 0

/-- Entry 0 after bring-up (R213). -/
def planEntry (s : State) : BitVec 256 := ptabRates ||| BitVec.ofNat 256 (1 + (activeMask s).toNat * 2 ^ 8)

/-- The defect map and the spared rows reach all three copies of the EEPROM (R387, R401, R402). -/
def saveDefects (s : State) : State :=
  let s := eepromWas (voteRows (voteDefects s)) (.defects s.eeprom.defects.use s.eeprom.spareRows.use)
  { s with
    floor := { s.floor with unsaved := false }
    eeprom := { s.eeprom with defects := Tri.same s.floor.defects.use, spareRows := Tri.same s.floor.rows.use } }

/-- The floor plan of a cold start: the defect set, the spare rows, the crofts, and partition 0 with every ACTIVE croft. -/
def formPlan (s : State) : State :=
  let old := s.eeprom.defects.vote
  let ds := unionDefects (unionDefects s.fuses.defects (old.getD [])) s.boot.faults
  let oldRows := s.eeprom.spareRows.vote.getD []
  let rows := oldRows ++ s.boot.badRows.filter fun r => ¬ oldRows.contains r
  let s := { s with floor := { s.floor with defects := Tri.same ds, rows := Tri.same rows, eepromBad := old.isNone } }
  let s := ds.foldl applyDefect s
  let s := rows.foldl (coldSpare rows oldRows) s
  let s := (List.range 512).foldl formCroft s
  let s := (s.slices.map (·.1)).foldl (fun s p => eraseSpares s p fun _ _ => true) s
  let s := numberCrofts { s with ptab := tset ptabReset s.ptab 0 (Tri.same (planEntry s)) } 0 (activeOf s 0xFFFF)
  saveDefects s

/-! ### The floor plan at a warm reset (R403) -/

/-- A failed link of a sub-channel at a warm reset: its repair enters the defect map and is counted, with a fold raised (R235, R247), or the
sub-channel retires. -/
def warmLink (s : State) (p u : Nat) (j : Judged) (d : UnitFault) : State :=
  let s := if 0 < j.spares then bump s (ctrSlice p 24) j.spares else s
  let s := modSub s p u fun _ => j.sub
  let s := if j.perm.isEmpty then s else addDefect s d
  let s := if j.shifted.isEmpty then s else centreLinks s p u j.shifted
  if j.retire then (if isRetired s p u then s else retireOrLose s p u)
  else match j.folded with
  | some w => foldEvent s p u w
  | none => s

/-- A fault that TRAIN or SELFTEST found at a warm reset enters the runtime defect map, and an unfit croft fails as in service. -/
def warmDefect (s : State) (d : UnitFault) : State :=
  match d with
  | .croft p => if (s.croft p).cstate = .active then croftFail s p 0 else addDefect s d
  | .lane p l =>
    if (s.croft p).badLanes.contains l.val then s
    else
      let s := addDefect s d
      if 2 ≤ (s.croft p).badLanes.length then (if (s.croft p).cstate = .active then croftFail s p 0 else s)
      else modCroft s p fun x => { x with badLanes := x.badLanes ++ [l.val], rot := x.rot % (63 - x.badLanes.length) }
  | .link p u l =>
    warmLink s p u (judgeData (unjudged ((s.slice p).sub u)) l) d
  | .cmdLink p u i via =>
    warmLink s p u (judgeVia (unjudged ((s.slice p).sub u)) (2 * i + via)) d
  | .clock p u =>
    let y := (s.slice p).sub u
    warmLink s p u { unjudged { y with clkSp := true } with retire := y.clkSp, spares := (!y.clkSp).toNat, perm := [352] } d
  | .subch p u => if isRetired s p u then s else retireOrLose s p u
  | .sliceCtl p => loseSlice (addDefect s d) p
  | .portLane v dir g =>
    let s := addDefect (modGroup s v dir g fun x =>
      if x.spares < 2 then { x with spares := x.spares + 1 } else { x with retired := true, replay := [] }) d
    if workingGroups (s.port v) 0 = 0 ∧ workingGroups (s.port v) 1 = 0 then strayPort s v else s
  | .village v => strayPort (addDefect s d) v
  | .gleaner p l u => if (s.slice p).glFallow.getLsbD (4 * l.val + u.val) then s else addDefect (applyDefect s d) d
  | .chain _ _ _ => addDefect (applyDefect s d) d
  | .bellLane _ _ => addDefect (applyDefect s d) d
  | .reeve r => if s.reeve r = .fallow then s else checkFloors (addDefect (setReeve s r .fallow) d)
  | .sieve _ => addDefect s d
  | .squareCache => addDefect s d
  | .crossbar => s
  | .hostPort => s
  | .criticalStore => s

/-- The faults of one croft at a warm reset; a croft of a village that is lost, whose slice is not lost already, fails with it (R255, R412). -/
def keepCroft (s : State) (p : Nat) : State :=
  let l := s.boot.faults.filter fun d => faultCroft d == some p
  if (s.port (villageOf p)).lost && !(s.slice p).lost then croftFail (l.foldl addDefect s) p 2 else l.foldl warmDefect s

/-- The floor plan of a warm reset (R403): what is no croft's first, and then the crofts in rising order. -/
def keepPlan (s : State) : State :=
  let s := (s.boot.faults.filter fun d => (faultCroft d).isNone).foldl warmDefect s
  let s := (List.range 512).foldl keepCroft s
  { s with boot := { s.boot with rtemp := [] } }

/-- FLOORPLAN_DONE (R394, R401, R403): BOOTSTAGE is READY, and the firmware sets the starting leaf (R503). -/
def execFloorplanDone (s : State) : Host.Outcome State Fault Refusal :=
  .next (if s.boot.stage = .floorplan then
      let s := checkFloors (genUp (if s.boot.warm then keepPlan s else formPlan s))
      readyReset { s with boot := { s.boot with stage := .ready, faults := [], badRows := [] } }
    else s)

/-- DEFECT_MAP_EEPROM_WRITE (R402): new defects reach all three EEPROM copies. -/
def execDefectMapEepromWrite (s : State) : Host.Outcome State Fault Refusal :=
  .next (if s.floor.unsaved then saveDefects s else s)

/-! ### Calibration (R421 to R423) -/

/-- Whether a croft's self-test has its gap: no request of its partition in its croft stages, and no engine instruction running (R422). -/
def testGap (s : State) (p : Nat) : Bool :=
  (s.croft p).engines.isEmpty && match partOf s p with
    | none => true
    | some k => (admitted s k).all fun x => x.2.stage != .croft

/-- When a croft's self-test may run: an hour after its last, or at once where it is overdue, and one croft of a hamlet at a time, for 120 µs each
(R421). -/
def testDue (s : State) (p : Nat) : Nat :=
  let last := (((List.range 32).map fun i => (s.croft (p / 32 * 32 + i)).testAt).filter fun t => decide (0 < t)).map (· + 120000)
  max (last.foldl max 0) (if (s.croft p).overdue then 0 else (s.croft p).testAt + 3600000000000)

/-- CROFT_SELFTEST (R60, R412, R421): heater duty stops for it (R453). Bad lanes are bypassed at the next eligible boundary; a third bad lane or another fault fails the croft. -/
def execCroftSelftest (p : Fin 512) (lanes : List (Fin 64)) (otherFault : Bool) (s : State) : Host.Outcome State Fault Refusal :=
  .next (if (s.croft p).cstate = .active ∧ s.boot.stage = .ready ∧ testGap s p = true ∧ (s.croft p).mig = false then
      let s := setHeater (notBefore s (testDue s p)) p false
      let x := s.croft p
      let new := (lanes.eraseDups.filter fun l => ¬ (x.badLanes ++ x.pendBad).contains l.val)
      let s := modCroft (bump s (ctrSquare 42) 1) p fun x => { x with testAt := s.now, overdue := false }
      let s := new.foldl (fun s l => addDefect s (.lane p l)) s
      if otherFault || decide (2 < (x.badLanes ++ x.pendBad).length + new.length) then croftFail s p 0
      else modCroft s p fun x => { x with pendBad := x.pendBad ++ new.map (·.val) }
    else s)

/-- SELFTEST_OVERDUE (R422): 10 s past its hour, a croft-stage start of the partition is to be held for 120 µs, once for each overdue croft. -/
def execSelftestOverdue (p : Fin 512) (s : State) : Host.Outcome State Fault Refusal :=
  .next (if (s.croft p).cstate = .active ∧ s.boot.stage = .ready ∧ (s.croft p).overdue = false then
      match partOf s p with
      | none => s
      | some k =>
        let s := notBefore s ((s.croft p).testAt + 3610000000000)
        let s := modCroft s p fun x => { x with overdue := true }
        modPart s k fun x => { x with holdStart := x.holdStart ++ [p.val] }
    else s)

/-- Whether a calibration may take a sub-channel (R423). -/
def mayCalibrate (s : State) (p u : Nat) : Bool := !isRetired s p u && !((s.slice p).sub u).held && !(s.croft p).mig

/-- The holds of a calibration, each of 2 µs, the most that R422 allows: CAL_HOLDS and VL_HOLD_NS (log entry 105). -/
def calibHolds (s : State) (p n : Nat) : State := bump (bump s (ctrSquare 40) n) (ctrSlice p 27) (2000 * n)

/-- DRAM_TIMING_TRIM (R421): every 10 min, in 10 holds. -/
def execDramTimingTrim (p : Fin 512) (u : Fin 4) (s : State) : Host.Outcome State Fault Refusal :=
  .next (if mayCalibrate s p u then
      let s := notBefore s (((s.slice p).sub u).trimAt + 600000000000)
      modSub (calibHolds s p 10) p u fun y => { y with trimAt := s.now }
    else s)

/-- Whether a sub-channel is due before its 24 h: it has folded since its last retraining, or has a link marginal on three passes running. -/
def dueEarly (y : SubCh) : Bool := y.early || y.lowRuns.any fun e => decide (3 ≤ e.2)

/-- SUBCHANNEL_RETRAIN (R421): in 125 holds. -/
def execSubchannelRetrain (p : Fin 512) (u : Fin 4) (s : State) : Host.Outcome State Fault Refusal :=
  .next (if mayCalibrate s p u then
      let y := (s.slice p).sub u
      let s := if dueEarly y then s else notBefore s (y.trainAt + dayNs)
      modSub (calibHolds s p 125) p u fun y => { y with trainAt := s.now, lowRuns := [], early := false }
    else s)

/-- DROOP_TUNING (R421): every 60 s the croft's droop threshold moves by one step. -/
def execDroopTuning (p : Fin 512) (up : Bool) (s : State) : Host.Outcome State Fault Refusal :=
  .next (if (s.croft p).mig then s
    else
      let s := notBefore s ((s.croft p).droopAt + 60000000000)
      modCroft s p fun x => { x with droopAt := s.now, droopThr := if up then x.droopThr + 1 else x.droopThr - 1 })

end Sys2Proof.Machine
end

