-- ==== Sys2Proof/Machine/I3c.lean ====
section
/-! DEFINITION. The I3C management port (R479 to R481). -/

namespace Sys2Proof.Machine

/-! ### Identity (R479) -/

def i3cStatic : BitVec 7 := 0x5A

/-- The 48-bit PID: 0x4D7, a 0, the part ID, DEVID[12:0] and SLOT_ID. -/
def i3cPid (s : State) : Nat :=
  0x4D7 * 2 ^ 33 + 0x09A1 * 2 ^ 16 + (s.fuses.devid.extractLsb' 0 13).toNat * 2 ^ 3 + s.dev.slotid.toNat

def i3cBcr : Nat := 0x06
def i3cDcr : Nat := 0x00

/-- What the port does to a transfer while it answers; while it does not, the transfer changes nothing. -/
def onPort (s : State) (t : State) : Host.Outcome State Fault Refusal := .next (if portAnswers s then t else s)

/-- The dynamic address becomes `a`. -/
def setDyn (s : State) (a : Option (BitVec 7)) : State := { s with i3c := { s.i3c with dyn := a } }

/-- Bytes of a number, the most significant first, as the CCCs return them. -/
def be (n x : Nat) : List Byte := (le n x).reverse

/-- ENTDAA: the port, having no dynamic address, returns its PID, BCR and DCR and takes the address. -/
def execEntdaa (addr : BitVec 7) (s : State) : Host.Outcome State Fault Refusal :=
  onPort s (if s.i3c.dyn.isNone then
      setDyn (emit s (.i3c (be 6 (i3cPid s) ++ be 1 i3cBcr ++ be 1 i3cDcr))) (some addr)
    else s)

/-- SETDASA: from the static address, while the port has no dynamic one. -/
def execSetdasa (addr : BitVec 7) (s : State) : Host.Outcome State Fault Refusal :=
  onPort s (if s.i3c.dyn.isNone then setDyn s (some addr) else s)

/-- RSTDAA. -/
def execRstdaa (s : State) : Host.Outcome State Fault Refusal := onPort s (setDyn s none)

/-- Event bits of ENEC and DISEC in I3C: 0 IBIs, 3 Hot-Join. -/
def setEvents (s : State) (bits : BitVec 8) (on : Bool) : State :=
  { s with i3c := { s.i3c with
    ibiEn := if bits.getLsbD 0 then on else s.i3c.ibiEn
    hjEn := if bits.getLsbD 3 then on else s.i3c.hjEn } }

/-- ENEC. -/
def execEnec (bits : BitVec 8) (s : State) : Host.Outcome State Fault Refusal := onPort s (setEvents s bits true)

/-- DISEC. -/
def execDisec (bits : BitVec 8) (s : State) : Host.Outcome State Fault Refusal := onPort s (setEvents s bits false)

def execGetpid (s : State) : Host.Outcome State Fault Refusal := onPort s (emit s (.i3c (be 6 (i3cPid s))))
def execGetbcr (s : State) : Host.Outcome State Fault Refusal := onPort s (emit s (.i3c (be 1 i3cBcr)))
def execGetdcr (s : State) : Host.Outcome State Fault Refusal := onPort s (emit s (.i3c (be 1 i3cDcr)))

/-- GETSTATUS: two bytes whose contents the spec does not give: a free value. -/
def execGetstatus (s : State) : Host.Outcome State Fault Refusal :=
  onPort s (drew (emit s (.i3c (be 2 (freeVal 16 s).toNat))))

/-- GETMWL: two bytes cannot hold the write length of R479, so the low 16 bits go out. -/
def execGetmwl (s : State) : Host.Outcome State Fault Refusal := onPort s (emit s (.i3c (be 2 s.i3c.mwl.toNat)))

def execSetmwl (n : BitVec 16) (s : State) : Host.Outcome State Fault Refusal :=
  onPort s { s with i3c := { s.i3c with mwl := n.setWidth 32 } }

/-- GETMRL: the read length, and the IBI payload length of a target whose BCR says that its IBIs carry one. -/
def execGetmrl (s : State) : Host.Outcome State Fault Refusal := onPort s (emit s (.i3c (be 2 s.i3c.mrl.toNat ++ be 1 4)))

def execSetmrl (n : BitVec 16) (s : State) : Host.Outcome State Fault Refusal :=
  onPort s { s with i3c := { s.i3c with mrl := n.setWidth 32 } }

/-! ### Private transfers (R480) -/

/-- REG_SEL. -/
def execRegSel (off : BitVec 32) (s : State) : Host.Outcome State Fault Refusal :=
  onPort s { s with i3c := { s.i3c with resp := .reg off.toNat } }

/-- ALERT_ACK releases ALERT# (R481). The response says whether it was released. -/
def execAlertAck (s : State) : Host.Outcome State Fault Refusal :=
  let was := s.i3c.alert
  onPort s { s with
    i3c := { s.i3c with alert := false, resp := .ack was }
    dev := { s.dev with w1c := s.dev.w1c &&& ~~~ (1 : BitVec 4) } }

/-- The status word of the FW_* commands. -/
def fwWord (s : State) : Nat := s.i3c.fwStat.toNat + stageCode s.boot.stage * 2 ^ 16

/-- I3C_PRIVATE_READ: the response to the last private write; nothing, and a NACK, where there is none. -/
def execI3cPrivateRead (s : State) : Host.Outcome State Fault Refusal :=
  onPort s (match s.i3c.resp with
  | .none => emit s .nack
  | .reg off => { emit s (.i3c (le 8 (devRead s off).toNat)) with i3c := { s.i3c with resp := .reg (off + 8) } }
  | .ack b => emit s (.i3c (le 1 b.toNat))
  | .fw => emit s (.i3c (le 4 (fwWord s))))

/-! ### Requests of the port (R479, R481) -/

/-- HOT_JOIN: one request, 100 ms after the port became ready with no dynamic address. -/
def execHotJoin (s : State) : Host.Outcome State Fault Refusal :=
  .next (if s.i3c.dyn.isNone ∧ s.i3c.hjEn = true ∧ s.i3c.hjSent = false ∧ portAnswers s = true then
      let s := notBefore s (s.i3c.readyAt + 100000000)
      emit { s with i3c := { s.i3c with hjSent := true } } .hotJoin
    else s)

/-- IBI_RETRY: the controller's answer to the oldest IBI request. One it takes is counted; one it NACKs is sent again after 100 µs, up to 8
times, and then dropped and counted. -/
def execIbiRetry (nacked : Bool) (s : State) : Host.Outcome State Fault Refusal :=
  .next (match s.i3c.ibis with
  | [] => s
  | (w, n, t) :: rest =>
    if nacked = false then bump { s with i3c := { s.i3c with ibis := rest } } (ctrSquare 59) 1
    else if 8 ≤ n then bump { s with i3c := { s.i3c with ibis := rest } } (ctrSquare 60) 1
    else
      let s := notBefore s (t + 100000)
      emit { s with i3c := { s.i3c with ibis := (w, n + 1, s.now) :: rest } } (.ibi w))

end Sys2Proof.Machine
end

