-- ==== Sys2Proof/Machine/Mma.lean ====
section
/-! DEFINITION. The matrix instruction (R24 to R48, R57 to R59, R82 to R87, R93 to R97) and the steps of the lane pipeline: loads,
issues, drains and retirement (R33 to R36, R40, R44). -/

namespace Sys2Proof.Machine

def mmaM (f : MmaF) : Nat := 16 * (f.mt.toNat + 1)
def mmaN (f : MmaF) : Nat := 16 * (f.nt.toNat + 1)
def mmaK (f : MmaF) : Nat := 16 * (f.kt.toNat + 1)

/-- Width class of a format: 16, 8 or 4 bits (R47). -/
def fmtClass (x : BitVec 4) : Nat := if fmtWidth x = 16 then 16 else if fmtWidth x = 4 then 4 else 8

/-- Width class of the pair (R26). -/
def pairClass (f : MmaF) : Nat :=
  if fmtClass f.afmt = 16 ∨ fmtClass f.wfmt = 16 then 16
  else if fmtClass f.afmt = 4 ∧ fmtClass f.wfmt = 4 then 4 else 8

/-- Positions one stored value stands for: 1 dense, 2 for 2:4, 4 for 1:4. -/
def sparseOf (f : MmaF) : Nat := if f.sparse = 1 then 2 else if f.sparse = 2 then 4 else 1

/-- The window of R25; 0 where the class and sparsity have none. -/
def windowOf (f : MmaF) : Nat :=
  match pairClass f, sparseOf f with
  | 16, 1 => 16
  | 8, 1 => 16
  | 8, 2 => 32
  | 8, 4 => 64
  | 4, 1 => 32
  | 4, 2 => 64
  | _, _ => 0

/-- Kc of a stationary format with a sparsity (R38); 0 where there is none. -/
def depthOf (x : BitVec 4) (z : Nat) : Nat :=
  let pick := fun a b c => if z = 1 then a else if z = 2 then b else c
  match x.toNat with
  | 0 => pick 512 0 0
  | 1 => pick 512 0 0
  | 2 => pick 1024 1632 3264
  | 3 => pick 1024 1632 3264
  | 10 => pick 1024 1632 3264
  | 4 => pick 992 1536 2944
  | 5 => pick 992 1536 2944
  | 9 => pick 992 1536 2944
  | 6 => pick 1280 1920 3584
  | 7 => pick 1280 1920 3584
  | 8 => pick 1920 2496 0
  | 11 => pick 2048 2688 0
  | _ => 0

/-- Kc of the W layout (R93). -/
def segDepth (f : MmaF) : Nat := depthOf f.wfmt (sparseOf f)

/-- Kc of the chunks: the stationary operand's (R38, R39). -/
def chunkDepth (md : MMode) (f : MmaF) : Nat := if md = .a then depthOf f.afmt 1 else segDepth f

/-! ### Layouts (R48, R93 to R95) -/

/-- Byte from which a row of A holds its scales (R94). -/
def aScales (f : MmaF) : Nat := if fmtMx f.afmt then up64 (packed f.afmt (mmaK f)) else packed f.afmt (mmaK f)

def aPitch (f : MmaF) : Nat := up64 (aScales f + if fmtMx f.afmt then mmaK f / 32 else 0)

/-- Bytes of the stored values, of the indices, and of a whole segment of `span` K positions (R93). -/
def segVals (f : MmaF) (span : Nat) : Nat := packed f.wfmt (span / sparseOf f)
def segIdx (f : MmaF) (span : Nat) : Nat := if sparseOf f = 1 then 0 else cdiv (span / sparseOf f) 4
def segBytes (f : MmaF) (span : Nat) : Nat := segVals f span + segIdx f span + if fmtMx f.wfmt then span / 32 else 0

/-- Column pitch of W (R93). -/
def wPitch (f : MmaF) : Nat :=
  let kc := segDepth f
  up64 (mmaK f / kc * segBytes f kc + segBytes f (mmaK f % kc))

def aRange (f : MmaF) : Range := unitRange f.aadr (mmaM f * aPitch f)
def wRange (f : MmaF) : Range := unitRange f.wadr (mmaN f * wPitch f)
def cRange (f : MmaF) : Range := unitRange f.cadr (4 * mmaM f * mmaN f)
def bRange (f : MmaF) : Range := unitRange f.badr (if f.blk then cdiv (mmaK f / 16 * (mmaN f / 16)) 8 else 0)

/-- Whether the pair is of integer formats (R26). -/
def mmaInt (f : MmaF) : Bool := f.afmt == 10 || f.afmt == 11

/-- Whether a continue is valid (R41). -/
def continueOk (x : Croft) (f : MmaF) : Bool :=
  match x.hold with
  | none => false
  | some h => h.m == mmaM f && h.n == mmaN f && h.cadr == f.cadr && h.float == !mmaInt f

/-- The checks of a matrix instruction (R26, R32, R37, R41, R48, R49). -/
def mmaCauses (x : Croft) (md : MMode) (f : MmaF) : List Nat :=
  let okA := decide (f.afmt.toNat ≤ 11)
  let okW := decide (f.wfmt.toNat ≤ 11)
  let z := sparseOf f
  failIf (f.rsv != 0 || f.sparse == 3 || f.acc == 3 || decide (14 ≤ f.afmt.toNat) || decide (14 ≤ f.wfmt.toNat)) causeReserved ++
  failIf (!okA || !okW || fmtInt f.afmt != fmtInt f.wfmt || windowOf f == 0 || segDepth f == 0 || (md == .a && z != 1) ||
    (z == 4 && fmtClass f.wfmt != 8)) causePairing ++
  failIf ((z != 1 && windowOf f != 0 && mmaK f % windowOf f != 0) || ((fmtMx f.afmt || fmtMx f.wfmt) && mmaK f % 32 != 0)) causeDepth ++
  failIf ((md != .o && (f.hold || f.acc == 1)) || (md == .o && decide (128 < mmaM f * cdiv (mmaN f) 62)) ||
    (f.acc == 1 && !continueOk x f)) causeAcc ++
  failIf (!([aRange f, cRange f, bRange f].all Range.inStore) || (segDepth f != 0 && !(wRange f).inStore)) causeRegion ++
  failIf ((cRange f).overlaps (aRange f) || (segDepth f != 0 && (cRange f).overlaps (wRange f)) ||
    (cRange f).overlaps (bRange f)) causeOverlap

/-! ### Elements and group sums (R29, R82 to R87) -/

/-- An operand element as an exact number; none when it is encoded as zero (R29). -/
def laneVal (x : BitVec 4) (b scale : Nat) : Option Num :=
  if zeroEnc x b then none
  else some (if fmtInt x then intN (bitsInt (fmtWidth x) b) else floatVal x b scale)

/-- Element k of row m of A at byte `base` (R94). -/
def aElem (s : State) (p base : Nat) (f : MmaF) (m k : Nat) : Option Num :=
  let r := base + m * aPitch f
  laneVal f.afmt (rawElem s p r (fmtWidth f.afmt) k)
    (if fmtMx f.afmt then (lsByte s p (r + aScales f + k / 32)).toNat else 0)

/-- Element `i` of elements of `w` bits packed little-endian from byte 0 of `rd` (R70). -/
def packedElem (rd : Nat → Byte) (w i : Nat) : Nat :=
  bitsOf (leNat ((List.range (cdiv (i * w % 8 + w) 8)).map fun j => rd (i * w / 8 + j))) (i * w % 8) w

/-- K positions of segment or chunk `c` of depth `kc` (R38). -/
def spanOf (f : MmaF) (kc c : Nat) : Nat := min kc (mmaK f - c * kc)

/-- The stored values of a segment of W of `span` positions in the window of `win` that begins at its position `q0`, with the
position each stands for; `rd` gives the bytes of the segment (R93, R95). -/
def segElems (rd : Nat → Byte) (f : MmaF) (span q0 win : Nat) : List (Nat × Option Num) :=
  let z := sparseOf f
  (List.range (win / z)).map fun j =>
    let st := q0 / z + j
    let grp := if z = 1 then st else 4 * (st * z / 4)
    let q := if z = 1 then st else grp + (rd (segVals f span + st / 4)).toNat / 2 ^ (2 * (st % 4)) % 4
    (q, laneVal f.wfmt (packedElem rd (fmtWidth f.wfmt) st)
      (if fmtMx f.wfmt then (rd (segVals f span + segIdx f span + grp / 32)).toNat else 0))

/-- The stored values of column n of W in local store in the window at K position `k0`, with the K position each stands for. -/
def wElems (s : State) (p base : Nat) (f : MmaF) (n k0 win : Nat) : List (Nat × Option Num) :=
  let kc := segDepth f
  let seg := k0 / kc
  let o := base + n * wPitch f + seg * segBytes f kc
  (segElems (fun i => lsByte s p (o + i)) f (spanOf f kc seg) (k0 - seg * kc) win).map fun e => (seg * kc + e.1, e.2)

/-- Element `q` of a chunk of a row of A of `span` positions as a bank holds it: its values, then its scales (R33, R38). -/
def laneA (rd : Nat → Byte) (f : MmaF) (span q : Nat) : Option Num :=
  laneVal f.afmt (packedElem rd (fmtWidth f.afmt) q) (if fmtMx f.afmt then (rd (packed f.afmt span + q / 32)).toNat else 0)

/-- The exact sum of a group: a product with a zero-encoded element is +0 (R83, R84). -/
def groupSum (ws : List (Nat × Option Num)) (a : Nat → Option Num) : Num :=
  ws.foldl (fun acc w =>
    match w.2, a w.1 with
    | some x, some y => addN acc (mulN y x)
    | _, _ => acc) (.fin false 0 0)

/-- The integer a finite sum is. -/
def numInt : Num → Int
  | .fin n m e => floorN n m e
  | _ => 0

/-- Add a group sum into an accumulator entry, and whether an integer clamp took effect (R29, R85, R86). -/
def accStep (int : Bool) (acc : BitVec 32) (g : Num) : BitVec 32 × Bool :=
  match g with
  | .fin _ 0 _ => (acc, false)
  | g =>
    if int then
      let r := clampInt 32 (acc.toInt + numInt g)
      (BitVec.ofInt 32 r.1, r.2)
    else (add32 acc (enc32 g), false)

/-! ### Skips (R30, R31, R96, R97) -/

/-- Presented lanes W of a croft (R57). -/
def laneCount (x : Croft) : Nat := 64 - x.badLanes.length

/-- Bit of the block bitmap (R48). -/
def blockBit (s : State) (p base : Nat) (f : MmaF) (kb nb : Nat) : Bool :=
  let i := kb * (mmaN f / 16) + nb
  (lsByte s p (base + i / 8)).getLsbD (i % 8)

/-- Whether the window at `k0` is not issued for column n: every K block it meets is empty, over the column broadcast or over
the columns of the pass (R97). -/
def windowEmpty (s : State) (p base : Nat) (md : MMode) (f : MmaF) (lanes n k0 win : Nat) : Bool :=
  f.blk &&
  let nbs := if md = .a then [n / 16]
    else
      let lo := n / lanes * lanes
      let hi := min (mmaN f) (lo + lanes) - 1
      (List.range (hi / 16 + 1 - lo / 16)).map (· + lo / 16)
  (List.range (cdiv win 16)).all fun i => nbs.all fun nb => !blockBit s p base f (k0 / 16 + i) nb

/-! ### The fold of a tile (R39, R40) -/

/-- Extent folded over the lanes, and the other one. -/
def mmaExt (md : MMode) (f : MmaF) : Nat := if md = .a then mmaM f else mmaN f
def mmaOther (md : MMode) (f : MmaF) : Nat := if md = .a then mmaN f else mmaM f

def passCount (md : MMode) (f : MmaF) (lanes : Nat) : Nat := cdiv (mmaExt md f) lanes
def blockCount (md : MMode) (f : MmaF) : Nat := cdiv (mmaOther md f) 64
def chunkCount (md : MMode) (f : MmaF) : Nat := cdiv (mmaK f) (chunkDepth md f)

/-- The K positions at which the windows of a chunk begin, with their lengths: a dense chunk may end in a part of a window
(R37; log entry 69). -/
def windowsOf (md : MMode) (f : MmaF) (chunk : Nat) : List (Nat × Nat) :=
  let kc := chunkDepth md f
  let span := spanOf f kc chunk
  let win := windowOf f
  (List.range (cdiv span win)).map fun i => (chunk * kc + i * win, min win (span - i * win))

/-- Whether a broadcast vector is all zero: row j of A, or column j of W, in the window at `k0` (R30). -/
def zeroVector (s : State) (p : Nat) (md : MMode) (f : MmaF) (ad wd j k0 win : Nat) : Bool :=
  if md = .a then (wElems s p wd f j k0 win).all fun w => w.2.isNone
  else (List.range win).all fun i => (aElem s p ad f j (k0 + i)).isNone

/-- Bytes of a broadcast vector, which the scan for zeros covers at 64 B per cycle (R30). -/
def vectorBytes (md : MMode) (f : MmaF) (win : Nat) : Nat := if md = .a then packed f.wfmt (win / sparseOf f) else packed f.afmt win

/-- Rows and columns of C that one pass and block accumulates. -/
def blockCells (md : MMode) (f : MmaF) (lanes pass blk : Nat) : List (Nat × Nat) :=
  let ext := (List.range (min lanes (mmaExt md f - pass * lanes))).map (· + pass * lanes)
  let oth := (List.range (min 64 (mmaOther md f - 64 * blk))).map (· + 64 * blk)
  if md = .a then ext.flatMap fun m => oth.map fun n => (m, n)
  else oth.flatMap fun m => ext.map fun n => (m, n)

/-! ### Lanes (R57 to R59) -/

/-- Healthy physical lanes in increasing order (R57). -/
def healthyLanes (x : Croft) : List Nat := (List.range 64).filter fun l => ¬ x.badLanes.contains l

/-- Physical lane of logical lane j (R58). -/
def lanePhys (x : Croft) (j : Nat) : Nat := (healthyLanes x).getD ((j + x.rot) % laneCount x) 0

/-- A lane-map change takes effect at the start of an eligible instruction: the bypass first, the rotation second (R59, R60). -/
def applyLaneMap (x : Croft) : Croft :=
  let x := { x with badLanes := x.badLanes ++ x.pendBad.filter (fun l => ¬ x.badLanes.contains l), pendBad := [] }
  { x with rot := (x.rot % laneCount x + x.pendRot) % laneCount x, pendRot := 0, rotLate := 0 }

/-- A matrix instruction that continues a HOLD chain: rota steps that fell due before it wait past it (R59, R64; log entry 60). -/
def deferLaneMap (s : State) (p : Nat) : State :=
  let x := s.croft p
  modCroft (bump s (ctrCroft p 8) (x.pendRot - x.rotLate)) p fun x => { x with rotLate := x.pendRot }

/-! ### A running instruction (R39 to R41) -/

def MmaRun.w (r : MmaRun) : Nat := r.lanes.length

/-- Physical lane of logical lane j (R58). -/
def MmaRun.phys (r : MmaRun) (j : Nat) : Nat := r.lanes.getD j 0

/-- Chunks of one pass and block pair, pairs, and chunks in all. -/
def MmaRun.chunks (r : MmaRun) : Nat := chunkCount r.md r.f
def MmaRun.pairs (r : MmaRun) : Nat := passCount r.md r.f r.w * blockCount r.md r.f
def MmaRun.total (r : MmaRun) : Nat := r.pairs * r.chunks

/-- Pass and block of a pair. -/
def MmaRun.pass (r : MmaRun) (pair : Nat) : Nat := pair / blockCount r.md r.f
def MmaRun.blk (r : MmaRun) (pair : Nat) : Nat := pair % blockCount r.md r.f

/-- Drains it makes: one for each pair in W-mode and A-mode, one at its end in O-mode, none under HOLD (R40, R41). -/
def MmaRun.drains (r : MmaRun) : Nat := if r.f.hold then 0 else if r.md = .o then 1 else r.pairs

/-- Whether its next drain may begin: the chunks of the set have issued. -/
def MmaRun.drainDue (r : MmaRun) : Bool :=
  decide (r.drained < r.drains ∧ (if r.md = .o then r.total else (r.drained + 1) * r.chunks) ≤ r.issued)

/-- Whether it has nothing left to issue or drain. -/
def MmaRun.done (r : MmaRun) : Bool := decide (r.issued = r.total ∧ r.drained = r.drains)

/-- Cycles of an issue in a stage: 2 in the 16-bit class (R25). -/
def MmaRun.step (r : MmaRun) : Nat := if pairClass r.f = 16 then 2 else 1

/-- Accumulator entry of output (m, n) in its lane: row of the row block or column of the column block in the pair's set, or
pass·M + m in O-mode (R32, R40, R41). -/
def MmaRun.entry (r : MmaRun) (m n : Nat) : Nat :=
  match r.md with
  | .o => n / r.w * mmaM r.f + m
  | .w => 64 * ((n / r.w * blockCount .w r.f + m / 64) % 2) + m % 64
  | .a => 64 * ((m / r.w * blockCount .a r.f + n / 64) % 2) + n % 64

/-- Key of that entry in the accumulator file. -/
def MmaRun.accKey (r : MmaRun) (m n : Nat) : Nat := 128 * r.phys ((if r.md = .a then m else n) % r.w) + r.entry m n

/-- Bytes a chunk takes in a lane's bank: values, indices and scales (R36, R38). -/
def MmaRun.chunkBytes (r : MmaRun) (c : Nat) : Nat :=
  let span := spanOf r.f (chunkDepth r.md r.f) c
  if r.md = .a then packed r.f.afmt span + (if fmtMx r.f.afmt then span / 32 else 0) else segBytes r.f span

/-- The bytes of a chunk for lane operand `e`: a column of W as R93 lays it out, or a row of A, its values before its scales. -/
def MmaRun.laneBytes (s : State) (p : Nat) (r : MmaRun) (c e : Nat) : List Byte :=
  let kc := chunkDepth r.md r.f
  let span := spanOf r.f kc c
  if r.md = .a then
    let o := r.ad + e * aPitch r.f
    lsRead s p (o + c * packed r.f.afmt kc) (packed r.f.afmt span) ++
      (if fmtMx r.f.afmt then lsRead s p (o + aScales r.f + c * kc / 32) (span / 32) else [])
  else lsRead s p (r.wd + e * wPitch r.f + c * segBytes r.f kc) (segBytes r.f span)

/-- Logical lanes a pass uses. -/
def MmaRun.passLanes (r : MmaRun) (pass : Nat) : List Nat := List.range (min r.w (mmaExt r.md r.f - pass * r.w))

/-- Physical lanes of the logical lanes in the lane map in force (R58). -/
def laneMap (x : Croft) : List Nat := (List.range (laneCount x)).map (lanePhys x)

/-- Start value of output (m, n) (R41, R85): with ACC = 0b10 the element of C, a floating NaN as the canonical one (R67, R12; log entry
70). -/
def startVal (s : State) (p : Nat) (acc : Table (BitVec 32)) (r : MmaRun) (m n : Nat) : BitVec 32 :=
  if r.f.acc = 2 then
    let c := BitVec.ofNat 32 (leNat (lsRead s p (r.cd + 4 * (m * mmaN r.f + n)) 4))
    if mmaInt r.f then c else canon32 c
  else if r.f.acc = 1 then tget word0 acc (r.accKey m n)
  else 0

/-- The last cycle the lane pipeline knows of. -/
def Croft.lastCycle (x : Croft) : Nat :=
  (x.pipe.map (·.out)).foldl max (max (max x.seqAt x.loadAt) (max (max x.setA.out x.setA.free) (max x.setB.out x.setB.free)))

/-- The instruction enters an idle matrix engine: its first load begins after the two cycles of decode (R44). -/
def Croft.startIdle (x : Croft) : Croft :=
  if x.mma.isEmpty then { x with pipe := [], seqAt := x.lastCycle + 2, loadAt := x.lastCycle + 2 } else x

/-- The matrix instruction begins: the lane map takes its change, its chunks join the alternation of banks, and HOLD is noted for
the instruction after it. -/
def runMma (s : State) (c : CtxId) (id : Nat) (md : MMode) (f : MmaF) : State :=
  let p := c.p.val
  let s := if f.acc = 1 then deferLaneMap s p
    else
      let new := (s.croft p).pendBad.any fun l => !(s.croft p).badLanes.contains l
      modCroft (if new then genUp s else s) p applyLaneMap
  let r : MmaRun := ⟨id, md, f, relocLo s c (aRange f), relocLo s c (wRange f), relocLo s c (cRange f), relocLo s c (bRange f),
    laneMap (s.croft p), (s.croft p).chunkOrd, 0, 0, 0, []⟩
  modCroft s p fun x => { x.startIdle with
    mma := x.mma ++ [r]
    chunkOrd := x.chunkOrd + r.total
    hold := if f.hold then some ⟨mmaM f, mmaN f, f.cadr, !mmaInt f⟩ else none }

/-- The plan of a matrix instruction. -/
def mmaPlan (s : State) (c : CtxId) (md : MMode) (f : MmaF) : Plan where
  causes := mmaCauses (s.croft c.p) md f
  gather := false
  reads := [aRange f, wRange f, bRange f] ++ if f.acc = 2 then [cRange f] else []
  writes := if f.hold then [] else [cRange f]
  engine := some .mma
  flag := flagOf f.flag f.flagen

/-- Issue a matrix instruction. -/
def issueMma (s : State) (c : CtxId) (i : Instr) (md : MMode) (f : MmaF) : State :=
  let pl := mmaPlan s c md f
  issue s c i pl (fun id s => orPoison s c (relocated s c pl.reads) fun s => runMma s c id md f) true

def execMmaW (c : CtxId) (f : MmaF) (s : State) : Host.Outcome State Fault Refusal := .next (issueMma s c (.mmaW c f) .w f)
def execMmaA (c : CtxId) (f : MmaF) (s : State) : Host.Outcome State Fault Refusal := .next (issueMma s c (.mmaA c f) .a f)
def execMmaO (c : CtxId) (f : MmaF) (s : State) : Host.Outcome State Fault Refusal := .next (issueMma s c (.mmaO c f) .o f)

/-! ### The lane pipeline (R28, R33 to R36, R40) -/

/-- Bank of chunk ordinal `n`: front for even, back for odd (R36). -/
def bankOf (x : Croft) (n : Nat) : Bank := if n % 2 = 0 then x.front else x.back

def setBank (x : Croft) (n : Nat) (b : Bank) : Croft := if n % 2 = 0 then { x with front := b } else { x with back := b }

/-- The pipeline holds the issues of a list; each bank's count is of those that name it (R34). -/
def setPipe (x : Croft) (l : List InFlight) : Croft :=
  { x with
    pipe := l
    front := { x.front with refs := (l.filter fun i => !i.back).length }
    back := { x.back with refs := (l.filter fun i => i.back).length } }

/-- The issues still in the pipeline in cycle `t` (R28). -/
def inPipe (l : List InFlight) (t : Nat) : List InFlight := l.filter fun i => decide (t < i.out)

/-- Change one matrix run. -/
def modMma (x : Croft) (id : Nat) (f : MmaRun → MmaRun) : Croft := { x with mma := mapIf (fun r => r.id == id) f x.mma }

/-- The run whose chunk the loader fills next. -/
def nextLoad (x : Croft) : Option MmaRun := x.mma.find? fun r => decide (r.loaded < r.total)

/-- The run whose chunk issues next. -/
def nextIssue (x : Croft) : Option MmaRun := x.mma.find? fun r => decide (r.issued < r.total)

/-- Whether the chunk that a bank holds has still to issue. -/
def bankPending (x : Croft) (b : Bank) : Bool :=
  match b.chunk with
  | none => false
  | some n => x.mma.any fun r => decide (r.first + r.issued ≤ n ∧ n < r.first + r.total)

/-- The cycle in which a bank's count reaches zero (R34): the last issue that names it has left S6. -/
def freeFrom (x : Croft) (n : Nat) : Nat :=
  ((x.pipe.filter fun i => i.back == decide (n % 2 = 1)).map (·.out)).foldl max (bankOf x n).gone

/-- The cycle from which the load of chunk `n` is pending, and the one in which it begins. -/
def loadPending (x : Croft) (n : Nat) : Nat := max x.loadAt (bankOf x n).used
def loadStart (x : Croft) (n : Nat) : Nat := max (loadPending x n) (freeFrom x n)

/-- Write bytes into a lane's part of a bank. -/
def Bank.put (b : Bank) (lane : Nat) (bs : List Byte) : Bank :=
  { b with
    bytes := tsetList zero8 b.bytes (1024 * lane) bs
    bad := b.bad.filter fun e => ¬ (1024 * lane ≤ e.1 ∧ e.1 < 1024 * lane + bs.length) }

/-- The bank filled with chunk `n` of a run, which begins in cycle `t` and writes 32 B per lane per cycle (R36). -/
def fillBank (s : State) (p : Nat) (r : MmaRun) (n t : Nat) (b : Bank) : Bank :=
  let i := n - r.first
  let c := i % r.chunks
  let pass := r.pass (i / r.chunks)
  let b := (r.passLanes pass).foldl (fun b l => b.put (r.phys l) (r.laneBytes s p c (pass * r.w + l))) b
  { b with refs := 0, chunk := some n, ready := t + cdiv (r.chunkBytes c) 32 }

/-- LANE_BANK_LOAD (R34, R36): the next chunk fills its bank. The load waits until no issue in flight refers to the bank; REF_WAIT
counts the cycles it waits (R64). The first load of an idle engine is no stall (R44). -/
def execLaneBankLoad (p : Fin 512) (s : State) : Host.Outcome State Fault Refusal :=
  let x := s.croft p
  .next (match nextLoad x with
  | none => s
  | some r =>
    let n := r.first + r.loaded
    if bankPending x (bankOf x n) then s
    else
      let t := loadStart x n
      let b := fillBank s p r n t (bankOf x n)
      let y := setBank (setPipe (modMma x r.id fun r => { r with loaded := r.loaded + 1 }) (inPipe x.pipe t)) n b
      let alone := r.loaded = 0 ∧ x.mma.head? = some r
      setCroft (bump s (ctrCroft p 4) (t - loadPending x n)) p
        { y with loadAt := b.ready, seqAt := if alone then max y.seqAt b.ready else y.seqAt })

/-- The accumulator set of a pair (R40). DESIGN CHOICE (log entry 89): the first pair of every instruction takes set A. -/
def accSet (x : Croft) (pair : Nat) : AccSet := if pair % 2 = 0 then x.setA else x.setB

def setAccSet (x : Croft) (pair : Nat) (a : AccSet) : Croft := if pair % 2 = 0 then { x with setA := a } else { x with setB := a }

/-- Whether a run's finished sums still stand in the accumulators that pair `pair` of run `r` would use. -/
def keepsSet (q r : MmaRun) (pair : Nat) : Bool :=
  decide (q.drained < q.drains) &&
    if q.id = r.id then decide (r.md ≠ .o ∧ q.drained + 2 ≤ pair)
    else q.md == .o || r.md == .o ||
      (List.range (q.drains - q.drained)).any fun j => decide ((q.drained + j) % 2 = pair % 2)

/-- The next pair of a run would accumulate into a set that is still to drain (R40). -/
def setDraining (x : Croft) (r : MmaRun) : Bool :=
  decide (r.issued % r.chunks = 0) && (x.mma.takeWhile (fun q => q.id != r.id) ++ [r]).any fun q => keepsSet q r (r.issued / r.chunks)

/-- What the sequencer has done of a chunk: the cycle it has reached, the bytes of the present run of zero vectors, the pipeline,
the cycle after the last issue and the one from which all have left S6, the accumulators, and its counts (R64). -/
structure Issuing where
  cycle : Nat
  zeros : Nat
  pipe  : List InFlight
  last  : Nat
  gone  : Nat
  acc   : Table (BitVec 32)
  stall : Nat
  issues : Nat
  zskip : Nat
  bskip : Nat
  sats  : Nat

/-- The group sum of output (m, n) in a window, the lane operand from the lane's bank and the other from the broadcast (R24, R33). -/
def laneSum (s : State) (p : Nat) (r : MmaRun) (b : Bank) (c m n k0 win : Nat) : Num :=
  let kc := chunkDepth r.md r.f
  let span := spanOf r.f kc c
  let rd := fun i => tget zero8 b.bytes (1024 * r.phys ((if r.md = .a then m else n) % r.w) + i)
  if r.md = .a then groupSum (wElems s p r.wd r.f n k0 win) fun k => laneA rd r.f span (k - c * kc)
  else groupSum ((segElems rd r.f span (k0 - c * kc) win).map fun e => (c * kc + e.1, e.2)) fun k => aElem s p r.ad r.f m k

/-- One vector of a chunk: broadcast to every lane of the pass, which adds its group sum into its accumulator entry, or skipped
(R24, R30, R31). It enters S1 once it has been scanned, its bank is loaded (R35) and the set it uses has drained, in cycle `free`
(R40). -/
def issueVector (s : State) (p : Nat) (r : MmaRun) (b : Bank) (back : Bool) (c pass free : Nat) (y : Issuing) (j k0 win : Nat) : Issuing :=
  let n0 := if r.md = .a then j else pass * r.w
  if windowEmpty s p r.bd r.md r.f r.w n0 k0 win then { y with bskip := y.bskip + 1 }
  else if !r.f.zsoff && zeroVector s p r.md r.f r.ad r.wd j k0 win then
    { y with zskip := y.zskip + 1, zeros := y.zeros + vectorBytes r.md r.f win }
  else
    let t0 := y.cycle + cdiv y.zeros 64
    let t := max t0 (max b.ready free)
    let sums := (r.passLanes pass).foldl (fun (a : Table (BitVec 32) × Nat) l =>
      let m := if r.md = .a then pass * r.w + l else j
      let n := if r.md = .a then j else pass * r.w + l
      let x := accStep (mmaInt r.f) (tget word0 a.1 (r.accKey m n)) (laneSum s p r b c m n k0 win)
      (tset word0 a.1 (r.accKey m n) x.1, a.2 + x.2.toNat)) (y.acc, y.sats)
    { y with
      cycle := t + r.step, zeros := 0, last := t + 1, gone := t + 6 * r.step, stall := y.stall + (b.ready - t0)
      pipe := inPipe y.pipe t ++ [⟨back, t + 6 * r.step⟩]
      acc := sums.1, sats := sums.2, issues := y.issues + 1 }

/-- The cycle from which the set that the pair of chunk `i` uses has drained (R40). -/
def setFree (x : Croft) (r : MmaRun) (i : Nat) : Nat := if i % r.chunks = 0 then (accSet x (i / r.chunks)).free else 0

/-- All vectors of chunk `i` of a run, from the cycle in which the sequencer is ready; the sums of a pair start with its first chunk. -/
def issueChunk (s : State) (p : Nat) (x : Croft) (r : MmaRun) (b : Bank) (i : Nat) : Issuing :=
  let pair := i / r.chunks
  let c := i % r.chunks
  let cells := blockCells r.md r.f r.w (r.pass pair) (r.blk pair)
  let acc := if c = 0 then cells.foldl (fun t mn => tset word0 t (r.accKey mn.1 mn.2) (startVal s p x.acc r mn.1 mn.2)) x.acc else x.acc
  let js := (List.range (min 64 (mmaOther r.md r.f - 64 * r.blk pair))).map (· + 64 * r.blk pair)
  let y := js.foldl (fun y j => (windowsOf r.md r.f c).foldl (fun y w =>
    issueVector s p r b (decide ((r.first + i) % 2 = 1)) c (r.pass pair) (setFree x r i) y j w.1 w.2) y)
      ⟨x.seqAt, 0, x.pipe, x.seqAt, b.gone, acc, 0, 0, 0, 0, 0⟩
  { y with cycle := y.cycle + cdiv y.zeros 64 }

/-- A byte that chunk `i` of a run would read from its bank, or an accumulator it would add to, fails its parity (R52). -/
def laneParity (x : Croft) (r : MmaRun) (b : Bank) (i : Nat) : Bool :=
  let pair := i / r.chunks
  let ls := (r.passLanes (r.pass pair)).map r.phys
  b.bad.any (fun e => e.2 && ls.contains (e.1 / 1024) && decide (e.1 % 1024 < r.chunkBytes (i % r.chunks))) ||
    (decide (i % r.chunks ≠ 0 ∨ r.f.acc = 1) && (blockCells r.md r.f r.w (r.pass pair) (r.blk pair)).any fun mn =>
      x.accBad.any fun e => e.2 && decide (e.1 / 4 = r.accKey mn.1 mn.2))

/-- The byte whose parity fails: of the bank that a chunk reads, by 1,024·lane + byte, else of the accumulator file (R389, log entry 103). -/
def laneParityAt (x : Croft) (r : MmaRun) (b : Bank) (i : Nat) : Nat :=
  let pair := i / r.chunks
  let ls := (r.passLanes (r.pass pair)).map r.phys
  match b.bad.find? fun e => e.2 && ls.contains (e.1 / 1024) && decide (e.1 % 1024 < r.chunkBytes (i % r.chunks)) with
  | some e => e.1
  | none => ((x.accBad.find? fun e => e.2 && (blockCells r.md r.f r.w (r.pass pair) (r.blk pair)).any fun mn =>
      decide (e.1 / 4 = r.accKey mn.1 mn.2)).map (·.1)).getD 0

/-- A parity error at a byte stops the croft while the instruction runs (R49, R52) and is counted for its slice and logged (R384, R389). -/
def parityStop (s : State) (p id addr : Nat) : State :=
  match engineOf s p id with
  | none => s
  | some g => failAt (otherError s (some p) true .croft addr) (mkCtx p g.e) causeParity (BitVec.ofNat 32 g.idx)

/-- The accumulator sums written anew carry good parity. -/
def cleanAcc (bad : Table Bool) (r : MmaRun) (pair : Nat) : Table Bool :=
  bad.filter fun e => !(blockCells r.md r.f r.w (r.pass pair) (r.blk pair)).any fun mn => decide (e.1 / 4 = r.accKey mn.1 mn.2)

/-- ISSUE_AFTER_LOAD (R35, R40): the issues of the next chunk enter S1 once its bank is loaded and the accumulator set they use has
drained; RELOAD_STALL counts the cycles a ready issue waited for the load (R64). -/
def execIssueAfterLoad (p : Fin 512) (s : State) : Host.Outcome State Fault Refusal :=
  let x := s.croft p
  .next (match nextIssue x with
  | none => s
  | some r =>
    let i := r.issued
    let n := r.first + i
    let b := bankOf x n
    if b.chunk ≠ some n ∨ setDraining x r = true then s
    else if laneParity x r b i then parityStop s p r.id (laneParityAt x r b i)
    else
      let y := issueChunk s p x r b i
      let pair := i / r.chunks
      let x' := setPipe (setBank (modMma x r.id fun r => { r with issued := r.issued + 1 }) n { b with used := y.last, gone := y.gone }) (inPipe y.pipe y.cycle)
      let x' := { x' with seqAt := y.cycle, acc := y.acc, accBad := if i % r.chunks = 0 then cleanAcc x.accBad r pair else x.accBad }
      let x' := setAccSet x' pair { accSet x' pair with out := (y.pipe.map (·.out)).foldl max y.cycle }
      let s := setCroft s p x'
      let s := bump s (ctrCroft p 0) (y.issues * r.step)
      let s := bump (bump s (ctrCroft p 1) y.zskip) (ctrCroft p 2) y.bskip
      let s := bump (bump s (ctrCroft p 3) y.stall) (ctrCroft p 9) y.sats
      let s := match engineOf s p r.id with
        | some g => satIf s (mkCtx p g.e) (decide (0 < y.sats))
        | none => s
      if x'.mma.any fun q => q.id == r.id && q.done then engineReady s p r.id else s)

/-! ### Draining (R40, R63) -/

/-- Elements of C that drain number `d` of a run brings, and the rows or lanes it takes a cycle each for. -/
def drainCells (r : MmaRun) (d : Nat) : List (Nat × Nat) :=
  if r.md = .o then (List.range r.pairs).flatMap fun i => blockCells .o r.f r.w (r.pass i) (r.blk i)
  else blockCells r.md r.f r.w (r.pass d) (r.blk d)

def drainCycles (r : MmaRun) (d : Nat) : Nat :=
  match r.md with
  | .o => mmaM r.f * passCount .o r.f r.w
  | .w => min 64 (mmaOther .w r.f - 64 * r.blk d)
  | .a => (r.passLanes (r.pass d)).length

/-- The elements of C that have come down, by m·N + n: what earlier drains left over, and those of this one. -/
def drainVals (r : MmaRun) (acc : Table (BitVec 32)) (d : Nat) : Table (BitVec 32) :=
  (drainCells r d).foldl (fun t mn => (mn.1 * mmaN r.f + mn.2, tget word0 acc (r.accKey mn.1 mn.2)) :: t.filter fun e =>
    e.1 ≠ mn.1 * mmaN r.f + mn.2) r.carry

/-- Whether all 16 elements of the 64 B unit of an element have come down. -/
def unitWhole (t : Table (BitVec 32)) (i : Nat) : Bool :=
  (List.range 16).all fun j => t.any fun e => e.1 == i / 16 * 16 + j

/-- The units of C, by number, that are complete. -/
def wholeOf (t : Table (BitVec 32)) : List Nat := ((t.filter fun e => e.1 % 16 == 0 && unitWhole t e.1).map fun e => e.1 / 16)

/-- The 64 B of unit `u` of C. -/
def unitBytes (t : Table (BitVec 32)) (u : Nat) : List Byte :=
  (List.range 16).flatMap fun j => leBytes 4 (tget word0 t (16 * u + j)).toNat

/-- Whether an accumulator that a drain reads fails its parity (R52). -/
def drainParity (x : Croft) (r : MmaRun) (d : Nat) : Bool :=
  (drainCells r d).any fun mn => x.accBad.any fun e => e.2 && decide (e.1 / 4 = r.accKey mn.1 mn.2)

/-- The byte of the accumulator file at which it fails. -/
def drainParityAt (x : Croft) (r : MmaRun) (d : Nat) : Nat :=
  ((x.accBad.find? fun e => e.2 && (drainCells r d).any fun mn => decide (e.1 / 4 = r.accKey mn.1 mn.2)).map (·.1)).getD 0

/-- The cycle in which a set begins to drain: its last issue has left S6, and no other set drains (R40). -/
def drainStart (x : Croft) (r : MmaRun) (d : Nat) : Nat :=
  let out := if r.md = .o then max x.setA.out x.setB.out else (accSet x d).out
  max out (max x.setA.free x.setB.free)

/-- ACCUMULATOR_DRAIN (R40): the oldest finished set drains to C once its last issue has left S6. A 64 B unit of C is written whole,
when its last element has come down, so that it holds old or new contents (R63). -/
def execAccumulatorDrain (p : Fin 512) (s : State) : Host.Outcome State Fault Refusal :=
  let x := s.croft p
  .next (match x.mma.find? MmaRun.drainDue with
  | none => s
  | some r =>
    let d := r.drained
    if drainParity x r d then parityStop s p r.id (drainParityAt x r d)
    else
      let t := drainVals r x.acc d
      let us := wholeOf t
      let c0 := drainStart x r d
      let x' := modMma (setPipe x (inPipe x.pipe c0)) r.id fun r => { r with
        drained := r.drained + 1, carry := t.filter fun e => ¬ us.contains (e.1 / 16) }
      let a := fun a : AccSet => { a with free := c0 + drainCycles r d }
      let x' := if r.md = .o then { x' with setA := a x'.setA, setB := a x'.setB } else setAccSet x' d (a (accSet x' d))
      let s := us.foldl (fun s u => lsWrite s p (r.cd + 64 * u) (unitBytes t u)) (setCroft s p x')
      if x'.mma.any fun q => q.id == r.id && q.done then engineReady s p r.id else s)

end Sys2Proof.Machine
end

