-- ==== Sys2Proof/Machine/Scalar.lean ====
section
/-! DEFINITION. NOP and reserved words, END, the scalar and branch classes (R45, R56), and event flags (R264). -/

namespace Sys2Proof.Machine

/-- The plan of an instruction that uses no engine and no operand in the local store. -/
def plainPlan (causes : List Nat) : Plan := { causes := causes, gather := true }

/-- Causes of an ATOMIC with a reserved AOP (R221): those of every other check it fails at the same point count with it (R526). -/
def aopCauses (s : State) (c : CtxId) (f : DmaF) : List Nat :=
  failIf (f.rsv != 0) causeReserved ++ failIf (!(unitRange f.ladr (dmaLen f)).inStore) causeRegion ++
    remoteCauses s c (srOf s c f.sr) (dmaLen f) ++ [0x15]

/-- Causes of a GLEAN with a reserved POOL (R131, R148): those found before issue, then those of the scan. -/
def poolCauses (s : State) (c : CtxId) (f : GleanF) : List Nat :=
  let l := (listRange f).clip
  let before := failIf (f.rsv != 0) causeReserved ++ failIf (relocate s c l).isNone causeWindow ++
    failIf (poisonedIn s c.p ((relocate s c l).getD l)) causePoison
  if before.isEmpty then failIf (!(listRange f).inStore) causeRegion ++ [0x12] else before

/-- Causes of a word of class 0x00 or of a reserved class or encoding (R45, R49, R148, R221, R281): every other class is a row of
its own. -/
def wordCauses (s : State) (c : CtxId) (w : BitVec 128) : List Nat :=
  let opc := (w.extractLsb' 0 8).toNat
  if opc = 0x00 then failIf (w.extractLsb' 8 120 != 0) causeReserved
  else if opc = 0x10 ∧ (w.extractLsb' 8 4).toNat = 2 then aopCauses s c (dmaFields w)
  else if opc = 0x18 then failIf (w.extractLsb' 76 52 != 0) causeReserved ++ [causeBell]
  else if opc = 0x19 then failIf (w.extractLsb' 41 87 != 0) causeReserved ++ [causeBell]
  else if opc = 0x30 then poolCauses s c (gleanFields w)
  else [causeReserved]

/-- NOP (R45); a word of a reserved class or operation stops the croft with its cause. A SIEVE with a reserved SOP is one: the croft fails
its own checks, and the others of its round stop with it (R112). -/
def issueNop (c : CtxId) (w : BitVec 128) (s : State) : Host.Outcome State Fault Refusal :=
  let s' := issue s c (.nop c w) (plainPlan (wordCauses s c w)) (fun _ s => s) true
  .next (if w.extractLsb' 0 8 = 0x38 ∧ stoppedAtIssue s s' c then sieveFailed s' c else s')

/-- END (R45, R328): the context has ended its stream; in its gather stage it has also reached GEND. In an armed partition it waits
for every earlier engine instruction, and the last END of the request is a hash point (R299). -/
def execEndStream (c : CtxId) (rsv : BitVec 120) (s : State) : Host.Outcome State Fault Refusal :=
  .next (issue s c (.endStream c rsv) { plainPlan (failIf (rsv != 0) causeReserved) with drain := armedAt s c.p }
    (fun _ s =>
      let s := modCtx s c fun x => { x with run := .idle, ended := true, retired := x.retired + 1 }
      if armedAt s c.p && allEnded s (partAt s c.p) c.e then formHash s (partAt s c.p) c.e endPoint else s) false)

/-! ### Scalar arithmetic -/

def scalarCauses (f : ScalarF) : List Nat := failIf (f.rsv != 0) causeReserved

/-- A scalar instruction that writes `v` into SD. -/
def scalarOp (s : State) (c : CtxId) (i : Instr) (f : ScalarF) (causes : List Nat) (v : Ctx → Word) : State :=
  issue s c i (plainPlan (scalarCauses f ++ causes))
    (fun _ s => modCtx s c fun x => x.setReg f.sd.toNat (v x)) true

def Ctx.a (x : Ctx) (f : ScalarF) : Word := x.reg f.sa.toNat
def Ctx.b (x : Ctx) (f : ScalarF) : Word := x.reg f.sb.toNat

def execScalarAdd (c : CtxId) (f : ScalarF) (s : State) : Host.Outcome State Fault Refusal :=
  .next (scalarOp s c (.scalarAdd c f) f [] fun x => x.a f + x.b f)

def execScalarSub (c : CtxId) (f : ScalarF) (s : State) : Host.Outcome State Fault Refusal :=
  .next (scalarOp s c (.scalarSub c f) f [] fun x => x.a f - x.b f)

def execScalarAnd (c : CtxId) (f : ScalarF) (s : State) : Host.Outcome State Fault Refusal :=
  .next (scalarOp s c (.scalarAnd c f) f [] fun x => x.a f &&& x.b f)

def execScalarOr (c : CtxId) (f : ScalarF) (s : State) : Host.Outcome State Fault Refusal :=
  .next (scalarOp s c (.scalarOr c f) f [] fun x => x.a f ||| x.b f)

def execScalarXor (c : CtxId) (f : ScalarF) (s : State) : Host.Outcome State Fault Refusal :=
  .next (scalarOp s c (.scalarXor c f) f [] fun x => x.a f ^^^ x.b f)

/-- SHL: the whole of SB is the count, 0 for 64 or more. -/
def execShl (c : CtxId) (f : ScalarF) (s : State) : Host.Outcome State Fault Refusal :=
  .next (scalarOp s c (.shl c f) f [] fun x => x.a f <<< (x.b f).toNat)

/-- SHR: logical. -/
def execShr (c : CtxId) (f : ScalarF) (s : State) : Host.Outcome State Fault Refusal :=
  .next (scalarOp s c (.shr c f) f [] fun x => x.a f >>> (x.b f).toNat)

def execScalarMul (c : CtxId) (f : ScalarF) (s : State) : Host.Outcome State Fault Refusal :=
  .next (scalarOp s c (.scalarMul c f) f [] fun x => x.a f * x.b f)

def execLoadImmediate (c : CtxId) (f : ScalarF) (s : State) : Host.Outcome State Fault Refusal :=
  .next (scalarOp s c (.loadImmediate c f) f [] fun _ => f.imm)

/-- The special registers (R56): 0 the logical croft index, 1 N, 2 to 5 the program arguments. -/
def Ctx.special (x : Ctx) (n : Nat) : Word :=
  if n = 0 then BitVec.ofNat 64 x.lc else if n = 1 then BitVec.ofNat 64 x.n else tget zeroW x.args (n - 2)

/-- MOV from special: a number above 5 is a reserved field value. -/
def execMovFromSpecial (c : CtxId) (f : ScalarF) (s : State) : Host.Outcome State Fault Refusal :=
  .next (scalarOp s c (.movFromSpecial c f) f (failIf (decide (5 < f.imm.toNat)) causeReserved) fun x => x.special f.imm.toNat)

/-! ### Branches -/

/-- A branch: `pre` changes the context before the test, and the position moves by the signed offset when it holds. -/
def branchOp (s : State) (c : CtxId) (i : Instr) (f : BranchF) (pre : Ctx → Ctx) (taken : Ctx → Bool) : State :=
  issue s c i (plainPlan (failIf (f.rsv != 0) causeReserved))
    (fun _ s =>
      let s := modCtx s c pre
      let x := s.ctx c
      moveTo (retire1 s c) c (if taken x then x.pos + f.offset.toInt else x.pos + 1)) false

def execBranchAlways (c : CtxId) (f : BranchF) (s : State) : Host.Outcome State Fault Refusal :=
  .next (branchOp s c (.branchAlways c f) f id fun _ => true)

def execBranchEqual (c : CtxId) (f : BranchF) (s : State) : Host.Outcome State Fault Refusal :=
  .next (branchOp s c (.branchEqual c f) f id fun x => x.reg f.sa.toNat == x.reg f.sb.toNat)

def execBranchNotEqual (c : CtxId) (f : BranchF) (s : State) : Host.Outcome State Fault Refusal :=
  .next (branchOp s c (.branchNotEqual c f) f id fun x => x.reg f.sa.toNat != x.reg f.sb.toNat)

def execBranchLess (c : CtxId) (f : BranchF) (s : State) : Host.Outcome State Fault Refusal :=
  .next (branchOp s c (.branchLess c f) f id fun x => (x.reg f.sa.toNat).slt (x.reg f.sb.toNat))

def execBranchGreaterEqual (c : CtxId) (f : BranchF) (s : State) : Host.Outcome State Fault Refusal :=
  .next (branchOp s c (.branchGreaterEqual c f) f id fun x => !(x.reg f.sa.toNat).slt (x.reg f.sb.toNat))

/-- Decrement SA and branch if it is not zero. -/
def execDecrementAndBranch (c : CtxId) (f : BranchF) (s : State) : Host.Outcome State Fault Refusal :=
  .next (branchOp s c (.decrementAndBranch c f) f (fun x => x.setReg f.sa.toNat (x.reg f.sa.toNat - 1))
    fun x => x.reg f.sa.toNat != 0)

/-! ### Event flags (R264) -/

def flagCauses (f : FlagF) : List Nat := failIf (f.rsv != 0) causeReserved

def execSetFlags (c : CtxId) (f : FlagF) (s : State) : Host.Outcome State Fault Refusal :=
  .next (issue s c (.setFlags c f) (plainPlan (flagCauses f))
    (fun _ s => modCtx s c fun x => { x with flags := x.flags ||| f.mask }) true)

def execClearFlags (c : CtxId) (f : FlagF) (s : State) : Host.Outcome State Fault Refusal :=
  .next (issue s c (.clearFlags c f) (plainPlan (flagCauses f))
    (fun _ s => modCtx s c fun x => { x with flags := x.flags &&& ~~~ f.mask }) true)

/-- FWAIT: waits for all or any of the flags of MASK, at once where they are set. -/
def execFwait (c : CtxId) (f : FlagF) (s : State) : Host.Outcome State Fault Refusal :=
  .next (issue s c (.fwait c f) (plainPlan (flagCauses f))
    (fun _ s => wakeFlags (modCtx s c fun x => { x with wait := .flags f.mask f.any f.wclr, since := s.now }) c) false)

end Sys2Proof.Machine
end

