-- ==== Sys2Proof/Machine/Vec.lean ====
section
/-! DEFINITION. The VEC class (R53 to R55, R88 to R91): the vector and attention units. -/

namespace Sys2Proof.Machine

/-- Elements of a VEC instruction (R53). -/
def vecLen (f : VecF) : Nat := 64 * (f.len.toNat + 1)

/-- A vector operation. -/
inductive VOp where
  | add | mul | fma | max | min | relu | cvt | scale | rsum | rmax | exp | rcp
deriving DecidableEq, Repr

/-- Whether y is read, and whether z is an input. -/
def VOp.usesY : VOp → Bool
  | .add => true
  | .mul => true
  | .fma => true
  | .max => true
  | .min => true
  | .scale => true
  | _ => false

def isReduce (o : VOp) : Bool := o == .rsum || o == .rmax

/-- Format of y: FP32 for SCALE, SFMT otherwise (R54). -/
def yFmt (o : VOp) (f : VecF) : BitVec 4 := if o = .scale then 12 else f.sfmt

/-- The ranges a VEC writes: the vector, or the unit of a reduction and the unit of its scale byte (R55). -/
def vecWrites (o : VOp) (f : VecF) : List Range :=
  if isReduce o then unitRange f.zadr 64 :: (if fmtMx f.dfmt then [⟨64 * f.zadr.toNat + 64, 64⟩] else [])
  else [unitRange f.zadr (vecBytes f.dfmt (vecLen f))]

/-- The ranges a VEC reads. -/
def vecReads (o : VOp) (f : VecF) : List Range :=
  unitRange f.xadr (vecBytes f.sfmt (vecLen f)) ::
    ((if o.usesY then [unitRange f.yadr (vecBytes (yFmt o f) (vecLen f))] else []) ++
     (if o = .fma then [unitRange f.zadr (vecBytes f.dfmt (vecLen f))] else []))

/-- SFMT that R54 does not allow for the operation. -/
def vecPairing (o : VOp) (f : VecF) : Bool :=
  match o with
  | .scale => !(f.sfmt == 10 || f.sfmt == 11 || f.sfmt == 13)
  | .exp => !fmtFloat f.sfmt
  | .rcp => !fmtFloat f.sfmt
  | _ => false

def vecCauses (o : VOp) (f : VecF) : List Nat :=
  failIf (f.rsv != 0 || fmtWidth f.sfmt == 0 || fmtWidth f.dfmt == 0) causeReserved ++
  failIf ((vecReads o f ++ vecWrites o f).any fun r => !r.inStore) causeRegion ++
  failIf (vecPairing o f && fmtWidth f.sfmt != 0) causePairing

/-! ### The operations (R88) -/

/-- An INT32 result clamped, and whether the clamp took effect (R88). -/
def clamp32 (v : Int) : VVal × Bool := (.i (clampInt 32 v).1, (clampInt 32 v).2)

/-- One element of an operation on values of one type. -/
def vecEval (o : VOp) (x y z : VVal) : VVal × Bool :=
  match x, y with
  | .i a, .i b =>
    match o with
    | .add => clamp32 (a + b)
    | .mul => clamp32 (a * b)
    | .fma => match z with
      | .i c => clamp32 (a * b + c)
      | .f _ => (x, false)
    | .max => (.i (if a < b then b else a), false)
    | .min => (.i (if b < a then b else a), false)
    | .relu => (.i (if a ≤ 0 then 0 else a), false)
    | _ => (x, false)
  | .i a, .f b =>
    match o with
    | .scale => (.f (enc32 (mulN (intN a) (dec32 b))), false)
    | .relu => (.i (if a ≤ 0 then 0 else a), false)
    | _ => (x, false)
  | .f a, y =>
    match o with
    | .add => (.f (add32 a y.toF), false)
    | .mul => (.f (mul32 a y.toF), false)
    | .fma => (.f (fma32 a y.toF z.toF), false)
    | .max => (.f (BitVec.ofNat 32 (fmt32.max a.toNat y.toF.toNat)), false)
    | .min => (.f (BitVec.ofNat 32 (fmt32.min a.toNat y.toF.toNat)), false)
    | .relu =>
      (.f (if fmt32.isNan a.toNat then 0x7FC00000 else if a.getLsbD 31 || a == 0 then 0 else a), false)
    | .exp => (.f (exp32 a), false)
    | .rcp => (.f (rcp32 a), false)
    | _ => (x, false)

/-- Combine neighbours: one level of the tree of R55. -/
def pairUp (g : VVal → VVal → VVal × Bool) : List VVal → List VVal × Bool
  | x :: y :: r =>
    let a := g x y
    let b := pairUp g r
    (a.1 :: b.1, a.2 || b.2)
  | l => (l, false)

/-- `n` levels of the tree. -/
def treeUp (g : VVal → VVal → VVal × Bool) : Nat → List VVal × Bool → List VVal × Bool
  | 0, l => l
  | n + 1, l =>
    let r := treeUp g n l
    let t := pairUp g r.1
    (t.1, r.2 || t.2)

/-- RSUM and RMAX (R55): a six-level tree in each group of 64, the groups then in order. `n` groups are folded into `acc`. -/
def reduceGroups (g : VVal → VVal → VVal × Bool) : Nat → List VVal → VVal × Bool → VVal × Bool
  | 0, _, acc => acc
  | n + 1, l, acc =>
    let t := treeUp g 6 (l.take 64, false)
    let a := g acc.1 (t.1.headD acc.1)
    reduceGroups g n (l.drop 64) (a.1, acc.2 || t.2 || a.2)

/-- Where a reduction starts: +0, or the least value (R55). -/
def reduceStart (o : VOp) (int : Bool) : VVal :=
  if o = .rmax then (if int then .i (-(2 ^ 31)) else .f 0xFF800000) else if int then .i 0 else .f 0

/-- The values a VEC forms, and whether an integer clamp or NaN was met on the way. -/
def vecValues (s : State) (p : Nat) (o : VOp) (f : VecF) (xa ya za : Nat) : List VVal × Bool :=
  let n := vecLen f
  let int := fmtInt f.sfmt
  let x := fun i => vecElem s p xa f.sfmt n i
  let y := fun i => if o.usesY then vecElem s p ya (yFmt o f) n i else x i
  let z := fun i =>
    if o = .fma then
      let v := vecElem s p za f.dfmt n i
      if int then let r := v.toI; (VVal.i r.1, r.2) else (VVal.f v.toF, false)
    else (x i, false)
  if isReduce o then
    let g := fun a b => vecEval (if o = .rsum then .add else .max) a b a
    let r := reduceGroups g (f.len.toNat + 1) ((List.range n).map x) (reduceStart o int, false)
    (r.1 :: List.replicate 31 (if int then .i 0 else .f 0), r.2)
  else
    let rs := (List.range n).map fun i => let c := z i; let r := vecEval o (x i) (y i) c.1; (r.1, r.2 || c.2)
    (rs.map (·.1), rs.any (·.2))

/-- The pieces a VEC writes from the start of z: a reduction fills the unit of its element, and the unit of its scale byte, whose other
63 bytes are zero in the model (R55; log entry 84). -/
def vecPieces (o : VOp) (f : VecF) (vs : List VVal) (level1 : Bool) : List (Nat × List Byte) × Bool :=
  if isReduce o then
    if fmtMx f.dfmt then
      let r := encVector vs f.dfmt level1
      (r.1.map fun x => (x.1, x.2 ++ List.replicate (64 - x.2.length) 0), r.2)
    else
      let r := encVector (vs.take 1) f.dfmt level1
      (r.1.map fun x => (x.1, x.2 ++ List.replicate (64 - x.2.length) 0), r.2)
  else encVector vs f.dfmt level1

/-- The vector operation runs: results into the local store, the saturation flag on a clamp or a NaN (R80, R88). -/
def runVec (s : State) (c : CtxId) (id : Nat) (o : VOp) (f : VecF) : State :=
  let n := vecLen f
  let xa := relocLo s c (unitRange f.xadr (vecBytes f.sfmt n))
  let ya := relocLo s c (unitRange f.yadr (vecBytes (yFmt o f) n))
  let zw := (vecWrites o f).headD ⟨0, 0⟩
  let za := relocLo s c zw
  let v := vecValues s c.p o f xa ya za
  let w := vecPieces o f v.1 (level1At s c.p)
  let s := w.1.foldl (fun s x => lsWrite s c.p (za + x.1) x.2) s
  engineReady (satIf s c (v.2 || w.2)) c.p id

/-- The plan of a VEC instruction. -/
def vecPlan (o : VOp) (f : VecF) : Plan where
  causes := vecCauses o f
  gather := false
  reads := vecReads o f
  writes := vecWrites o f
  engine := some .vec
  flag := flagOf f.flag f.flagen

/-- Issue a VEC instruction. -/
def issueVec (s : State) (c : CtxId) (i : Instr) (o : VOp) (f : VecF) : State :=
  let pl := vecPlan o f
  issue s c i pl (fun id s => orPoison s c (relocated s c pl.reads) fun s => runVec s c id o f) true

def execVecAdd (c : CtxId) (f : VecF) (s : State) : Host.Outcome State Fault Refusal := .next (issueVec s c (.vecAdd c f) .add f)
def execVecMul (c : CtxId) (f : VecF) (s : State) : Host.Outcome State Fault Refusal := .next (issueVec s c (.vecMul c f) .mul f)
def execFma (c : CtxId) (f : VecF) (s : State) : Host.Outcome State Fault Refusal := .next (issueVec s c (.fma c f) .fma f)
def execVecMax (c : CtxId) (f : VecF) (s : State) : Host.Outcome State Fault Refusal := .next (issueVec s c (.vecMax c f) .max f)
def execVecMin (c : CtxId) (f : VecF) (s : State) : Host.Outcome State Fault Refusal := .next (issueVec s c (.vecMin c f) .min f)
def execRelu (c : CtxId) (f : VecF) (s : State) : Host.Outcome State Fault Refusal := .next (issueVec s c (.relu c f) .relu f)
def execCvt (c : CtxId) (f : VecF) (s : State) : Host.Outcome State Fault Refusal := .next (issueVec s c (.cvt c f) .cvt f)
def execScale (c : CtxId) (f : VecF) (s : State) : Host.Outcome State Fault Refusal := .next (issueVec s c (.scale c f) .scale f)
def execRsum (c : CtxId) (f : VecF) (s : State) : Host.Outcome State Fault Refusal := .next (issueVec s c (.rsum c f) .rsum f)
def execRmax (c : CtxId) (f : VecF) (s : State) : Host.Outcome State Fault Refusal := .next (issueVec s c (.rmax c f) .rmax f)
def execExp (c : CtxId) (f : VecF) (s : State) : Host.Outcome State Fault Refusal := .next (issueVec s c (.exp c f) .exp f)
def execRcp (c : CtxId) (f : VecF) (s : State) : Host.Outcome State Fault Refusal := .next (issueVec s c (.rcp c f) .rcp f)

end Sys2Proof.Machine
end

