-- ==== Sys2Proof/Machine/Retire.lean ====
section
/-! DEFINITION. The issue of a word of the stream (R45) and of a held instruction (R51, R203, R263), and the retirement of
an engine instruction (R44). -/

namespace Sys2Proof.Machine

/-- An instruction issues in its context. -/
def issueInstr (i : Instr) (s : State) : Host.Outcome State Fault Refusal :=
  match i with
  | .nop c w => issueNop c w s
  | .endStream c r => execEndStream c r s
  | .scalarAdd c f => execScalarAdd c f s
  | .scalarSub c f => execScalarSub c f s
  | .scalarAnd c f => execScalarAnd c f s
  | .scalarOr c f => execScalarOr c f s
  | .scalarXor c f => execScalarXor c f s
  | .shl c f => execShl c f s
  | .shr c f => execShr c f s
  | .scalarMul c f => execScalarMul c f s
  | .loadImmediate c f => execLoadImmediate c f s
  | .movFromSpecial c f => execMovFromSpecial c f s
  | .branchAlways c f => execBranchAlways c f s
  | .branchEqual c f => execBranchEqual c f s
  | .branchNotEqual c f => execBranchNotEqual c f s
  | .branchLess c f => execBranchLess c f s
  | .branchGreaterEqual c f => execBranchGreaterEqual c f s
  | .decrementAndBranch c f => execDecrementAndBranch c f s
  | .dmaRead c f => execDmaRead c f s
  | .dmaWrite c f => execDmaWrite c f s
  | .atomicAdd c f => execAtomicAdd c f s
  | .atomicMin c f => execAtomicMin c f s
  | .atomicMax c f => execAtomicMax c f s
  | .cas c f => execCas c f s
  | .swap c f => execSwap c f s
  | .atomicAnd c f => execAtomicAnd c f s
  | .atomicOr c f => execAtomicOr c f s
  | .atomicXor c f => execAtomicXor c f s
  | .setFlags c f => execSetFlags c f s
  | .clearFlags c f => execClearFlags c f s
  | .fwait c f => execFwait c f s
  | .bar c f => execBar c f s
  | .ring c f => execRing c f s
  | .bwait c f => execBwait c f s
  | .ssig c f => execSsig c f s
  | .swait c f => execSwait c f s
  | .allgather c f => execAllgather c f s
  | .allreduce c f => execAllreduce c f s
  | .mmaW c f => execMmaW c f s
  | .mmaA c f => execMmaA c f s
  | .mmaO c f => execMmaO c f s
  | .vecAdd c f => execVecAdd c f s
  | .vecMul c f => execVecMul c f s
  | .fma c f => execFma c f s
  | .vecMax c f => execVecMax c f s
  | .vecMin c f => execVecMin c f s
  | .relu c f => execRelu c f s
  | .cvt c f => execCvt c f s
  | .scale c f => execScale c f s
  | .rsum c f => execRsum c f s
  | .rmax c f => execRmax c f s
  | .exp c f => execExp c f s
  | .rcp c f => execRcp c f s
  | .gleanSum c f => execGleanSum c f s
  | .gleanMean c f => execGleanMean c f s
  | .gleanGather c f => execGleanGather c f s
  | .sieveSelect c f => execSieveSelect c f s
  | .sieveRoute c f => execSieveRoute c f s
  | _ => .next s

/-- NOP (R45): the word of the stream issues as what it spells; one of a reserved class or operation stops the croft with its cause. -/
def execNop (c : CtxId) (w : BitVec 128) (s : State) : Host.Outcome State Fault Refusal :=
  match decodeCroft c w with
  | some i => issueInstr i s
  | none => issueNop c w s

/-- INTERLOCK_ISSUE (R51): the instruction the context holds issues, or goes on waiting; LS_INTERLOCK counts the wait (R64). -/
def execInterlockIssue (c : CtxId) (s : State) : Host.Outcome State Fault Refusal :=
  let x := s.ctx c
  match x.held with
  | none => .next s
  | some i =>
    if x.run = .running then
      issueInstr i (setCtx (endHold s c) c { x with held := none })
    else .next s

/-! ### Retirement -/

/-- Contributions an instruction staged and its context waits to have acknowledged (R208). -/
def stagedBy (s : State) (i : Instr) : Nat :=
  match dmaOfInstr i with
  | some (c, f, d) => if relaxedAt s c then 0 else contribs f d
  | none => 0

/-- The term of a remote write for the next hash point (R299). -/
def noteRemote (s : State) (c : CtxId) (g : Engine) : State :=
  match g.sent with
  | some (sp, a, bs) =>
    if armedAt s c.p then
      let n := (s.ctx c).retired
      modCroft s c.p fun x => { x with remote := x.remote ++ [(n, a, remoteTerm n sp a bs)] }
    else s
  | none => s

/-- INSTRUCTION_RETIRE (R44, R264): an engine instruction whose work is complete retires: it gives up its ranges and sets its event
flag. It waits for its accesses that wait at banks or for BIRsp (R219, R471); SIEVE and COLL retire with their round or collective. -/
def execInstructionRetire (p : Fin 512) (id : Nat) (s : State) : Host.Outcome State Fault Refusal :=
  .next (match engineOf s p id with
  | none => s
  | some g =>
    let c := mkCtx p g.e
    if g.ready && !owed s (.engine c g.id) then
      let s := modCtx s c fun x => { x with unacked := x.unacked - stagedBy s g.instr }
      let flag := g.flag
      let s := retireEngine (modEngine s p id fun h => { h with flag := none }) c id
      let s := noteRemote s c g
      match flag with
      | none => s
      | some f => raiseFlag s c f
    else s)

end Sys2Proof.Machine
end

