-- ==== Sys2Proof/Machine/Release.lean ====
section
/-! DEFINITION. The release of an access that waits at a regulator (R214, R222, R260). -/

namespace Sys2Proof.Machine

/-- Nanoseconds until the buckets of an access hold its tokens; none where a bucket never fills. -/
def tokenWait (s : State) (k : Nat) (ds : Demand) : Option Nat :=
  ds.foldl (fun w d =>
    let need := tget zeroN (s.part k).tokens d.1 + min d.2 (regDepth s k d.1) - regDepth s k d.1
    match w with
    | none => none
    | some t => if need = 0 then some t else if regRate s k d.1 = 0 then none else some (max t (cdiv need (regRate s k d.1)))) (some 0)

/-- The command a GLEAN has in a slice controller. -/
def glCmdOf (s : State) (p id : Nat) : Option (Nat × GlCmd) :=
  (List.range 512).findSome? fun q => ((s.slice q).gl.find? fun x => x.p == p && x.id == id).map fun x => (q, x)

/-- An access that waits at a regulator: since when, its tokens, and how it goes on once it has them. -/
structure Waiter where
  since  : Nat
  demand : Demand
  go     : State → State

/-- The engine instructions of a partition that wait at a regulator (R214). -/
def engineWaiters (s : State) (k : Nat) (r : Regulator) : List Waiter :=
  (List.range 512).flatMap fun p =>
    if partOf s p = some k then
      ((s.croft p).engines.filter fun g => g.gate = some r).filterMap fun g =>
        let free := fun s : State => modEngine s p g.id fun h => { h with gate := none, stall := none }
        match dmaOfInstr g.instr with
        | some (c, f, d) =>
          let a := BitVec.ofNat 64 g.base
          some ⟨g.stall.getD s.now, dmaDemand s c f d a, fun s => runDma (free s) c g.id f d a⟩
        | none => ((glCmdOf s p g.id).filter fun x => !bagStopped s x.1 x.2).map fun x => ⟨g.stall.getD s.now, bagDemand s x.1 x.2, fun s => nextBag (free s) x.1 x.2⟩
    else []

/-- The first access of a partition that waits in the host port, where it waits for this regulator or for none any more. -/
def portWaiter (s : State) (k : Nat) (r : Regulator) : Option Waiter :=
  match s.link.portQ.find? fun x => x.part == k with
  | none => none
  | some x =>
    let ds := portDemand s x
    if ((shortOf s k ds).map regOf).getD r = r then
      some ⟨x.at0, ds, fun s => serveOutside { s with link := { s.link with portQ := s.link.portQ.erase x } } x⟩
    else none

/-- The access that has waited longest; the first of equals. -/
def oldestWaiter : List Waiter → Option Waiter
  | [] => none
  | w :: ws =>
    match oldestWaiter ws with
    | none => some w
    | some x => if w.since ≤ x.since then some w else some x

/-- REGULATOR_RELEASE (R214): the access that has waited longest at a regulator of a partition proceeds once enough tokens have accrued;
its wait is counted (R222). -/
def execRegulatorRelease (part : Fin 8) (r : Regulator) (s : State) : Host.Outcome State Fault Refusal :=
  let k := part.val
  let s' := accrue s k
  .next (match oldestWaiter (engineWaiters s' k r ++ (portWaiter s' k r).toList) with
  | none => s
  | some w =>
    match tokenWait s' k w.demand with
    | none => s'
    | some t =>
      let s := accrue (notBefore s' (s'.now + t)) k
      w.go (takeTokens (bump s (ctrPart k (regIndex r)) (s.now - w.since)) k w.demand))

end Sys2Proof.Machine
end

