-- ==== Sys2Proof/Machine/Sense.lean ====
section
/-! DEFINITION. Sensors and the temperatures formed from them (R431 to R440). Temperatures in 0.125 K. -/

namespace Sys2Proof.Machine

def reading (s : State) (i : SensorId) : Int := tget zeroI s.therm.last (sensorNo i)
def suspected (s : State) (i : SensorId) : Bool := tget zeroB s.therm.suspect (sensorNo i)

/-- The layer tile above a croft in a layer, and the quadrant of the croft (R431). -/
def tileOf (p layer : Nat) : Nat := 12 * (p / 32) + layer
def quadOf (p : Nat) : Nat := p % 32 / 8

/-- The number of a tile as a sensor's. -/
def quadSensor (t q : Nat) : SensorId := .tile (Fin.ofNat 192 t) (Fin.ofNat 4 q)
def diodeOf (p : Nat) : SensorId := .diode (Fin.ofNat 512 p)
def ringOf (p : Nat) : SensorId := .ringOsc (Fin.ofNat 512 p)

/-- Tm (R433). -/
def modelTemp (s : State) (p : Nat) : Int :=
  let t := tileOf p 0
  let d := quadSensor t (quadOf p)
  (if suspected s d then tget zeroI s.therm.tileT t else reading s d) + ((Config.kc p * tget zeroN s.therm.pc p / 125000 : Nat) : Int)

/-- The temperature of a croft and its source code (R434, R461). -/
def croftForm (s : State) (p : Nat) : Int × Nat :=
  let d := reading s (diodeOf p)
  let r := reading s (ringOf p)
  match suspected s (diodeOf p), suspected s (ringOf p) with
  | false, false => (max d r, 0)
  | false, true => (max d (modelTemp s p), 1)
  | true, false => (max r (modelTemp s p), 1)
  | true, true => (modelTemp s p, 2)

/-- Form a croft's temperature; with no sensor left its clock is capped, once (R434). -/
def formCroftT (s : State) (p : Nat) : State :=
  let x := croftForm s p
  let s := { s with therm := { s.therm with
    croftT := tset zeroI s.therm.croftT p x.1, croftSrc := tset zeroN s.therm.croftSrc p x.2 } }
  if x.2 = 2 ∧ tget zeroB s.therm.cap50 p = false then
    raise { s with therm := { s.therm with cap50 := tset zeroB s.therm.cap50 p true } } 0x0302 1 [(16, 2, p)]
  else s

/-! ### Suspect sensors (R432, R463) -/

/-- Where a sensor lies and which it is, as SENSOR_SUSPECT gives them. -/
def sensorFields : SensorId → List (Nat × Nat × Nat)
  | .diode p => [(16, 2, p.val), (18, 1, p.val / 128), (19, 1, p.val / 32 % 4), (20, 1, 0xFF), (21, 1, 0)]
  | .ringOsc p => [(16, 2, p.val), (18, 1, p.val / 128), (19, 1, p.val / 32 % 4), (20, 1, 0xFF), (21, 1, 1)]
  | .tile t q => [(16, 2, 0xFFFF), (18, 1, t.val / 48), (19, 1, t.val / 12 % 4), (20, 1, t.val % 12), (21, 1, 2 + q.val)]
  | .square i => [(16, 2, 0xFFFF), (20, 1, 0xFF), (21, 1, 6 + i.val)]

/-- A sensor becomes suspect: 0 disagreement, 1 range or silence, 2 MODELLED. It is raised once for a sensor. -/
def makeSuspect (s : State) (i : SensorId) (reason : Nat) : State :=
  if suspected s i then s
  else
    let s := bump { s with therm := { s.therm with suspect := tset zeroB s.therm.suspect (sensorNo i) true } } (ctrSquare 45) 1
    raise s 0x0301 0 (sensorFields i ++ [(22, 1, reason)])

/-! ### Layer tiles (R437, R438, R440) -/

/-- Readings of the sensors of a tile that are not suspect. -/
def tileReads (s : State) (t : Nat) : List Int :=
  (List.range 4).filterMap fun q => if suspected s (quadSensor t q) then none else some (reading s (quadSensor t q))

/-- The highest of a list. -/
def highest : List Int → Option Int
  | [] => none
  | x :: xs => some (xs.foldl max x)

/-- The sensor value of a tile from its own sensors: it takes two that are not suspect. -/
def tileOwn (s : State) (t : Nat) : Option Int := if 2 ≤ (tileReads s t).length then highest (tileReads s t) else none

/-- V of a tile: its sensor value, or its assigned temperature when it is MODELLED. -/
def tileV (s : State) (t : Nat) : Int := if tget zeroB s.therm.modelled t then tget zeroI s.therm.tileT t else tget zeroI s.therm.tileV t

/-- E(L) of a middle-layer tile. -/
def estimate (s : State) (t : Nat) : Int := (tileV s (t - 1) + tileV s (t + 1)) / 2

def setTileV (s : State) (t : Nat) (v : Int) : State := { s with therm := { s.therm with tileV := tset zeroI s.therm.tileV t v } }

/-- The sensor value of a tile whose sensors do not give one (R437). -/
def replaced (s : State) (t : Nat) : Int :=
  if t % 12 = 0 then ((highest ((List.range 32).map fun i => tget zeroI s.therm.croftT (32 * (t / 12) + i))).getD 0)
  else if t % 12 = 11 then tget zeroI s.therm.tileV (t - 1)
  else estimate s t

/-- 86 °C. -/
def modelFloor : Int := 688

/-- The highest canary temperature of a tile's latest checks. -/
def canaryOf (s : State) (t : Nat) : Option Int := highest ((List.range 4).filterMap fun q => tget noTemp s.therm.canNow (4 * t + q))

/-- The assigned temperature of a tile and its source code. -/
def tileForm (s : State) (t : Nat) : Int × Nat :=
  let v := tget zeroI s.therm.tileV t
  let own := (tileOwn s t).isSome
  if tget zeroB s.therm.modelled t then (max (max (estimate s t) ((canaryOf s t).getD modelFloor)) modelFloor, 2)
  else if t % 12 = 0 ∨ t % 12 = 11 then (v, if own then 0 else 1)
  else if v < estimate s t - 16 then (estimate s t - 16, 1)
  else (v, if own then 0 else 1)

/-- Assign a tile its temperature, and judge its refresh interval: doubled above 85 °C, timed at or below 83 °C (R244). -/
def assignTile (s : State) (t : Nat) : State :=
  let x := tileForm s t
  let db := tget zeroB s.therm.dbl t || decide (680 < x.1)
  let at0 := tget zeroN s.therm.coolAt t
  let cool := if db = true ∧ x.1 ≤ 664 then (if at0 = 0 then s.now + 1 else at0) else 0
  { s with therm := { s.therm with
    tileT := tset zeroI s.therm.tileT t x.1
    tileSrc := tset zeroN s.therm.tileSrc t x.2
    dbl := tset zeroB s.therm.dbl t db
    coolAt := tset zeroN s.therm.coolAt t cool } }

/-- Form every tile: sensor values from the tiles' own sensors first, then the replaced ones from layer 0 upward, then the assigned
temperatures. -/
def formTiles (s : State) : State :=
  let ts := List.range 192
  let s := ts.foldl (fun s t => match tileOwn s t with
    | some v => setTileV s t v
    | none => s) s
  let s := ts.foldl (fun s t => if (tileOwn s t).isSome then s else setTileV s t (replaced s t)) s
  ts.foldl assignTile s

/-- REFRESH_NORMAL_RETURN (R244): 1 s at or below 83 °C. -/
def execRefreshNormalReturn (t : Fin 192) (s : State) : Host.Outcome State Fault Refusal :=
  let at0 := tget zeroN s.therm.coolAt t
  .next (if at0 = 0 then s
    else
      let s := notBefore s (at0 - 1 + 1000000000)
      { s with therm := { s.therm with dbl := tset zeroB s.therm.dbl t false, coolAt := tset zeroN s.therm.coolAt t 0 } })

/-! ### Disagreement (R435, R437) -/

/-- Twice the median of a list; of an even number, the median is the mean of the middle two. -/
def twiceMedian (l : List Int) : Int :=
  let m := sortBy (fun x : Int => (x + 32768).toNat) l
  let n := m.length
  if n % 2 = 1 then 2 * m.getD (n / 2) 0 else m.getD (n / 2 - 1) 0 + m.getD (n / 2) 0

/-- Whether a croft's two sensors differ by more than 5 K. -/
def croftDiffers (s : State) (p : Nat) : Bool :=
  !suspected s (diodeOf p) && !suspected s (ringOf p) && decide (40 < (reading s (diodeOf p) - reading s (ringOf p)).natAbs)

/-- Whether a tile sensor differs from the median of the tile's others by more than 10 K. -/
def tileDiffers (s : State) (t q : Nat) : Bool :=
  let os := (List.range 4).filterMap fun r => if r = q ∨ suspected s (quadSensor t r) = true then none else some (reading s (quadSensor t r))
  !suspected s (quadSensor t q) && !os.isEmpty && decide (160 < (2 * reading s (quadSensor t q) - twiceMedian os).natAbs)

/-- When a condition began to hold, plus 1; 0 while it does not. -/
def since (now at0 : Nat) (b : Bool) : Nat := if b then (if at0 = 0 then now + 1 else at0) else 0

/-- Time the disagreements of crofts and tile sensors. -/
def timeDiffers (s : State) : State :=
  let d := (List.range 512).foldl (fun t p => tset zeroN t p (since s.now (tget zeroN t p) (croftDiffers s p))) s.therm.disAt
  let e := (List.range 768).foldl (fun t i => tset zeroN t i (since s.now (tget zeroN t i) (tileDiffers s (i / 4) (i % 4)))) s.therm.tdisAt
  { s with therm := { s.therm with disAt := d, tdisAt := e } }

/-- SENSOR_SILENCE (R432): no reading for 1 ms. -/
def execSensorSilence (i : SensorId) (s : State) : Host.Outcome State Fault Refusal :=
  .next (makeSuspect (notBefore s (tget zeroN s.therm.lastAt (sensorNo i) + 1000000)) i 1)

/-- SENSOR_DISAGREE (R435): after 100 ms the sensor further from Tm is suspect; the ring oscillator where they lie equally far. -/
def execSensorDisagree (p : Fin 512) (s : State) : Host.Outcome State Fault Refusal :=
  let at0 := tget zeroN s.therm.disAt p
  .next (if at0 = 0 then s
    else
      let s := notBefore s (at0 - 1 + 100000000)
      let far := fun i => (reading s i - modelTemp s p).natAbs
      let s := makeSuspect s (if far (ringOf p) < far (diodeOf p) then diodeOf p else ringOf p) 0
      formCroftT { s with therm := { s.therm with disAt := tset zeroN s.therm.disAt p 0 } } p)

/-- TILE_SENSOR_DISAGREE (R437): after 1 s. -/
def execTileSensorDisagree (t : Fin 192) (q : Fin 4) (s : State) : Host.Outcome State Fault Refusal :=
  let at0 := tget zeroN s.therm.tdisAt (4 * t.val + q.val)
  .next (if at0 = 0 then s
    else
      let s := makeSuspect (notBefore s (at0 - 1 + 1000000000)) (quadSensor t q) 0
      formTiles { s with therm := { s.therm with tdisAt := tset zeroN s.therm.tdisAt (4 * t.val + q.val) 0 } })

/-! ### Canaries (R439, R440) -/

/-- Whether tcan is at least ta + n: (f / fa)^d ≥ (fb / fa)^n, with d = tb − ta. -/
def canAtLeast (f fa fb d : Nat) (n : Int) : Bool :=
  match n with
  | .ofNat n => decide (fb ^ n * fa ^ d ≤ f ^ d * fa ^ n)
  | .negSucc m => decide (fa ^ (d + (m + 1)) ≤ f ^ d * fb ^ (m + 1))

/-- Count up from `n` while the bound holds. -/
def canUp (f fa fb d : Nat) : Nat → Nat → Nat
  | 0, n => n
  | k + 1, n => if canAtLeast f fa fb d ((n : Int) + 1) then canUp f fa fb d k (n + 1) else n

/-- Count down from −`n` until the bound holds. -/
def canDown (f fa fb d : Nat) : Nat → Nat → Nat
  | 0, n => n
  | k + 1, n => if canAtLeast f fa fb d (-(n : Int)) then n else canDown f fa fb d k (n + 1)

/-- The largest n with tcan ≥ ta + n: the canary temperature in whole 0.125 K, exactly. -/
def canSteps (f fa fb d : Nat) : Int :=
  if canAtLeast f fa fb d 0 then (canUp f fa fb d 2000 0 : Nat) else -((canDown f fa fb d 2000 1 : Nat) : Int)

/-- The canary temperature of a check; none where R439 gives none. A pair of steps whose temperatures or counts do not rise gives a value the
formula does not state: a free value. -/
def canaryTemp (s : State) (t q f : Nat) : Option Int :=
  let c := 4 * t + q
  let n := s.therm.canRun
  let f1 := Config.canaryBits n c 0
  let f2 := Config.canaryBits n c 1
  let f3 := Config.canaryBits n c 2
  let hi := decide (f2 ≤ f ∨ f1 < 4)
  let fa := if hi then f2 else f1
  let fb := if hi then f3 else f2
  let ta := tget zeroI s.therm.canT (3 * t + if hi then 1 else 0)
  let tb := tget zeroI s.therm.canT (3 * t + if hi then 2 else 1)
  if tget zeroB s.therm.canOk t = false ∨ f < 4 ∨ f2 < 4 ∨ f2 ≤ f1 then none
  else if fa < fb ∧ ta < tb then some (ta + canSteps f fa fb (tb - ta).toNat)
  else some (freeVal 16 s).toInt

/-- A middle-layer tile becomes MODELLED (R440). -/
def makeModelled (s : State) (t : Nat) : State :=
  let v := tget zeroI s.therm.tileV t
  let s := bump { s with therm := { s.therm with modelled := tset zeroB s.therm.modelled t true } } (ctrSquare 47) 1
  let s := (List.range 4).foldl (fun s q => makeSuspect s (quadSensor t q) 2) s
  let s := assignTile s t
  raise s 0x0303 1 [(16, 1, t / 48), (17, 1, t / 12 % 4), (18, 1, t % 12), (20, 2, temp16 (tget zeroI s.therm.tileT t)), (22, 2, temp16 v)]

/-- When the next check of a canary quadrant begins: at once where CE_BUCKET has started it, else a second after the last. -/
def canaryStart (s : State) (c : Nat) : Nat :=
  match tget zeroN s.therm.canDue c with
  | 0 => tget zeroN s.therm.canAt c + 1000000000
  | t + 1 => t

/-- A check of a canary quadrant comes to its read, the hold time after it began. -/
def canaryRead (s : State) (c : Nat) : State :=
  let h := 1000000 * tget zeroN s.therm.canH c
  let s := notBefore s (canaryStart s c + h)
  { s with therm := { s.therm with canAt := tset zeroN s.therm.canAt c (s.now - h), canDue := tset zeroN s.therm.canDue c 0 } }

/-- CANARY_CHECK (R431, R439, R440): once per second, and at once after CE_BUCKET, the check of a quadrant ends with `f` failing bits; three consecutive checks at least 8 K above the sensor value make a middle-layer tile MODELLED. -/
def execCanaryCheck (t : Fin 192) (q : Fin 4) (f : Nat) (s : State) : Host.Outcome State Fault Refusal :=
  let c := 4 * t.val + q.val
  let s := canaryRead s c
  let tc := canaryTemp s t q f
  let s := drew (bump s (ctrSquare 46) 1)
  let mid := decide (1 ≤ t.val % 12 ∧ t.val % 12 ≤ 10)
  let high := match tc with
    | some x => mid && decide (tget zeroI s.therm.tileV t + 64 ≤ x)
    | none => false
  let n := if high then tget zeroN s.therm.canHigh c + 1 else 0
  let s := { s with therm := { s.therm with canNow := tset noTemp s.therm.canNow c tc, canHigh := tset zeroN s.therm.canHigh c n } }
  .next (if tget zeroB s.therm.modelled t then assignTile s t
    else if 3 ≤ n then makeModelled s t
    else s)

end Sys2Proof.Machine
end

