-- ==== Sys2Proof/Machine/Thermal.lean ====
section
/-! DEFINITION. Sampling, limits, power caps, the flow stop and the trip, the rota, thermal cycles and life (R61, R431, R436, R441 to R460). -/

namespace Sys2Proof.Machine

/-! ### Clocks (R61, R444) -/

/-- Clock ceiling of a croft. -/
def clockCeil (s : State) (p : Nat) : Nat :=
  let c := max 400 (envClock s.dev.env - 50 * croftTheta s p)
  if tget zeroB s.therm.cap50 p then min c (envClock s.dev.env / 2) else c

/-- One step of at most 50 MHz toward a ceiling. -/
def stepClock (mhz ceil : Nat) : Nat := if mhz < ceil then min (mhz + 50) ceil else max (mhz - 50) ceil

/-- CLOCK_STEP: at most one step per microsecond. -/
def execClockStep (p : Fin 512) (s : State) : Host.Outcome State Fault Refusal :=
  let s := countHeat (notBefore s ((s.croft p).stepAt + 1000)) p
  .next (modCroft s p fun x => { x with mhz := stepClock x.mhz (clockCeil s p), stepAt := s.now })

/-- DROOP_STRETCH: cycles are stretched while the supply is more than 4 % below its setpoint. -/
def execDroopStretch (p : Fin 512) (supply cycles : Nat) (s : State) : Host.Outcome State Fault Refusal :=
  .next (if supply < 960 then modCroft (bump s (ctrCroft p 7) cycles) p fun x => { x with stretch := true }
    else modCroft s p fun x => { x with stretch := false })

/-! ### One sample (R431 to R438, R443) -/

/-- A ring oscillator reads with its offset, in 1/16 K: the one that SELFTEST measured, and what cross-calibration has added (R436). -/
def corrected (s : State) (i : SensorId) (t : Int) : Int :=
  match i with
  | .ringOsc p => t + (Config.roBase s.therm.roRun p + tget zeroI s.therm.roOff p) / 2
  | _ => t

/-- One reading; outside −20 °C to 150 °C its sensor becomes suspect at once (R432). -/
def takeReading (s : State) (i : SensorId) (t : Int) : State :=
  let v := corrected s i t
  let n := sensorNo i
  let s := { s with therm := { s.therm with last := tset zeroI s.therm.last n v, lastAt := tset zeroN s.therm.lastAt n s.now } }
  if v < -160 ∨ 1200 < v then makeSuspect s i 1 else s

/-- The power of a croft. -/
def takePower (s : State) (p : Fin 512) (n : Nat) : State :=
  { s with therm := { s.therm with
    pc := tset zeroN s.therm.pc p n
    pcMin := tset zeroN s.therm.pcMin p (min (tget zeroN s.therm.pcMin p) n)
    pcMax := tset zeroN s.therm.pcMax p (max (tget zeroN s.therm.pcMax p) n) } }

/-- The power of a village in a measurement. -/
def villagePower (x : PowerIn) (v : Nat) : Nat := if v = 0 then x.v0 else if v = 1 then x.v1 else if v = 2 then x.v2 else x.v3

/-- The mean of one power over some measurements. -/
def meanOf (l : List PowerIn) (f : PowerIn → Nat) : Nat := (l.map f).foldl (· + ·) 0 / l.length

/-- A measurement of the powers, every 10 µs: the running averages are over the last 1 ms (R443). -/
def takePowers (s : State) (x : PowerIn) : State :=
  let l := (x :: s.therm.powers).take 100
  { s with therm := { s.therm with
    powers := l
    vpower := (List.range 4).foldl (fun t v => tset zeroN t v (meanOf l (villagePower · v))) s.therm.vpower
    modIn := meanOf l (·.module)
    sqPower := meanOf l (·.square)
    vSum := (List.range 4).foldl (fun t v => tset zeroN t v (tget zeroN t v + villagePower x v)) s.therm.vSum
    vN := s.therm.vN + 1
    modSum := s.therm.modSum + x.module
    modN := s.therm.modN + 1 } }

/-- Since when a condition has held without a break. -/
def heldFrom (now : Nat) (old : Option Nat) (b : Bool) : Option Nat := if b then some (old.getD now) else none

/-- Flow is sampled every 2 ms, the coolant temperatures every 10 ms. -/
def takeCoolant (s : State) (t : ThermIn) : State :=
  let s := if s.therm.flowAt + 2000000 ≤ s.now then
      { s with therm := { s.therm with
        flow := t.flow, flowAt := s.now, lowFlow := if t.flow < 120 then s.therm.lowFlow + 1 else 0 } }
    else s
  let s := if s.therm.inletAt + 10000000 ≤ s.now then
      { s with therm := { s.therm with tin := t.tin, tout := t.tout, inletAt := s.now } }
    else s
  let h := s.therm
  { s with therm := { h with
    badFlowAt := heldFrom s.now h.badFlowAt (decide (h.flow < 300))
    badInletAt := heldFrom s.now h.badInletAt (decide (600 ≤ h.tin))
    goodAt := heldFrom s.now h.goodAt (decide (420 ≤ h.flow ∧ h.tin ≤ 560))
    flowOk := heldFrom s.now h.flowOk (decide (420 ≤ h.flow)) } }

/-- Croft trip: 118 °C, or 110 °C while a flow stop is in force (R441). -/
def croftTrip (s : State) : Int := if s.therm.flowstop then 880 else 944

/-- The hardware trip condition of a croft (R450). -/
def croftHit (s : State) (p : Nat) : Bool :=
  let d := reading s (diodeOf p)
  let r := reading s (ringOf p)
  let t := croftTrip s
  match suspected s (diodeOf p), suspected s (ringOf p) with
  | false, false => decide ((t ≤ d ∧ t - 40 ≤ r) ∨ (t ≤ r ∧ t - 40 ≤ d))
  | false, true => decide (t ≤ d)
  | true, false => decide (t ≤ r)
  | true, true => false

/-- The hardware trip condition of a layer tile. -/
def tileHit (s : State) (t : Nat) : Bool := (tileReads s t).any fun x => decide (800 ≤ x)

def squareDiode (i : Nat) : SensorId := .square (Fin.ofNat 8 i)

/-- The hardware trip condition of the square: two diodes that are not suspect at or above 118 °C. -/
def squareHit (s : State) : Bool :=
  decide (2 ≤ ((List.range 8).filter fun i => !suspected s (squareDiode i) && decide (944 ≤ reading s (squareDiode i))).length)

/-- The hardware trip conditions that hold. -/
def tripHits (s : State) : List Nat :=
  (List.range 512).filter (croftHit s) ++ ((List.range 192).filter (tileHit s)).map (512 + ·) ++ if squareHit s then [704] else []

/-- Every temperature is at least 5 K below its operating limit (R449). -/
def allCool (s : State) : Bool :=
  ((List.range 512).all fun p => decide (tget zeroI s.therm.croftT p ≤ 800)) &&
    ((List.range 192).all fun t => decide (tget zeroI s.therm.tileT t ≤ 720)) && decide (squareT s ≤ 800)

/-- What a sample leads to: temperatures, disagreements, trip conditions. -/
def formAll (s : State) : State :=
  let s := timeDiffers (formTiles ((List.range 512).foldl formCroftT s))
  let l := tripHits s
  { s with therm := { s.therm with
    coolSince := heldFrom s.now s.therm.coolSince (allCool s)
    tripHit := l.any fun x => s.therm.hitLast.contains x
    hitLast := l } }

/-- SENSOR_SAMPLE: every 100 µs, with the powers measured since the last. -/
def execSensorSample (t : ThermIn) (s : State) : Host.Outcome State Fault Refusal :=
  let s := notBefore s (s.therm.sampleAt + 100000)
  let s := t.temps.foldl (fun s x => takeReading s x.1 x.2) s
  let s := t.pc.foldl (fun s x => takePower s x.1 x.2) s
  let s := t.powers.foldl takePowers s
  let s := takeCoolant s t
  .next (formAll { s with therm := { s.therm with sampleAt := s.now } })

/-! ### The limiter (R441, R444, R445) -/

/-- Assigned temperature of a tile by village, hamlet and layer. -/
def tileAt (s : State) (v h l : Nat) : Int := tget zeroI s.therm.tileT (12 * (4 * v + h) + l)

/-- Hamlets of a village with a layer tile at least 5 K above the median of the village's four in its layer. -/
def hotHamlets (s : State) (v : Nat) : List Nat :=
  (List.range 4).filter fun h => (List.range 12).any fun l =>
    decide (twiceMedian ((List.range 4).map fun i => tileAt s v i l) + 80 ≤ 2 * tileAt s v h l)

/-- Hamlets of a village with a croft or a layer tile above its operating limit. -/
def overHamlets (s : State) (v : Nat) : List Nat :=
  (List.range 4).filter fun h =>
    ((List.range 32).any fun c => decide (840 < tget zeroI s.therm.croftT (32 * (4 * v + h) + c))) ||
      (List.range 12).any fun l => decide (760 < tileAt s v h l)

/-- Whether partition `k` holds one of a village's hamlets. -/
def holdsAny (s : State) (k v : Nat) (hs : List Nat) : Bool :=
  pentValid (s.pent k) && hs.any fun h => (pentMask (s.pent k)).getLsbD (4 * v + h)

/-- Row 1 or 2 of R445 for a portion: the village's power exceeds its stack cap. -/
def raisedByPower (s : State) (k v : Nat) : Bool :=
  let hs := hotHamlets s v
  decide (stackCap s v < tget zeroN s.therm.vpower v) &&
    (hs.isEmpty || holdsAny s k v hs || (List.range 8).any fun j => holdsAny s j v hs && thetaOf s j v == 63)

/-- Row 3: a croft or a tile exceeds its operating limit. -/
def raisedByLimit (s : State) (k v : Nat) : Bool := holdsAny s k v (overHamlets s v)

/-- Row 4: module input exceeds its cap, or the square its limit. -/
def raisedByAll (s : State) : Bool := decide (s.therm.mcap < s.therm.modIn) || decide (840 < squareT s)

/-- Conditions of R445 that hold for a portion. -/
def raises (s : State) (k v : Nat) : Nat :=
  if partInVillage s k v then (raisedByPower s k v).toNat + (raisedByLimit s k v).toNat + (raisedByAll s).toNat else 0

/-- θ of a portion becomes `n`. -/
def setTheta (s : State) (k v n : Nat) : State :=
  if thetaOf s k v = n then s
  else { s with therm := { s.therm with
    theta := tset zeroN s.therm.theta (4 * k + v) n, thChange := tset zeroB s.therm.thChange (4 * k + v) true } }

/-- The first place above its operating limit: village, kind and temperature, as THERMAL_LIMIT gives them. -/
def firstOver (s : State) : Option (Nat × Nat × Int) :=
  match (List.range 512).find? fun p => decide (840 < tget zeroI s.therm.croftT p) with
  | some p => some (villageOf p, 0, tget zeroI s.therm.croftT p)
  | none =>
    match (List.range 192).find? fun t => decide (760 < tget zeroI s.therm.tileT t) with
    | some t => some (t / 48, 1, tget zeroI s.therm.tileT t)
    | none => if 840 < squareT s then some (0, 2, squareT s) else none

/-- THERMAL_LIMIT, once per minute at most (R463). -/
def limitEvent (s : State) : State :=
  match firstOver s with
  | none => s
  | some (v, kind, t) =>
    if (s.dev.limitAt.map fun a => decide (s.now < a + 60000000000)).getD false then s
    else raise { s with dev := { s.dev with limitAt := some s.now } } 0x0304 0 [(16, 1, v), (17, 1, kind), (18, 2, temp16 t)]

/-- A portion's θ rises by 1 for each condition that holds, up to 63, on what the limiter saw in `r`. -/
def raisePortion (r s : State) (k v : Nat) : State :=
  let n := raises r k v
  if n = 0 then s
  else setTheta { s with therm := { s.therm with raised := tset zeroB s.therm.raised v true } } k v (min 63 (thetaOf r k v + n))

/-- LIMITER_RAISE: every 10 µs. -/
def execLimiterRaise (s : State) : Host.Outcome State Fault Refusal :=
  let s := notBefore s (s.therm.raiseAt + 10000)
  let s := { s with therm := { s.therm with raiseAt := s.now } }
  .next (limitEvent ((List.range 8).foldl (fun x k => (List.range 4).foldl (fun x v => raisePortion s x k v) x) s))

/-- Whether the limiter may lower a portion of a village. -/
def mayLower (s : State) (v : Nat) : Bool :=
  decide (100 * tget zeroN s.therm.vpower v ≤ 97 * stackCap s v) && decide (100 * s.therm.modIn ≤ 97 * s.therm.mcap) &&
    ((List.range 128).all fun i => decide (tget zeroI s.therm.croftT (128 * v + i) ≤ 832)) &&
    ((List.range 48).all fun i => decide (tget zeroI s.therm.tileT (48 * v + i) ≤ 752)) && !tget zeroB s.therm.raised v

/-- The portion with the highest θ, the lowest partition on a tie; none where every θ is 0. -/
def topPortion (s : State) (v : Nat) : Option Nat :=
  let ks := (List.range 8).filter fun k => partInVillage s k v
  let top := (ks.map fun k => thetaOf s k v).foldl max 0
  if top = 0 then none else ks.find? fun k => thetaOf s k v == top

/-- LIMITER_LOWER: every 1 ms, in one village. -/
def execLimiterLower (v : Fin 4) (s : State) : Host.Outcome State Fault Refusal :=
  let s := notBefore s (tget zeroN s.therm.lowerAt v + 1000000)
  let s := if mayLower s v then
      match topPortion s v with
      | some k => setTheta s k v (thetaOf s k v - 1)
      | none => s
    else s
  .next { s with therm := { s.therm with
    raised := tset zeroB s.therm.raised v false, lowerAt := tset zeroN s.therm.lowerAt v s.now } }

/-! ### Power caps (R427, R446, R447) -/

/-- Module cap during a cooling fault. -/
def faultCap : Nat := 200000

/-- Whether the firmware runs. -/
def fwRuns (s : State) : Bool :=
  s.boot.stage != .rom && s.boot.stage != .waitFw && s.boot.stage != .verify && s.boot.stage != .halt

/-- Highest croft temperature of a village. -/
def croftMax (s : State) (v : Nat) : Int :=
  ((List.range 128).map fun i => tget zeroI s.therm.croftT (128 * v + i)).foldl max (tget zeroI s.therm.croftT (128 * v))

/-- The 10 ms average power of a village: the mean of the samples since the last step. -/
def meanPower (s : State) (v : Nat) : Nat :=
  if s.therm.vN = 0 then tget zeroN s.therm.vpower v else tget zeroN s.therm.vSum v / s.therm.vN

/-- A thermal resistance in µK/W moves an eighth of the way to the one measured, of a rise in 0.125 K at a power in mW. -/
def smooth (r : Nat) (rise : Int) (p : Nat) : Nat := ((r : Int) + (rise * 125000000 / p - r) / 8).toNat

/-- The power, in mW, that keeps a target above the inlet by no more than `room`, in 0.125 K; unbounded through no resistance. -/
def capFor (room : Int) (r bound : Nat) : Nat := if r = 0 then bound else min bound (room.toNat * 125000000 / r)

/-- The step of one village. -/
def capVillage (s : State) (v : Nat) : State :=
  let p := meanPower s v
  let tin := s.therm.tin
  let j0 := tget rthj0 s.therm.rthj v
  let m0 := tget rthm0 s.therm.rthm v
  let j := if 40000 ≤ p then smooth j0 (croftMax s v - tin) p else j0
  let m := if 40000 ≤ p then smooth m0 (layer0Max s v - tin) p else m0
  let top := envStack s.dev.env
  let cap := capFor (736 - tin) m (capFor (800 - tin) j top)
  bumpIf (decide (cap < top)) { s with therm := { s.therm with
    vMean := tset zeroN s.therm.vMean v p
    rthj := tset rthj0 s.therm.rthj v j
    rthm := tset rthm0 s.therm.rthm v m
    vcap := tset vcap0 s.therm.vcap v cap } } (ctrVillage v 2) 1

/-- CAP_STEP: every 10 ms while the firmware runs. A new envelope takes effect here. -/
def execCapStep (s : State) : Host.Outcome State Fault Refusal :=
  .next (if fwRuns s then
      let s := notBefore s (s.therm.capAt + 10000000)
      let s := if s.dev.env = s.dev.envNext then s else genUp { s with dev := { s.dev with env := s.dev.envNext } }
      let s := (List.range 4).foldl capVillage s
      { s with therm := { s.therm with
        capAt := s.now, vSum := [], vN := 0, mcap := if s.therm.coolfault then faultCap else envModule s.dev.env } }
    else s)

/-- CAP_TIMEOUT: no cap from the firmware for 100 ms. -/
def execCapTimeout (s : State) : Host.Outcome State Fault Refusal :=
  let s := notBefore s (s.therm.capAt + 100000000)
  let m := envModule s.dev.env / 2
  .next { s with therm := { s.therm with
    vcap := (List.range 4).foldl (fun t v => tset vcap0 t v (envStack s.dev.env / 2)) s.therm.vcap
    mcap := if s.therm.coolfault then min faultCap m else m } }

/-! ### Cooling faults and the flow stop (R447 to R449) -/

/-- A cooling fault comes into force: the module is capped, and every request in execution ends with THERMAL. -/
def declareFault (s : State) (cause : Nat) : State :=
  if s.therm.coolfault then (endCommands s (inExecution s) stThermal 0).2
  else
    let s := bump { s with therm := { s.therm with coolfault := true, mcap := faultCap } } (ctrSquare 48) 1
    let s := updateWarm (endCommands s (inExecution s) stThermal 0).2
    raise s 0x0305 2 [(16, 1, cause), (18, 2, s.therm.flow), (20, 2, temp16 s.therm.tin)]

/-- When a condition of R447 began, and its cause: the earlier of the two, flow on a tie. -/
def badSince (s : State) : Option (Nat × Nat) :=
  match s.therm.badFlowAt, s.therm.badInletAt with
  | some a, some b => some (if b < a then (b, 1) else (a, 0))
  | some a, none => some (a, 0)
  | none, some b => some (b, 1)
  | none, none => none

/-- COOLING_FAULT: a condition has held for 1 s. -/
def execCoolingFault (s : State) : Host.Outcome State Fault Refusal :=
  .next (match s.therm.coolfault, badSince s with
  | false, some (a, cause) => declareFault (notBefore s (a + 1000000000)) cause
  | _, _ => s)

/-- COOLING_RESTORED: flow and inlet have been in range for 10 s. -/
def execCoolingRestored (s : State) : Host.Outcome State Fault Refusal :=
  .next (match s.therm.goodAt with
  | some a =>
    if s.therm.coolfault = true ∧ s.therm.flowstop = false then
      let s := notBefore s (a + 10000000000)
      let s := updateWarm { s with therm := { s.therm with coolfault := false, mcap := envModule s.dev.env } }
      raise s 0x0307 0 [(18, 2, s.therm.flow)]
    else s
  | none => s)

/-- FLOW_STOP: five consecutive flow samples below 10 % of nominal. -/
def execFlowStop (s : State) : Host.Outcome State Fault Refusal :=
  .next (if 5 ≤ s.therm.lowFlow ∧ s.therm.flowstop = false then
      let s := bump { s with therm := { s.therm with flowstop := true } } (ctrSquare 49) 1
      let s := stopHeaters s
      declareFault (raise s 0x0306 2 [(18, 2, s.therm.flow)]) 0
    else s)

/-- FLOW_STOP_END: flow for 10 s, and every temperature 5 K below its limit. -/
def execFlowStopEnd (s : State) : Host.Outcome State Fault Refusal :=
  .next (match s.therm.flowstop, s.therm.flowOk, s.therm.coolSince with
  | true, some a, some b =>
    let s := notBefore s (max a b + 10000000000)
    { s with therm := { s.therm with flowstop := false } }
  | _, _, _ => s)

/-! ### The trip (R450, R451) -/

/-- The firmware's trip conditions: a MODELLED tile at or above 100 °C, or a croft without sensors whose Tm is at or above the croft trip. -/
def firmwareTrip (s : State) : Bool :=
  ((List.range 192).any fun t => tget zeroB s.therm.modelled t && decide (800 ≤ tget zeroI s.therm.tileT t)) ||
    (List.range 512).any fun p => suspected s (diodeOf p) && suspected s (ringOf p) && decide (croftTrip s ≤ modelTemp s p)

/-- THERMTRIP: every rail is turned off, and THERMTRIP# stays until the input is removed. -/
def execThermtrip (s : State) : Host.Outcome State Fault Refusal :=
  .next (if s.therm.tripHit || (fwRuns s && firmwareTrip s) then
      let s := powerOff s
      { s with boot := { s.boot with inRange := true, thermtrip := true } }
    else s)

/-! ### The rota (R436, R452, R453) -/

/-- Whether a croft's ring oscillator is adjusted: both sensors sound, θ unchanged, Pc within 0.1 W, and the readings within 3 K. -/
def calibrates (s : State) (p : Nat) : Bool :=
  let diff := (reading s (diodeOf p) - reading s (ringOf p)).natAbs
  !suspected s (diodeOf p) && !suspected s (ringOf p) &&
    !(match partOf s p with
      | some k => tget zeroB s.therm.thChange (4 * k + villageOf p)
      | none => false) &&
    decide (tget zeroN s.therm.pcMax p - tget zeroN s.therm.pcMin p < 100) && decide (1 ≤ diff ∧ diff ≤ 24)

/-- Cross-calibration of one croft: its offset moves by 0.0625 K toward the diode. -/
def crossCal (s : State) (p : Nat) : State :=
  if calibrates s p then
    let d : Int := if reading s (ringOf p) < reading s (diodeOf p) then 1 else -1
    bump { s with therm := { s.therm with roOff := tset zeroI s.therm.roOff p (tget zeroI s.therm.roOff p + d) } } (ctrSquare 44) 1
  else s

/-- One croft at a period boundary: its heater's cycles are counted, and a rotation falls due. -/
def rotaCroft (s : State) (p : Nat) : State :=
  modCroft (countHeat s p) p fun x => { x with pendRot := x.pendRot + 1 }

/-- ROTA_PERIOD: every 50 ms. -/
def execRotaPeriod (s : State) : Host.Outcome State Fault Refusal :=
  let s := notBefore s ((s.therm.rota + 1) * 50000000)
  let s := (List.range 512).foldl (fun s p => crossCal (rotaCroft s p) p) s
  let s := updateWarm { s with therm := { s.therm with
    pcMin := s.therm.pc, pcMax := s.therm.pc, thChange := [], rota := s.therm.rota + 1 } }
  .next ((List.range 16).foldl (dutyOf s) (stopHeaters s))

/-! ### Thermal cycles and life (R454, R455, R460) -/

/-- A half-cycle of amplitude `a` is counted in its bin. -/
def countHalf (x : Life) (a : Int) : Life :=
  if a < 80 then x
  else if a < 160 then { x with hc0 := x.hc0 + 1 }
  else if a < 240 then { x with hc1 := x.hc1 + 1 }
  else if a < 320 then { x with hc2 := x.hc2 + 1 }
  else { x with hc3 := x.hc3 + 1 }

/-- One sample of t. -/
def lifeStep (x : Life) (t : Int) : Life :=
  if x.up then
    let c := max x.cand t
    if 40 ≤ c - t then { countHalf x (c - x.ext) with ext := c, cand := t, up := false } else { x with cand := c }
  else
    let c := min x.cand t
    if 40 ≤ t - c then { countHalf x (x.ext - c) with ext := c, cand := t, up := true } else { x with cand := c }

/-- AIRNEED in CFM, rounded up, from the module input averaged over the second. -/
def airNeed (s : State) : Nat :=
  let e := s.dev.env
  let n := if s.therm.modN = 0 then 1 else s.therm.modN
  let sum := if s.therm.modN = 0 then s.therm.modIn else s.therm.modSum
  max (cdiv (envAir e * 4) 10) (cdiv (envAir e * sum) (n * envModule e))

/-- The sample of every village; the powered-on seconds advance. -/
def sampleLife (s : State) (w : LifeWord) : LifeWord :=
  ⟨(List.range 4).foldl (fun t v => tset life0 t v (lifeStep (tget life0 t v) (layer0Max s v))) w.v, w.secs + 1⟩

/-- THERMAL_CYCLE_SAMPLE: once per second. -/
def execThermalCycleSample (s : State) : Host.Outcome State Fault Refusal :=
  let s := notBefore s (s.therm.cycAt + 1000000000)
  let s := voteLife s
  let s := { s with
    therm := { s.therm with
      life := Tri.same (sampleLife s s.therm.life.use)
      cycAt := s.now
      tHist := ((List.range 4).map fun v => (v, s.now, layer0Max s v)) ++ s.therm.tHist.filter fun x => s.now < x.2.1 + 900000000000
      modSum := 0
      modN := 0 }
    dev := { s.dev with airneed := BitVec.ofNat 16 (airNeed s) } }
  .next (updateWarm s)

/-- LIFE_COUNTER_WRITE: every 10 min, all three EEPROM copies. -/
def execLifeCounterWrite (s : State) : Host.Outcome State Fault Refusal :=
  let s := notBefore s (s.therm.lifeAt + 600000000000)
  let s := eepromWas (voteLife s) (.life s.eeprom.life.use)
  .next { s with
    therm := { s.therm with lifeAt := s.now }
    eeprom := { s.eeprom with life := Tri.same s.therm.life.use } }

end Sys2Proof.Machine
end

