-- ==== Sys2Proof/Machine/Time.lean ====
section
/-! DEFINITION. Device time and PPS (R482, R483). -/

namespace Sys2Proof.Machine

/-- The nearest multiple of 10⁹; a time halfway between two takes the later. -/
def nearestSecond (t : Nat) : Nat := (t + 500000000) / 1000000000

/-- The trim, in 1/8 ns per second, within ±200,000 ns per second (R482). -/
def clampTrim (t : Int) : Int := max (-1600000) (min 1600000 t)

/-- Three flagged edges, newest first, whose intervals lie within 1 s ± 50 µs. -/
def consistent : List Nat → Bool
  | c :: b :: a :: _ =>
    let near := fun x : Int => decide ((x - 1000000000).natAbs ≤ 50000)
    near ((c : Int) - b) && near ((b : Int) - a)
  | _ => false

/-- The smallest multiple of 10⁹ not below a time. -/
def nextSecond (t : Nat) : Nat := (t + 999999999) / 1000000000 * 1000000000

/-- An accepted edge within 50 µs of a second: device time snaps to it, and the trim takes an eighth of the error. -/
def ppsSnap (s : State) (e : Int) : State :=
  let d := s.dev
  bump { s with dev := { d with
    time := ((d.time : Int) - e).toNat, trim := clampTrim (d.trim - e), locked := true, flagged := false, ppsRun := [] } }
    (ctrSquare 56) 1

/-- An accepted edge further off: flagged; the third consistent one re-seeds device time. -/
def ppsFlag (s : State) : State :=
  let d := s.dev
  let l := (d.time :: d.ppsRun).take 3
  let s := bump { s with dev := { d with flagged := true, ppsRun := l } } (ctrSquare 57) 1
  if consistent l then
    raise { s with dev := { s.dev with time := nextSecond d.time, locked := true, ppsRun := [] } } 0x0404 0 [(16, 8, d.time)]
  else s

/-- Whether an edge comes less than 500 ms after the last accepted one. -/
def tooSoon (s : State) : Bool := (s.dev.ppsAt.map fun a => decide (s.now < a + 500000000)).getD false

/-- PPS_EDGE. -/
def execPpsEdge (width : Nat) (s : State) : Host.Outcome State Fault Refusal :=
  .next (if width < 1000 then bump s (ctrSquare 58) 1
    else if tooSoon s then s
    else
      let t := s.dev.time
      let e : Int := (t : Int) - nearestSecond t * 1000000000
      let s := { s with dev := { s.dev with lastpps := t, ppsAt := some s.now } }
      if e.natAbs ≤ 50000 then ppsSnap s e else ppsFlag s)

/-- PPS_LOST: LOCKED, and no accepted edge for 3 s. The trim is held. -/
def execPpsLost (s : State) : Host.Outcome State Fault Refusal :=
  .next (match s.dev.locked, s.dev.ppsAt with
  | true, some a =>
    let s := notBefore s (a + 3000000000)
    raise { s with dev := { s.dev with locked := false } } 0x0405 0 [(16, 8, s.dev.lastpps)]
  | _, _ => s)

end Sys2Proof.Machine
end

