-- ==== Sys2Proof/Machine/Dispatch.lean ====
section
/-! DEFINITION. Which meaning each row of spec/opcode_table.json has: one arm per constructor, each one call of its meaning. -/

namespace Sys2Proof.Machine

def exec (i : Instr) (s : State) : Host.Outcome State Fault Refusal :=
  match i with
  | .nop c w => Sys2Proof.Machine.execNop c w s
  | .endStream c rsv => Sys2Proof.Machine.execEndStream c rsv s
  | .scalarAdd c f => Sys2Proof.Machine.execScalarAdd c f s
  | .scalarSub c f => Sys2Proof.Machine.execScalarSub c f s
  | .scalarAnd c f => Sys2Proof.Machine.execScalarAnd c f s
  | .scalarOr c f => Sys2Proof.Machine.execScalarOr c f s
  | .scalarXor c f => Sys2Proof.Machine.execScalarXor c f s
  | .shl c f => Sys2Proof.Machine.execShl c f s
  | .shr c f => Sys2Proof.Machine.execShr c f s
  | .scalarMul c f => Sys2Proof.Machine.execScalarMul c f s
  | .loadImmediate c f => Sys2Proof.Machine.execLoadImmediate c f s
  | .movFromSpecial c f => Sys2Proof.Machine.execMovFromSpecial c f s
  | .branchAlways c f => Sys2Proof.Machine.execBranchAlways c f s
  | .branchEqual c f => Sys2Proof.Machine.execBranchEqual c f s
  | .branchNotEqual c f => Sys2Proof.Machine.execBranchNotEqual c f s
  | .branchLess c f => Sys2Proof.Machine.execBranchLess c f s
  | .branchGreaterEqual c f => Sys2Proof.Machine.execBranchGreaterEqual c f s
  | .decrementAndBranch c f => Sys2Proof.Machine.execDecrementAndBranch c f s
  | .dmaRead c f => Sys2Proof.Machine.execDmaRead c f s
  | .dmaWrite c f => Sys2Proof.Machine.execDmaWrite c f s
  | .atomicAdd c f => Sys2Proof.Machine.execAtomicAdd c f s
  | .atomicMin c f => Sys2Proof.Machine.execAtomicMin c f s
  | .atomicMax c f => Sys2Proof.Machine.execAtomicMax c f s
  | .cas c f => Sys2Proof.Machine.execCas c f s
  | .swap c f => Sys2Proof.Machine.execSwap c f s
  | .atomicAnd c f => Sys2Proof.Machine.execAtomicAnd c f s
  | .atomicOr c f => Sys2Proof.Machine.execAtomicOr c f s
  | .atomicXor c f => Sys2Proof.Machine.execAtomicXor c f s
  | .setFlags c f => Sys2Proof.Machine.execSetFlags c f s
  | .clearFlags c f => Sys2Proof.Machine.execClearFlags c f s
  | .fwait c f => Sys2Proof.Machine.execFwait c f s
  | .bar c f => Sys2Proof.Machine.execBar c f s
  | .ring c f => Sys2Proof.Machine.execRing c f s
  | .bwait c f => Sys2Proof.Machine.execBwait c f s
  | .ssig c f => Sys2Proof.Machine.execSsig c f s
  | .swait c f => Sys2Proof.Machine.execSwait c f s
  | .allgather c f => Sys2Proof.Machine.execAllgather c f s
  | .allreduce c f => Sys2Proof.Machine.execAllreduce c f s
  | .mmaW c f => Sys2Proof.Machine.execMmaW c f s
  | .mmaA c f => Sys2Proof.Machine.execMmaA c f s
  | .mmaO c f => Sys2Proof.Machine.execMmaO c f s
  | .vecAdd c f => Sys2Proof.Machine.execVecAdd c f s
  | .vecMul c f => Sys2Proof.Machine.execVecMul c f s
  | .fma c f => Sys2Proof.Machine.execFma c f s
  | .vecMax c f => Sys2Proof.Machine.execVecMax c f s
  | .vecMin c f => Sys2Proof.Machine.execVecMin c f s
  | .relu c f => Sys2Proof.Machine.execRelu c f s
  | .cvt c f => Sys2Proof.Machine.execCvt c f s
  | .scale c f => Sys2Proof.Machine.execScale c f s
  | .rsum c f => Sys2Proof.Machine.execRsum c f s
  | .rmax c f => Sys2Proof.Machine.execRmax c f s
  | .exp c f => Sys2Proof.Machine.execExp c f s
  | .rcp c f => Sys2Proof.Machine.execRcp c f s
  | .gleanSum c f => Sys2Proof.Machine.execGleanSum c f s
  | .gleanMean c f => Sys2Proof.Machine.execGleanMean c f s
  | .gleanGather c f => Sys2Proof.Machine.execGleanGather c f s
  | .sieveSelect c f => Sys2Proof.Machine.execSieveSelect c f s
  | .sieveRoute c f => Sys2Proof.Machine.execSieveRoute c f s
  | .interlockIssue c => Sys2Proof.Machine.execInterlockIssue c s
  | .laneBankLoad p => Sys2Proof.Machine.execLaneBankLoad p s
  | .issueAfterLoad p => Sys2Proof.Machine.execIssueAfterLoad p s
  | .accumulatorDrain p => Sys2Proof.Machine.execAccumulatorDrain p s
  | .instructionRetire p id => Sys2Proof.Machine.execInstructionRetire p id s
  | .clockStep p => Sys2Proof.Machine.execClockStep p s
  | .droopStretch p supply cycles => Sys2Proof.Machine.execDroopStretch p supply cycles s
  | .sieveBufferFree c => Sys2Proof.Machine.execSieveBufferFree c s
  | .sieveRoundStart part e => Sys2Proof.Machine.execSieveRoundStart part e s
  | .sieveRoundDone part e => Sys2Proof.Machine.execSieveRoundDone part e s
  | .sieveRoundTimeout part e => Sys2Proof.Machine.execSieveRoundTimeout part e s
  | .gleanCommandReceive c id => Sys2Proof.Machine.execGleanCommandReceive c id s
  | .gleanSlotFree c id => Sys2Proof.Machine.execGleanSlotFree c id s
  | .chainValueArrive p k => Sys2Proof.Machine.execChainValueArrive p k s
  | .gleanerYield p layer u => Sys2Proof.Machine.execGleanerYield p layer u s
  | .refreshDue p layer bank => Sys2Proof.Machine.execRefreshDue p layer bank s
  | .regulatorRelease part r => Sys2Proof.Machine.execRegulatorRelease part r s
  | .sliceRead p off len src flips again => Sys2Proof.Machine.execSliceRead p off len src flips again s
  | .sliceWrite p off data poison src => Sys2Proof.Machine.execSliceWrite p off data poison src s
  | .writeCombiningDrain p line => Sys2Proof.Machine.execWriteCombiningDrain p line s
  | .readModifyWrite p word => Sys2Proof.Machine.execReadModifyWrite p word s
  | .squareCacheAtomic c addr op ty operand newVal => Sys2Proof.Machine.execSquareCacheAtomic c addr op ty operand newVal s
  | .deferredContribution c addr ty operand => Sys2Proof.Machine.execDeferredContribution c addr ty operand s
  | .imbalanceWindow p => Sys2Proof.Machine.execImbalanceWindow p s
  | .queueEntryFree p u => Sys2Proof.Machine.execQueueEntryFree p u s
  | .errorReturn p u cmd word again => Sys2Proof.Machine.execErrorReturn p u cmd word again s
  | .linkTestDone p u failed => Sys2Proof.Machine.execLinkTestDone p u failed s
  | .recentringPass p u eyes => Sys2Proof.Machine.execRecentringPass p u eyes s
  | .idleBeatInsert p u beats => Sys2Proof.Machine.execIdleBeatInsert p u beats s
  | .refreshNormalReturn t => Sys2Proof.Machine.execRefreshNormalReturn t s
  | .d2dFrame v dir g sn frame => Sys2Proof.Machine.execD2dFrame v dir g sn frame s
  | .d2dNegativeAck v dir g sn => Sys2Proof.Machine.execD2dNegativeAck v dir g sn s
  | .groupRetrainDone v dir g laneFailed => Sys2Proof.Machine.execGroupRetrainDone v dir g laneFailed s
  | .d2dRecentring v dir g pass => Sys2Proof.Machine.execD2dRecentring v dir g pass s
  | .portTrainingExchange port rot mir => Sys2Proof.Machine.execPortTrainingExchange port rot mir s
  | .waitTimeout c => Sys2Proof.Machine.execWaitTimeout c s
  | .barrierRelease part e ch => Sys2Proof.Machine.execBarrierRelease part e ch s
  | .barrierTimeout part e ch => Sys2Proof.Machine.execBarrierTimeout part e ch s
  | .collectiveStart part e => Sys2Proof.Machine.execCollectiveStart part e s
  | .collectiveDone part e => Sys2Proof.Machine.execCollectiveDone part e s
  | .reeveWatchdog r => Sys2Proof.Machine.execReeveWatchdog r s
  | .reeveSelftestDone r passed => Sys2Proof.Machine.execReeveSelftestDone r passed s
  | .lockstepArm cid => Sys2Proof.Machine.execLockstepArm cid s
  | .lockstepDisarm cid => Sys2Proof.Machine.execLockstepDisarm cid s
  | .armTimeout => Sys2Proof.Machine.execArmTimeout s
  | .twinArm level => Sys2Proof.Machine.execTwinArm level s
  | .twinCmd k opcode => Sys2Proof.Machine.execTwinCmd k opcode s
  | .hashset k point hs => Sys2Proof.Machine.execHashset k point hs s
  | .crec k fields => Sys2Proof.Machine.execCrec k fields s
  | .twinFail k status => Sys2Proof.Machine.execTwinFail k status s
  | .probe k lc kind lo hi => Sys2Proof.Machine.execProbe k lc kind lo hi s
  | .terms k ts => Sys2Proof.Machine.execTerms k ts s
  | .twinDisarm => Sys2Proof.Machine.execTwinDisarm s
  | .twinMessageTimeout => Sys2Proof.Machine.execTwinMessageTimeout s
  | .doorbell q w => Sys2Proof.Machine.execDoorbell q w s
  | .queueEnable q => Sys2Proof.Machine.execQueueEnable q s
  | .queueDisable q => Sys2Proof.Machine.execQueueDisable q s
  | .commandFetch q es => Sys2Proof.Machine.execCommandFetch q es s
  | .run cid => Sys2Proof.Machine.execRun cid s
  | .runChained cid => Sys2Proof.Machine.execRunChained cid s
  | .loadTable cid => Sys2Proof.Machine.execLoadTable cid s
  | .memFill cid => Sys2Proof.Machine.execMemFill cid s
  | .memCopy cid => Sys2Proof.Machine.execMemCopy cid s
  | .sessionOpen cid => Sys2Proof.Machine.execSessionOpen cid s
  | .sessionAppend cid => Sys2Proof.Machine.execSessionAppend cid s
  | .sessionClose cid => Sys2Proof.Machine.execSessionClose cid s
  | .fenceQueue cid => Sys2Proof.Machine.execFenceQueue cid s
  | .fencePartition cid => Sys2Proof.Machine.execFencePartition cid s
  | .abortQueue cid => Sys2Proof.Machine.execAbortQueue cid s
  | .abortPartition cid => Sys2Proof.Machine.execAbortPartition cid s
  | .abortSession cid => Sys2Proof.Machine.execAbortSession cid s
  | .setPartition cid => Sys2Proof.Machine.execSetPartition cid s
  | .setEnvelope cid => Sys2Proof.Machine.execSetEnvelope cid s
  | .queryFloorplan cid => Sys2Proof.Machine.execQueryFloorplan cid s
  | .readTelemetry cid => Sys2Proof.Machine.execReadTelemetry cid s
  | .timeSyncSet cid => Sys2Proof.Machine.execTimeSyncSet cid s
  | .timeSyncStep cid => Sys2Proof.Machine.execTimeSyncStep cid s
  | .timeSyncRead cid => Sys2Proof.Machine.execTimeSyncRead cid s
  | .fwBegin src size => Sys2Proof.Machine.execFwBegin src size s
  | .fwChunk src addr off len data crc => Sys2Proof.Machine.execFwChunk src addr off len data crc s
  | .fwCommit src => Sys2Proof.Machine.execFwCommit src s
  | .attest cid => Sys2Proof.Machine.execAttest cid s
  | .requestAdmit part => Sys2Proof.Machine.execRequestAdmit part s
  | .sessionWaitEnd part e => Sys2Proof.Machine.execSessionWaitEnd part e s
  | .croftStagesStart part e => Sys2Proof.Machine.execCroftStagesStart part e s
  | .requestComplete part e => Sys2Proof.Machine.execRequestComplete part e s
  | .timeLimit part e => Sys2Proof.Machine.execTimeLimit part e s
  | .coalesceTimeout q => Sys2Proof.Machine.execCoalesceTimeout q s
  | .abortBoundExceeded cid => Sys2Proof.Machine.execAbortBoundExceeded cid s
  | .functionLevelReset => Sys2Proof.Machine.execFunctionLevelReset s
  | .bucketLeak => Sys2Proof.Machine.execBucketLeak s
  | .trackingExpire p loc => Sys2Proof.Machine.execTrackingExpire p loc s
  | .sweeperRowRead p => Sys2Proof.Machine.execSweeperRowRead p s
  | .sweepLate p minutes => Sys2Proof.Machine.execSweepLate p minutes s
  | .rowSpare p layer bank row => Sys2Proof.Machine.execRowSpare p layer bank row s
  | .coldStart => Sys2Proof.Machine.execColdStart s
  | .warmReset => Sys2Proof.Machine.execWarmReset s
  | .perstRelease => Sys2Proof.Machine.execPerstRelease s
  | .romDone r => Sys2Proof.Machine.execRomDone r s
  | .fwClaimTimeout => Sys2Proof.Machine.execFwClaimTimeout s
  | .trainDone faults => Sys2Proof.Machine.execTrainDone faults s
  | .selftestDone faults => Sys2Proof.Machine.execSelftestDone faults s
  | .marchDone rows => Sys2Proof.Machine.execMarchDone rows s
  | .retentionStep k temp rows => Sys2Proof.Machine.execRetentionStep k temp rows s
  | .retentionSettleTimeout k temp v h => Sys2Proof.Machine.execRetentionSettleTimeout k temp v h s
  | .fillDone => Sys2Proof.Machine.execFillDone s
  | .scrubDone => Sys2Proof.Machine.execScrubDone s
  | .floorplanDone => Sys2Proof.Machine.execFloorplanDone s
  | .defectMapEepromWrite => Sys2Proof.Machine.execDefectMapEepromWrite s
  | .croftSelftest p lanes otherFault => Sys2Proof.Machine.execCroftSelftest p lanes otherFault s
  | .selftestOverdue p => Sys2Proof.Machine.execSelftestOverdue p s
  | .sequencerTimeout p => Sys2Proof.Machine.execSequencerTimeout p s
  | .migrationPhase1Done => Sys2Proof.Machine.execMigrationPhase1Done s
  | .rowExchange => Sys2Proof.Machine.execRowExchange s
  | .migrationDone => Sys2Proof.Machine.execMigrationDone s
  | .dramTimingTrim p u => Sys2Proof.Machine.execDramTimingTrim p u s
  | .subchannelRetrain p u => Sys2Proof.Machine.execSubchannelRetrain p u s
  | .droopTuning p up => Sys2Proof.Machine.execDroopTuning p up s
  | .sensorSample t => Sys2Proof.Machine.execSensorSample t s
  | .sensorSilence d => Sys2Proof.Machine.execSensorSilence d s
  | .sensorDisagree p => Sys2Proof.Machine.execSensorDisagree p s
  | .tileSensorDisagree t q => Sys2Proof.Machine.execTileSensorDisagree t q s
  | .canaryCheck t q f => Sys2Proof.Machine.execCanaryCheck t q f s
  | .limiterRaise => Sys2Proof.Machine.execLimiterRaise s
  | .limiterLower v => Sys2Proof.Machine.execLimiterLower v s
  | .capStep => Sys2Proof.Machine.execCapStep s
  | .capTimeout => Sys2Proof.Machine.execCapTimeout s
  | .coolingFault => Sys2Proof.Machine.execCoolingFault s
  | .coolingRestored => Sys2Proof.Machine.execCoolingRestored s
  | .flowStop => Sys2Proof.Machine.execFlowStop s
  | .flowStopEnd => Sys2Proof.Machine.execFlowStopEnd s
  | .thermtrip => Sys2Proof.Machine.execThermtrip s
  | .rotaPeriod => Sys2Proof.Machine.execRotaPeriod s
  | .thermalCycleSample => Sys2Proof.Machine.execThermalCycleSample s
  | .lifeCounterWrite => Sys2Proof.Machine.execLifeCounterWrite s
  | .linkDown => Sys2Proof.Machine.execLinkDown s
  | .linkDownTimeout => Sys2Proof.Machine.execLinkDownTimeout s
  | .linkUp => Sys2Proof.Machine.execLinkUp s
  | .hotReset => Sys2Proof.Machine.execHotReset s
  | .hdmDecoderCommit d => Sys2Proof.Machine.execHdmDecoderCommit d s
  | .cxlMemRead hpa len => Sys2Proof.Machine.execCxlMemRead hpa len s
  | .cxlMemWrite hpa data poison => Sys2Proof.Machine.execCxlMemWrite hpa data poison s
  | .birsp line => Sys2Proof.Machine.execBirsp line s
  | .hostSnoop line => Sys2Proof.Machine.execHostSnoop line s
  | .hostAccessCompletion id ok data bad => Sys2Proof.Machine.execHostAccessCompletion id ok data bad s
  | .hostAccessTimeout id => Sys2Proof.Machine.execHostAccessTimeout id s
  | .uioRequest addr write len data poison => Sys2Proof.Machine.execUioRequest addr write len data poison s
  | .cxlIdeKm keySet => Sys2Proof.Machine.execCxlIdeKm keySet s
  | .ideFail keySet sent => Sys2Proof.Machine.execIdeFail keySet sent s
  | .entdaa addr => Sys2Proof.Machine.execEntdaa addr s
  | .setdasa addr => Sys2Proof.Machine.execSetdasa addr s
  | .rstdaa => Sys2Proof.Machine.execRstdaa s
  | .enec bits => Sys2Proof.Machine.execEnec bits s
  | .disec bits => Sys2Proof.Machine.execDisec bits s
  | .getpid => Sys2Proof.Machine.execGetpid s
  | .getbcr => Sys2Proof.Machine.execGetbcr s
  | .getdcr => Sys2Proof.Machine.execGetdcr s
  | .getstatus => Sys2Proof.Machine.execGetstatus s
  | .getmwl => Sys2Proof.Machine.execGetmwl s
  | .setmwl n => Sys2Proof.Machine.execSetmwl n s
  | .getmrl => Sys2Proof.Machine.execGetmrl s
  | .setmrl n => Sys2Proof.Machine.execSetmrl n s
  | .regSel off => Sys2Proof.Machine.execRegSel off s
  | .alertAck => Sys2Proof.Machine.execAlertAck s
  | .i3cPrivateRead => Sys2Proof.Machine.execI3cPrivateRead s
  | .hotJoin => Sys2Proof.Machine.execHotJoin s
  | .ibiRetry nacked => Sys2Proof.Machine.execIbiRetry nacked s
  | .ppsEdge width => Sys2Proof.Machine.execPpsEdge width s
  | .ppsLost => Sys2Proof.Machine.execPpsLost s
  | .twinLinkTrain => Sys2Proof.Machine.execTwinLinkTrain s
  | .twinLinkDown lanes => Sys2Proof.Machine.execTwinLinkDown lanes s
  | .inputOutOfRange => Sys2Proof.Machine.execInputOutOfRange s
  | .overvoltage mv => Sys2Proof.Machine.execOvervoltage mv s
  | .inputLow mv => Sys2Proof.Machine.execInputLow mv s
  | .errstatusClear w => Sys2Proof.Machine.execErrstatusClear w s
  | .devstatusClear w => Sys2Proof.Machine.execDevstatusClear w s
  | .eventRingEnable => Sys2Proof.Machine.execEventRingEnable s
  | .evheadWrite w => Sys2Proof.Machine.execEvheadWrite w s
  | .registerWrite off w => Sys2Proof.Machine.execRegisterWrite off w s
  | .cxlMailboxKcp m data => Sys2Proof.Machine.execCxlMailboxKcp m data s
  | .attestTreeBuilt => Sys2Proof.Machine.execAttestTreeBuilt s
  | .railsGood => Sys2Proof.Machine.execRailsGood s
  | .verifyDone => Sys2Proof.Machine.execVerifyDone s
  | .linkTrained width rate => Sys2Proof.Machine.execLinkTrained width rate s
  | .hdmDecoderUncommit d => Sys2Proof.Machine.execHdmDecoderUncommit d s
  | .epochApplyDone part e => Sys2Proof.Machine.execEpochApplyDone part e s
  | .reeveCommandDone cid => Sys2Proof.Machine.execReeveCommandDone cid s
  | .bellLaneFailure v dir => Sys2Proof.Machine.execBellLaneFailure v dir s
  | .clockPairFailure p u => Sys2Proof.Machine.execClockPairFailure p u s
  | .twinMessageCrcFail n => Sys2Proof.Machine.execTwinMessageCrcFail n s

end Sys2Proof.Machine
end

