-- ==== Sys2Proof/Safety.lean ====
section
/-! DEFINITION. The terms in which claims are stated: what a step must keep, and the states in which a context's next instruction passes. -/

namespace Sys2Proof.Machine

/-! ### What every step keeps -/

/-- The canonical form of the code words of the banks. -/
def Memory.wf (m : List Host.Cell) : Bool := tableWf memDefault m

/-- The canonical form of the local stores. -/
def LocalStore.wf (m : List Host.Cell) : Bool := tableWf zero8 m

/-- The stores are in canonical form: equal contents are equal data. -/
def StoresWf (s : State) : Prop := Memory.wf s.mem = true ∧ LocalStore.wf s.ls = true

/-- Fuses are burned and never mended: a step burns bits of TREEFUSE at most (R501). -/
def FusesOnlyBurn (s t : State) : Prop :=
  t.fuses.defects = s.fuses.defects ∧ t.fuses.devid = s.fuses.devid ∧ t.fuses.roothash = s.fuses.roothash ∧
    ∀ i, s.fuses.treefuse.getLsbD i = true → t.fuses.treefuse.getLsbD i = true

/-! ### Croft instructions -/

/-- A context that can issue an instruction, and whose stream goes on after it. -/
def Ready (s : State) (c : CtxId) : Prop := canIssue s c = true ∧ (s.ctx c).pos + 1 < (s.ctx c).count

/-- A context whose position moves to `n`: at GEND a context in its gather stage waits (R328). -/
def Ctx.at (x : Ctx) (n now : Nat) : Ctx :=
  if x.inCroft = false ∧ x.gend ≤ n then { x with pos := n, wait := .gend, since := now } else { x with pos := n }

/-- A context after its instruction has retired and its position has moved to `n`. -/
def Ctx.passed (x : Ctx) (n now : Nat) : Ctx := { x with retired := x.retired + 1 }.at n now

/-- Every check of an instruction passes, and nothing it needs is held (R49, R51, R325). -/
def Passes (s : State) (c : CtxId) (pl : Plan) : Prop :=
  canIssue s c = true ∧ lowest (pl.causes ++ windowCauses s c pl) = none ∧
    mustWait s c pl (relocated s c pl.reads) (relocated s c pl.writes) = false

/-! ### Commands -/

/-- A partition command other than RUN that begins now (R329): its partition's entry reads without an error, and the partition has no counts to
clear, no village held warm, and no pairing; a SESSION_APPEND has not waited, and its slot and that of a SESSION_CLOSE are ready (R159, R167). -/
def Begins (s : State) (c : Cmd) (op : Nat) : Prop :=
  (tget ptabReset s.ptab (pktPart c.pkt)).clean = true ∧ c.waits = false ∧ appendWaits s c = false ∧
  waitingCmd s c.id op = some c ∧ mayBegin s c = true ∧ pentValid (s.pent (pktPart c.pkt)) = true ∧
    (s.part (pktPart c.pkt)).clearDue = false ∧ s.twin.armed ≠ some (pktPart c.pkt) ∧
    ∀ v, v < 4 → tget zeroB s.therm.warmhold v = false

/-- The machine once a command has begun: its time is noted and it is counted for its partition. -/
def begun (s : State) (c : Cmd) : State :=
  bump (modCmd s c.id fun d => { d with began := s.now }) (ctrPart (pktPart c.pkt) 10) 1

/-- No error in the critical words that a floor-plan record is made of (R385, R405). -/
def PlanClean (s : State) : Prop :=
  s.floor.comp.clean = true ∧ s.floor.defects.clean = true ∧ s.floor.rows.clean = true ∧ ∀ k, k < 8 → (tget ptabReset s.ptab k).clean = true

end Sys2Proof.Machine
end

