-- ==== Sys2Proof/Certificates/Slice0/Obligations.lean ====
section
/-! DEFINITION. The statements for the provers. Each is proved of every state; a clause that rests on a choice of the model names its log
entry. -/

open Sys2Proof Sys2Proof.Machine

/-- A step takes the command at the front of the queue and executes it on the machine with the queue's rest. -/
def Obligations.StepRunsFront : Prop :=
  ∀ (s : State) (c : Instr) (rest : List Instr), step { s with pending := c :: rest } = exec c { s with pending := rest }

/-- On an empty queue the block idles: one nanosecond passes (log entry 7, the model's choice), and nothing but the clocks and the
counters of nanoseconds changes. R7, R482: a step that waits for a time moves the clock to it, and device time follows; while no trim is
in force they move together. Nothing but the clocks and the counters of nanoseconds changes. -/
def Obligations.TimePasses : Prop :=
  (∀ s : State, s.pending = [] → ∃ t, step s = .next t ∧ t.now = s.now + 1 ∧ { t with now := s.now, dev := s.dev, ctr := s.ctr } = s) ∧
  (∀ (s : State) (n : Nat), (notBefore s n).now = max s.now n ∧
    { notBefore s n with now := s.now, dev := s.dev, ctr := s.ctr } = s ∧
    { (notBefore s n).dev with time := s.dev.time, trimAcc := s.dev.trimAcc } = s.dev ∧
    (s.dev.timeOn = false → (notBefore s n).dev = s.dev) ∧
    (s.dev.timeOn = true → s.dev.trim = 0 → 0 ≤ s.dev.trimAcc → s.dev.trimAcc < 8000000000 →
      (notBefore s n).dev.time = s.dev.time + (n - s.now)))

/-- What reset leaves (R7, R122, R156, R213, R308, R392 to R394, R407, R444, R446): the queue is empty, the ROM stage is reached with
device time at 0, no lane is bypassed, entry 0 of the partition table alone is valid and holds every hamlet, no shard or session is in
use, every queue pair and the event ring are disabled, every throttle is 0, and bells, semaphores and counters are 0. The stores of the
reset machine are in canonical form. -/
def Obligations.ResetHolds : Prop :=
  (let s := State.reset
  s.pending = [] ∧ s.boot.stage = .rom ∧ s.dev.time = 0 ∧ s.dev.errstatus = 0 ∧ s.dev.w1c = 0 ∧ s.dev.fatal = false ∧
  (∀ p, (s.croft p).cstate = .active ∧ (s.croft p).badLanes = [] ∧ (s.croft p).rot = 0) ∧
  (∀ p t, (s.shard p t).valid = false) ∧ (∀ i, (s.ses i).state = 0) ∧
  (∀ q, (s.queue q).base.use.en = false) ∧ evEn s.dev = false ∧
  (∀ k, pentValid (s.pent k) = decide (k = 0)) ∧ pentMask (s.pent 0) = 0xFFFF ∧
  (∀ k v, thetaOf s k v = 0) ∧ (∀ n, tget zeroN s.bells n = 0 ∧ tget zeroN s.sems n = 0 ∧ tget zeroN s.ctr n = 0) ∧
  s.twin.armed = none ∧ (∀ a, tget memDefault s.mem a = memDefault a)) ∧
  (StoresWf State.reset ∧ State.reset.fuses.treefuse = 1)

/-- Every step keeps the stores in canonical form: no byte of a bank or a local store is listed with the value it reads as unlisted, none
twice, and the addresses rise. -/
def Obligations.StepKeepsStores : Prop :=
  ∀ (s t : State), StoresWf s → step s = .next t → StoresWf t

/-- R401, R501: no step mends a fuse. The factory defects, the device number and the root hash stay, and a burned bit of TREEFUSE stays
burned. -/
def Obligations.StepKeepsFuses : Prop :=
  ∀ (s t : State), step s = .next t → FusesOnlyBurn s t

/-- Raising an event (R350, R352, R481, R514 to R516) other than EVENT_LOST: its ERRSTATUS bit and its severity bit are set, at severity 2
and above with ALERT#; ESEQ advances; with the ring disabled the record is dropped and counted. No croft, slice, queue pair or byte of a
store changes. With the ring enabled in host memory, an entry free and no record waiting, the event's 32 B record goes to the entry EVTAIL
names, in a request for part of a line, with the code, the severity, ESEQ, the device time and the phase (R350, R473, R518). -/
def Obligations.EventsRaised : Prop :=
  (∀ (s : State) (code sev : Nat) (fs : List (Nat × Nat × Nat)), code ≠ 0x00FE → code < 2 ^ 16 → sev ≤ 3 → evEn s.dev = false →
    let t := raise s code sev fs
    t.dev.eseq = s.dev.eseq + 1 ∧ t.dev.evdrop = s.dev.evdrop + 1 ∧
    t.dev.errstatus = (match errBit code with
      | some i => s.dev.errstatus ||| BitVec.twoPow 64 i
      | none => s.dev.errstatus) ∧
    t.dev.w1c = s.dev.w1c ||| (if 2 ≤ sev then 0x3#4 else if sev = 1 then 0x4#4 else 0x8#4) ∧
    t.i3c.alert = (s.i3c.alert || decide (2 ≤ sev)) ∧
    { t with dev := s.dev, ctr := s.ctr, link := s.link, i3c := s.i3c } = s) ∧
  (∀ (s : State) (code sev : Nat) (fs : List (Nat × Nat × Nat)), evEn s.dev = true → evDevMem s.dev = false → s.dev.evdrop = 0 →
    0 < evRoom s.dev → s.dev.evq = [] → evBusy s = false → s.dev.evSent = false → s.link.up = true →
    let r : BitVec 256 := BitVec.ofNat 256 (code + sev * 2 ^ 16 + s.dev.eseq.toNat * 2 ^ 32 + s.dev.time % 2 ^ 64 * 2 ^ 64 +
      (payload fs).toNat * 2 ^ 128)
    let r := if s.dev.evphase then r ||| BitVec.twoPow 256 31 else r
    (raise s code sev fs).link.reqs =
      s.link.reqs ++ [⟨s.link.nextReq, false, .wrCur, s.dev.evbase.toNat + 32 * s.dev.evtail, true, 32, leBytes 32 r.toNat, false, .event, s.now, false⟩])

/-- Every scalar instruction of R56, with no reserved bit set: SD takes the value the table names, the position moves on, and nothing else
changes. -/
def Obligations.ScalarResults : Prop :=
  ∀ (s : State) (c : CtxId) (f : ScalarF), Ready s c → f.rsv = 0 →
    let x := s.ctx c
    let a := x.reg f.sa.toNat
    let b := x.reg f.sb.toNat
    let gives := fun (i : Instr) (v : Word) => exec i s = .next (setCtx s c ((x.setReg f.sd.toNat v).passed (x.pos + 1) s.now))
    gives (.scalarAdd c f) (a + b) ∧ gives (.scalarSub c f) (a - b) ∧ gives (.scalarAnd c f) (a &&& b) ∧
    gives (.scalarOr c f) (a ||| b) ∧ gives (.scalarXor c f) (a ^^^ b) ∧ gives (.scalarMul c f) (a * b) ∧
    gives (.shl c f) (if b.toNat < 64 then a <<< b.toNat else 0) ∧ gives (.shr c f) (if b.toNat < 64 then a >>> b.toNat else 0) ∧
    gives (.loadImmediate c f) f.imm ∧
    (f.imm = 0 → gives (.movFromSpecial c f) (BitVec.ofNat 64 x.lc)) ∧
    (f.imm = 1 → gives (.movFromSpecial c f) (BitVec.ofNat 64 x.n)) ∧
    (2 ≤ f.imm.toNat ∧ f.imm.toNat ≤ 5 → gives (.movFromSpecial c f) (tget zeroW x.args (f.imm.toNat - 2)))

/-- A branch of R56 whose target lies in the stream: taken, it moves the position by its signed offset; not taken, by one. DECREMENT AND
BRANCH also writes SA. Nothing else changes. -/
def Obligations.BranchMoves : Prop :=
  ∀ (s : State) (c : CtxId) (f : BranchF), Ready s c → f.rsv = 0 →
    0 ≤ ((s.ctx c).pos : Int) + f.offset.toInt → ((s.ctx c).pos : Int) + f.offset.toInt < (s.ctx c).count →
    let x := s.ctx c
    let a := x.reg f.sa.toNat
    let b := x.reg f.sb.toNat
    let goes := fun (i : Instr) (y : Ctx) (taken : Bool) =>
      exec i s = .next (setCtx s c (y.passed (if taken then (x.pos + f.offset.toInt).toNat else x.pos + 1) s.now))
    goes (.branchAlways c f) x true ∧ goes (.branchEqual c f) x (decide (a = b)) ∧ goes (.branchNotEqual c f) x (decide (a ≠ b)) ∧
    goes (.branchLess c f) x (decide (a.toInt < b.toInt)) ∧ goes (.branchGreaterEqual c f) x (decide (b.toInt ≤ a.toInt)) ∧
    goes (.decrementAndBranch c f) (x.setReg f.sa.toNat (a - 1)) (decide (a - 1 ≠ 0))

/-- A croft instruction that stops its croft (R49, R325): the context holds the cause and the instruction index, its engine instructions
are gone, the contexts of the other execution slot and all bytes are as before, and the request of its slot fails with CROFT_FAULT unless
its end was decided before. R49: a branch to a target at or beyond the stream's instruction count stops its context with 0x1F at that
position, and the request of its slot fails with CROFT_FAULT unless its end was decided before. -/
def Obligations.CroftsStop : Prop :=
  (∀ (s : State) (c : CtxId) (k : Nat) (idx : BitVec 32),
    let t := failAt s c k idx
    (t.ctx c).run = .stopped ∧ (t.ctx c).cause = k ∧ (t.ctx c).causeAt = idx ∧
    (∀ g ∈ (t.croft c.p).engines, g.e ≠ c.e.val) ∧ (∀ c' : CtxId, c'.e ≠ c.e → t.ctx c' = s.ctx c') ∧
    t.mem = s.mem ∧ t.ls = s.ls ∧ t.slices = s.slices ∧
    ∀ q, (s.slot (partAt s c.p) c.e).req = some q → q.fail = none →
      (t.slot (partAt s c.p) c.e).req = some { q with fail := some (0x0008, faultDetail k (s.ctx c).lc idx) }) ∧
  (∀ (s : State) (c : CtxId) (f : BranchF), canIssue s c = true → f.rsv = 0 →
    ((s.ctx c).count : Int) ≤ ((s.ctx c).pos : Int) + f.offset.toInt →
    ∃ t, exec (.branchAlways c f) s = .next t ∧ (t.ctx c).run = .stopped ∧ (t.ctx c).cause = 0x1F ∧
      (t.ctx c).causeAt = BitVec.ofNat 32 ((s.ctx c).pos + f.offset.toInt).toNat ∧
      (∀ c', c'.e ≠ c.e → t.ctx c' = s.ctx c') ∧ t.mem = s.mem ∧ t.ls = s.ls ∧
      ∀ q, (s.slot (partAt s c.p) c.e).req = some q → q.fail = none →
        (t.slot (partAt s c.p) c.e).req = some { q with fail := some (0x0008, faultDetail 0x1F (s.ctx c).lc (t.ctx c).causeAt) })

/-- NOP, END, SET, CLEAR and FWAIT (R45, R264) with no reserved bit set, outside an armed partition: what each leaves of its own context;
the rest of the machine is unchanged. An FWAIT whose condition does not hold waits. -/
def Obligations.FlagsAndEnd : Prop :=
  ∀ (s : State) (c : CtxId), Ready s c → armedAt s c.p = false →
    let x := s.ctx c
    let gives := fun (i : Instr) (y : Ctx) => exec i s = .next (setCtx s c y)
    gives (.nop c 0) (x.passed (x.pos + 1) s.now) ∧
    gives (.endStream c 0) { x with run := .idle, ended := true, retired := x.retired + 1 } ∧
    ∀ f : FlagF, f.rsv = 0 →
      gives (.setFlags c f) ({ x with flags := x.flags ||| f.mask }.passed (x.pos + 1) s.now) ∧
      gives (.clearFlags c f) ({ x with flags := x.flags &&& ~~~ f.mask }.passed (x.pos + 1) s.now) ∧
      gives (.fwait c f)
        (if (if f.any then x.flags &&& f.mask ≠ 0 else x.flags &&& f.mask = f.mask) then
          ({ x with since := s.now, flags := if f.wclr then x.flags &&& ~~~ f.mask else x.flags }.passed (x.pos + 1) s.now)
        else { x with wait := .flags f.mask f.any f.wclr, since := s.now })

/-- An engine instruction whose checks pass, which nothing holds back and which reads no poisoned unit and no word in error (R49, R51,
R52): it enters its engine with its ranges, its work starts, and the position moves on. One that must wait is held, under R51 or R263, and changes nothing
else; one that fails checks stops its context on the lowest cause that applies (R526). -/
def Obligations.EngineIssue : Prop :=
  ∀ (s : State) (c : CtxId),
    let issues := fun (i : Instr) (pl : Plan) (clean : Bool) (start : Nat → State → State) =>
      (Passes s c pl → (clean = true → (relocated s c pl.reads).all (lsSound s c.p) = true) → exec i s =
        .next (moveOn (start (s.croft c.p).nextId (enter s c i pl (relocated s c pl.reads) (relocated s c pl.writes))) c)) ∧
      (canIssue s c = true → lowest (pl.causes ++ windowCauses s c pl) = none →
        mustWait s c pl (relocated s c pl.reads) (relocated s c pl.writes) = true →
        exec i s = .next (setCtx s c { s.ctx c with
          held := some i, since := s.now, locked := interlocked s c pl (relocated s c pl.reads) (relocated s c pl.writes) })) ∧
      (canIssue s c = true → ∀ k, k ∈ pl.causes ++ windowCauses s c pl → (∀ j ∈ pl.causes ++ windowCauses s c pl, k ≤ j) →
        exec i s = .next (failAt s c k (posOf s c)))
    let dma := fun (f : DmaF) (d : DmaOp) (i : Instr) =>
      issues i (dmaPlan s c f d) (d != .read && d != .write) fun id t =>
      startDma (awaitAcks (takeSeq t c (contribs f d)) c (contribs f d)) c id f d (srOf s c f.sr)
    let vec := fun (f : VecF) (o : VOp) (i : Instr) => issues i (vecPlan o f) true fun id t => runVec t c id o f
    let mma := fun (f : MmaF) (md : MMode) (i : Instr) => issues i (mmaPlan s c md f) true fun id t => runMma t c id md f
    (∀ f : DmaF, dma f .read (.dmaRead c f) ∧ dma f .write (.dmaWrite c f) ∧ dma f (.atomic .add) (.atomicAdd c f) ∧
      dma f (.atomic .min) (.atomicMin c f) ∧ dma f (.atomic .max) (.atomicMax c f) ∧ dma f (.atomic .cas) (.cas c f) ∧
      dma f (.atomic .swap) (.swap c f) ∧ dma f (.atomic .and) (.atomicAnd c f) ∧ dma f (.atomic .or) (.atomicOr c f) ∧
      dma f (.atomic .xor) (.atomicXor c f)) ∧
    (∀ f : VecF, vec f .add (.vecAdd c f) ∧ vec f .mul (.vecMul c f) ∧ vec f .fma (.fma c f) ∧ vec f .max (.vecMax c f) ∧
      vec f .min (.vecMin c f) ∧ vec f .relu (.relu c f) ∧ vec f .cvt (.cvt c f) ∧ vec f .scale (.scale c f) ∧
      vec f .rsum (.rsum c f) ∧ vec f .rmax (.rmax c f) ∧ vec f .exp (.exp c f) ∧ vec f .rcp (.rcp c f)) ∧
    ∀ f : MmaF, mma f .w (.mmaW c f) ∧ mma f .a (.mmaA c f) ∧ mma f .o (.mmaO c f)

/-- GLEAN, COLL and SIEVE (R98, R131, R276): one whose checks pass enters its engine. A GLEAN whose list is sound and passes its scan
waits there for its slice controller; a COLL whose contribution is sound arrives at its collective, and its context waits; a SIEVE starts
its contribution and, where that does not stop its context, the position moves on. -/
def Obligations.GatherIssue : Prop :=
  ∀ (s : State) (c : CtxId),
    let entered := fun (i : Instr) (pl : Plan) => enter s c i pl (relocated s c pl.reads) (relocated s c pl.writes)
    let glean := fun (f : GleanF) (i : Instr) (pool : Nat) =>
      Passes s c (gleanPlan s c f) → (relocated s c (gleanPlan s c f).reads).all (lsSound s c.p) = true → scanCauses (entered i (gleanPlan s c f)) c f pool = [] →
        exec i s = .next (moveOn (entered i (gleanPlan s c f)) c)
    let coll := fun (f : CollF) (i : Instr) (reduce : Bool) =>
      Passes s c (collPlan reduce f) → (relocated s c (collPlan reduce f).reads).all (lsSound s c.p) = true →
        ∃ t, exec i s = .next t ∧ t = collArrive (entered i (collPlan reduce f)) c (s.croft c.p).nextId reduce f ∧
          (t.ctx c).wait = .coll ∧ (t.ctx c).colls = (s.ctx c).colls + 1
    let sieve := fun (f : SieveF) (i : Instr) (route : Bool) =>
      let t := moveOn (startSieve (entered i (sievePlan s c route f)) c (s.croft c.p).nextId route f) c
      Passes s c (sievePlan s c route f) → (t.ctx c).run ≠ .stopped → exec i s = .next t
    (∀ f : GleanF, glean f (.gleanSum c f) 0 ∧ glean f (.gleanMean c f) 1 ∧ glean f (.gleanGather c f) 2) ∧
    (∀ f : CollF, coll f (.allgather c f) false ∧ coll f (.allreduce c f) true) ∧
    ∀ f : SieveF, sieve f (.sieveSelect c f) false ∧ sieve f (.sieveRoute c f) true

/-- R88: an elementwise VEC operation on FP32 operands writes at element i of z its result on elements i of x, y and, for FMA, z; no other
byte of a local store changes, and the banks stay. -/
def Obligations.VecElementwise : Prop :=
  ∀ (s : State) (c : CtxId) (id : Nat) (o : VOp) (f : VecF), isReduce o = false → f.sfmt = 12 → f.dfmt = 12 → o ≠ .scale →
    let n := vecLen f
    let base := fun a : BitVec 16 => relocLo s c (unitRange a (4 * n))
    let elem := fun (a : BitVec 16) (i : Nat) => vecElem s c.p (base a) 12 n i
    let t := runVec s c id o f
    (∀ i, i < n →
      let r := vecEval o (elem f.xadr i) (if o.usesY then elem f.yadr i else elem f.xadr i)
        (if o = .fma then elem f.zadr i else elem f.xadr i)
      leNat (lsRead t c.p (base f.zadr + 4 * i) 4) = fmt32.enc (dec32 r.1.toF)) ∧
    (∀ k, ¬ (lsKey c.p (base f.zadr) ≤ k ∧ k < lsKey c.p (base f.zadr) + 4 * n) → tget zero8 t.ls k = tget zero8 s.ls k) ∧
    t.mem = s.mem

/-- R202, R206: what an atomic writes for an integer element of the type's width: the wrapping sum, the signed lesser and greater, the
swap, and the bitwise results; CAS writes the new value only where the old one equals the operand. R207: one element of an atomic on a
line the square cache holds, in a sector that is not poisoned and a word without error: the line's bytes take the result, the atomic is
counted, the line is the one used last (R204), and the rest of the machine stays; no access to the line may wait. -/
def Obligations.AtomicsApply : Prop :=
  ((∀ a b n : BitVec 32,
    let r := fun op => (atomResult op .int32 (a.zeroExtend 64) (b.zeroExtend 64) (n.zeroExtend 64)).truncate 32
    r .add = a + b ∧ r .min = (if b.toInt < a.toInt then b else a) ∧ r .max = (if a.toInt < b.toInt then b else a) ∧
    r .swap = b ∧ r .and = a &&& b ∧ r .or = a ||| b ∧ r .xor = a ^^^ b ∧ r .cas = (if a = b then n else a)) ∧
  ∀ a b n : BitVec 64,
    let r := fun op => atomResult op .int64 a b n
    r .add = a + b ∧ r .min = (if b.toInt < a.toInt then b else a) ∧ r .max = (if a.toInt < b.toInt then b else a) ∧
    r .swap = b ∧ r .and = a &&& b ∧ r .or = a ||| b ∧ r .xor = a ^^^ b ∧ r .cas = (if a = b then n else a)) ∧
  (∀ (s : State) (c : CtxId) (addr : Nat) (op : AtomOp) (ty : AtomTy) (b n : BitVec 64) (w : Where) (l : SqLine),
    isFloatAdd op ty = false →
    (s.ctx c).run ≠ .stopped → partAddr s (partAt s c.p) addr = .ok w → addrCause s (partAddr s (partAt s c.p)) addr = none →
    biTracked s w.p w.off .square = false → lineWaits s w.p w.off = none → windowHeld s w.p w.off = false → s.sqc.find? (fun l => l.p == w.p && l.line == w.off / 128) = some l →
    l.poison.getLsbD (w.off % 128 / 32) = false → l.errs (w.off % 128 / 8) 1 = [] → s.found = [] →
    let old := BitVec.ofNat 64 (leNat (tgetList zero8 l.bytes (w.off % 128) (atomSize ty)))
    let new := leBytes (atomSize ty) (atomResult op ty old b n).toNat
    ∃ t, exec (.squareCacheAtomic c addr op ty b n) s = .next t ∧ { t with sqc := s.sqc, ctr := s.ctr, uses := s.uses } = s ∧ t.uses = s.uses + 1 ∧
      t.sqc = mapIf (fun y => y.p == w.p && y.line == w.off / 128)
        (fun y => { y with bytes := tsetList zero8 y.bytes (w.off % 128) new, used := s.uses }) s.sqc ∧
      tget zeroN t.ctr (ctrSquare 8) = tget zeroN s.ctr (ctrSquare 8) + 1)

/-- R208: a floating ADD of a request with RELAXED = 0 whose share of the staging has room is staged with the number its context gives it,
and counted; no byte of memory changes. R209: with the share full, the croft stops with cause 0x17. R208: the contributions of an epoch
are sent to their elements in increasing order of logical croft, then sequence number, each once. EPOCH_APPLY_DONE (R209): once none of
them waits, the staging entries of the slot's ended epochs are free; nothing else changes. -/
def Obligations.AddsStaged : Prop :=
  (∀ (s : State) (c : CtxId) (addr : Nat) (ty : AtomTy) (v : BitVec 64),
    (ty = .fp32 ∨ ty = .fp16 ∨ ty = .bf16) → relaxedAt s c = false →
    addrCause s (partAddr s (partAt s c.p)) addr = none → addr % atomSize ty = 0 → (s.ctx c).run ≠ .stopped →
    stagedCount s (partAt s c.p) < stagingShare s →
    let x := s.ctx c
    let k := partAt s c.p
    exec (.deferredContribution c addr ty v) s =
      .next (bump (setCtx (modSlot s k c.e fun y => { y with staged := y.staged ++ [⟨k, c.e, x.lc, x.seq, addr, ty, v⟩] }) c
        { x with seq := x.seq + 1 }) (ctrSquare 9) 1)) ∧
  (∀ (s : State) (c : CtxId) (addr : Nat) (ty : AtomTy) (v : BitVec 64),
    (ty = .fp32 ∨ ty = .fp16 ∨ ty = .bf16) → relaxedAt s c = false →
    addrCause s (partAddr s (partAt s c.p)) addr = none → addr % atomSize ty = 0 → (s.ctx c).run ≠ .stopped →
    stagingShare s ≤ stagedCount s (partAt s c.p) →
    ∃ t i, exec (.deferredContribution c addr ty v) s = .next t ∧ t = failAt (takeSeq s c 1) c 0x17 i) ∧
  (∀ (s : State) (k e : Nat),
    ∃ l : List Staged, epochEnd s k e = l.foldl (fun t x =>
          sendStaged t x (lowestAt (s.slot k e).staged x.addr) (((s.slot k e).req.map (·.cid)).getD 0))
        (modSlot s k e fun x => { x with staged := [], ended := x.ended ++ (s.slot k e).staged, seen := [] }) ∧
      l.Perm (s.slot k e).staged ∧ l.Pairwise fun a b => a.lc < b.lc ∨ (a.lc = b.lc ∧ a.seq ≤ b.seq)) ∧
  (∀ (s : State) (part : Fin 8) (e : Fin 2), owed s (.epoch part e) = false → ∃ t, exec (.epochApplyDone part e) s = .next t ∧
    t.slot part e = { s.slot part e with ended := [] } ∧ { t with parts := s.parts } = s ∧
    ∀ k e', (k ≠ part.val ∨ (e' = 0 ↔ e.val ≠ 0)) → t.slot k e' = s.slot k e')

/-- LANE_BANK_LOAD (R33, R34, R36): the croft's next chunk fills its bank, the front one for an even ordinal and the back one for an odd,
once the chunk there has issued. The load waits until no issue in flight names the bank, and its wait is counted; each lane of the pass
then holds its bytes of the chunk, and the other bank keeps its own. ISSUE_AFTER_LOAD (R28, R33 to R35, R40, R64): the issues of the next
chunk enter the pipeline once its bank holds it and the accumulator set they use has drained: the accumulators take the sums formed from
the bank's bytes, each bank's count is of the issues in flight that name it, and the issues, skips, stalls and clamps are counted. A byte
or an accumulator whose parity fails stops the croft with cause 0x08 (R52). -/
def Obligations.BanksAlternate : Prop :=
  (∀ (s : State) (p : Fin 512) (r : MmaRun), nextLoad (s.croft p) = some r →
    let x := s.croft p
    let n := r.first + r.loaded
    let t0 := loadStart x n
    (bankPending x (bankOf x n) = true → exec (.laneBankLoad p) s = .next s) ∧
    (bankPending x (bankOf x n) = false → ∃ t, exec (.laneBankLoad p) s = .next t ∧
      bankOf (t.croft p) n = fillBank s p r n t0 (bankOf x n) ∧ (bankOf (t.croft p) n).chunk = some n ∧
      (∀ i ∈ (t.croft p).pipe, t0 < i.out ∧ i.back ≠ decide (n % 2 = 1)) ∧
      (bankOf (t.croft p) (n + 1)).bytes = (bankOf x (n + 1)).bytes ∧ (bankOf (t.croft p) (n + 1)).chunk = (bankOf x (n + 1)).chunk ∧
      (t.croft p).mma = mapIf (fun q => q.id == r.id) (fun q => { q with loaded := q.loaded + 1 }) x.mma ∧
      tget zeroN t.ctr (ctrCroft p 4) = tget zeroN s.ctr (ctrCroft p 4) + (t0 - loadPending x n) ∧
      { t with crofts := s.crofts, ctr := s.ctr } = s ∧
      (r.lanes.Nodup → ∀ l ∈ r.passLanes (r.pass (r.loaded / r.chunks)),
        let bs := r.laneBytes s p (r.loaded % r.chunks) (r.pass (r.loaded / r.chunks) * r.w + l)
        (∀ m ∈ r.passLanes (r.pass (r.loaded / r.chunks)),
          (r.laneBytes s p (r.loaded % r.chunks) (r.pass (r.loaded / r.chunks) * r.w + m)).length ≤ 1024) →
        tgetList zero8 (bankOf (t.croft p) n).bytes (1024 * r.phys l) bs.length = bs))) ∧
  (∀ (s : State) (p : Fin 512) (r : MmaRun), nextIssue (s.croft p) = some r →
    let x := s.croft p
    let b := bankOf x (r.first + r.issued)
    (b.chunk ≠ some (r.first + r.issued) ∨ setDraining x r = true → exec (.issueAfterLoad p) s = .next s) ∧
    (b.chunk = some (r.first + r.issued) → setDraining x r = false →
      (laneParity x r b r.issued = false →
        let y := issueChunk s p x r b r.issued
        ∃ t, exec (.issueAfterLoad p) s = .next t ∧ (t.croft p).acc = y.acc ∧
          (t.croft p).mma = mapIf (fun q => q.id == r.id) (fun q => { q with issued := q.issued + 1 }) x.mma ∧
          (∀ i ∈ (t.croft p).pipe, y.cycle < i.out) ∧
          (t.croft p).front.refs = ((t.croft p).pipe.filter fun i => !i.back).length ∧
          (t.croft p).back.refs = ((t.croft p).pipe.filter fun i => i.back).length ∧
          tget zeroN t.ctr (ctrCroft p 0) = tget zeroN s.ctr (ctrCroft p 0) + y.issues * r.step ∧
          tget zeroN t.ctr (ctrCroft p 1) = tget zeroN s.ctr (ctrCroft p 1) + y.zskip ∧
          tget zeroN t.ctr (ctrCroft p 2) = tget zeroN s.ctr (ctrCroft p 2) + y.bskip ∧
          tget zeroN t.ctr (ctrCroft p 3) = tget zeroN s.ctr (ctrCroft p 3) + y.stall ∧
          tget zeroN t.ctr (ctrCroft p 9) = tget zeroN s.ctr (ctrCroft p 9) + y.sats ∧
          { t with crofts := s.crofts, ctr := s.ctr } = s) ∧
      (∀ g, laneParity x r b r.issued = true → engineOf s p r.id = some g →
        ∃ t, exec (.issueAfterLoad p) s = .next t ∧ (t.ctx (mkCtx p g.e)).run = .stopped ∧ (t.ctx (mkCtx p g.e)).cause = 0x08 ∧
          (t.ctx (mkCtx p g.e)).causeAt = BitVec.ofNat 32 g.idx)))

/-- ACCUMULATOR_DRAIN (R40, R63): the oldest finished set goes to C: each 64 B unit of C whose elements have all come down is written
whole, and nothing else of any local store; memory stays. R29, R86: an accumulation of an integer group sum adds it exactly, and clamps to
the 32-bit range with the flag set where it leaves it. -/
def Obligations.SumsDrain : Prop :=
  (∀ (s : State) (p : Fin 512) (r : MmaRun), (s.croft p).mma.find? MmaRun.drainDue = some r → drainParity (s.croft p) r r.drained = false →
    let v := drainVals r (s.croft p).acc r.drained
    let us := wholeOf v
    ∃ t, exec (.accumulatorDrain p) s = .next t ∧
      t.ls = us.foldl (fun l u => tsetList zero8 l (lsKey p (r.cd + 64 * u)) (unitBytes v u)) s.ls ∧
      (∀ k, (∀ u ∈ us, ¬ (lsKey p (r.cd + 64 * u) ≤ k ∧ k < lsKey p (r.cd + 64 * u) + 64)) → tget zero8 t.ls k = tget zero8 s.ls k) ∧
      (t.croft p).mma = mapIf (fun q => q.id == r.id) (fun q => { q with
        drained := q.drained + 1, carry := v.filter fun e => ¬ us.contains (e.1 / 16) }) (s.croft p).mma ∧
      (t.croft p).acc = (s.croft p).acc ∧ t.mem = s.mem ∧
      { t with crofts := s.crofts, ls := s.ls, lsPoison := s.lsPoison, lsTaint := s.lsTaint, lsErr := s.lsErr } = s) ∧
  (∀ (acc : BitVec 32) (g : Int),
    let v := acc.toInt + g
    accStep true acc (intN g) =
      (BitVec.ofInt 32 (if v < -2147483648 then -2147483648 else if 2147483647 < v then 2147483647 else v),
        decide (v < -2147483648 ∨ 2147483647 < v)))

/-- R44, R264: an engine instruction whose work is complete, and none of whose accesses waits for a bank or a
back-invalidation, retires: it leaves the croft, its context counts it, and its flag is set where FLAGEN asked for one. INTERLOCK_ISSUE
(R51, R64, R263) of every context goes on to a next state: with no instruction held, or in a context that does not run, nothing changes;
otherwise the held instruction issues again in the state without the hold, its wait counted where R51 held it. One whose checks pass and
which nothing holds back any more takes effect: its engine runs it, or its count is added, and the position moves on. One that must still
wait is held anew. -/
def Obligations.EnginesRetire : Prop :=
  (∀ (s : State) (p : Fin 512) (id : Nat) (g : Engine), engineOf s p id = some g → g.ready = true → owed s (.engine (mkCtx p g.e) id) = false →
    armedAt s p = false → (s.ctx (mkCtx p g.e)).wait = .none → g.e < 2 →
    ∃ t, exec (.instructionRetire p id) s = .next t ∧
      (t.croft p).engines = (s.croft p).engines.filter (fun h => h.id ≠ id) ∧
      (t.ctx (mkCtx p g.e)).retired = (s.ctx (mkCtx p g.e)).retired + 1 ∧
      (t.ctx (mkCtx p g.e)).flags = (match g.flag with
        | some f => (s.ctx (mkCtx p g.e)).flags ||| BitVec.twoPow 64 f.toNat
        | none => (s.ctx (mkCtx p g.e)).flags) ∧
      (t.ctx (mkCtx p g.e)).pos = (s.ctx (mkCtx p g.e)).pos ∧
      { t with crofts := s.crofts } = s) ∧
  (∀ (s : State) (c : CtxId),
    (∃ t, exec (.interlockIssue c) s = .next t ∧ ((s.ctx c).held = none ∨ (s.ctx c).run ≠ .running → t = s)) ∧
    ((s.ctx c).run = .running →
      let cleared := fun u : State => setCtx u c { s.ctx c with held := none }
      let u := cleared (if (s.ctx c).locked then bump s (ctrCroft c.p 5) (cyclesIn s c.p (s.now - (s.ctx c).since)) else s)
      let runs := fun (i : Instr) (pl : Plan) (clean : Bool) (start : Nat → State → State) => (s.ctx c).held = some i →
        exec (.interlockIssue c) s = exec i u ∧
        (Passes u c pl → (clean = true → (relocated u c pl.reads).all (lsSound u c.p) = true) → exec (.interlockIssue c) s =
          .next (moveOn (start (u.croft c.p).nextId (enter u c i pl (relocated u c pl.reads) (relocated u c pl.writes))) c)) ∧
        (canIssue u c = true → lowest (pl.causes ++ windowCauses u c pl) = none →
          mustWait u c pl (relocated u c pl.reads) (relocated u c pl.writes) = true →
          exec (.interlockIssue c) s = .next (setCtx u c { u.ctx c with
            held := some i, since := u.now, locked := interlocked u c pl (relocated u c pl.reads) (relocated u c pl.writes) }))
      let dma := fun (f : DmaF) (d : DmaOp) (i : Instr) => runs i (dmaPlan u c f d) (d != .read && d != .write) fun id t =>
        startDma (awaitAcks (takeSeq t c (contribs f d)) c (contribs f d)) c id f d (srOf u c f.sr)
      (∀ f : DmaF, dma f .read (.dmaRead c f) ∧ dma f .write (.dmaWrite c f) ∧ dma f (.atomic .add) (.atomicAdd c f)) ∧
      (∀ f : VecF, runs (.vecAdd c f) (vecPlan .add f) true fun id t => runVec t c id .add f) ∧
      (∀ f : MmaF, runs (.mmaW c f) (mmaPlan u c .w f) true (fun id t => runMma t c id .w f) ∧
        runs (.mmaA c f) (mmaPlan u c .a f) true (fun id t => runMma t c id .a f) ∧
        runs (.mmaO c f) (mmaPlan u c .o f) true (fun id t => runMma t c id .o f)) ∧
      ∀ f : BellF,
        ((s.ctx c).held = some (.ring c f) → exec (.interlockIssue c) s = exec (.ring c f) u ∧
          (Ready u c → mustWait u c (syncPlan [] true) [] [] = false → f.rsv = 0 → f.cnt ≠ 0 → f.num.toNat ≤ 1023 →
            bellOwner s f.vil.toNat f.num.toNat = some (partAt s c.p) → s.bellQ = [] →
            let n := bellKey f.vil.toNat f.num.toNat
            tget zeroN s.bells n + f.cnt.toNat ≤ 0xFFFFFFFF → exec (.interlockIssue c) s =
              .next (setCtx { ringTokens u c f.vil.toNat with bells := tset zeroN s.bells n (tget zeroN s.bells n + f.cnt.toNat) } c
                ((u.ctx c).passed ((u.ctx c).pos + 1) u.now)))) ∧
        ((s.ctx c).held = some (.ssig c f) → exec (.interlockIssue c) s = exec (.ssig c f) u) ∧
        ((s.ctx c).held = some (.bar c f) → exec (.interlockIssue c) s = exec (.bar c f) u)))

/-- R61: a croft clock step comes at most once per microsecond and moves the clock by at most 50 MHz toward the croft's ceiling; nothing
of the croft but its clock, and the time up to which its heater's cycles are counted, changes. R61: cycles are stretched while the supply is more than 4 % below its setpoint, counted, and no
longer. -/
def Obligations.ClocksMove : Prop :=
  (∀ (s : State) (p : Fin 512),
    let x := s.croft p
    ∃ t, exec (.clockStep p) s = .next t ∧ t.now = max s.now (x.stepAt + 1000) ∧
      t.croft p = { x with
        stepAt := t.now
        heatAt := if x.heater then t.now else x.heatAt
        mhz := if x.mhz < clockCeil s p then min (x.mhz + 50) (clockCeil s p) else max (x.mhz - 50) (clockCeil s p) } ∧
      (∀ q, q ≠ p.val → t.croft q = s.croft q) ∧ t.mem = s.mem ∧ t.ls = s.ls) ∧
  (∀ (s : State) (p : Fin 512) (supply cycles : Nat),
    exec (.droopStretch p supply cycles) s =
      .next (setCroft (if 100 * supply < 96 * 1000 then bump s (ctrCroft p 7) cycles else s) p
        { s.croft p with stretch := decide (100 * supply < 96 * 1000) }))

/-- RING and SSIG (R266 to R268): with nothing to wait for under R263 and no waiter on it, the count takes the added value, saturating at
2³² − 1, and the position moves on; for a bell of another village it takes die-to-die tokens (R259). While an engine instruction of the context writes outside the local store, or a contribution is not
acknowledged, the instruction is held. BWAIT and SWAIT (R266 to R268) on a count that nobody waits for: with the count large enough it is
taken at once and the position moves on; otherwise the context waits, and the count stays. -/
def Obligations.CountsMove : Prop :=
  (∀ (s : State) (c : CtxId) (f : BellF), Ready s c → f.rsv = 0 → f.cnt ≠ 0 →
    let x := s.ctx c
    let sum := fun old : Nat => if old + f.cnt.toNat ≤ 0xFFFFFFFF then old + f.cnt.toNat else 0xFFFFFFFF
    let busy := mustWait s c (syncPlan [] true) [] []
    let held := fun i : Instr => setCtx s c { x with held := some i, since := s.now, locked := false }
    let n := bellKey f.vil.toNat f.num.toNat
    (f.num.toNat ≤ 1023 → bellOwner s f.vil.toNat f.num.toNat = some (partAt s c.p) →
      (busy = true → exec (.ring c f) s = .next (held (.ring c f))) ∧
      (busy = false → s.bellQ = [] → tget zeroN s.bells n + f.cnt.toNat ≤ 0xFFFFFFFF → exec (.ring c f) s =
        .next (setCtx { ringTokens s c f.vil.toNat with bells := tset zeroN s.bells n (tget zeroN s.bells n + f.cnt.toNat) } c
          (x.passed (x.pos + 1) s.now))) ∧
      (busy = false → s.bellQ = [] → ∃ t, exec (.ring c f) s = .next t ∧ tget zeroN t.bells n = sum (tget zeroN s.bells n))) ∧
    (f.vil = 0 → f.num.toNat / 512 = partAt s c.p →
      (busy = true → exec (.ssig c f) s = .next (held (.ssig c f))) ∧
      (busy = false → s.semQ = [] → tget zeroN s.sems f.num.toNat + f.cnt.toNat ≤ 0xFFFFFFFF → exec (.ssig c f) s =
        .next (setCtx { s with sems := tset zeroN s.sems f.num.toNat (tget zeroN s.sems f.num.toNat + f.cnt.toNat) } c
          (x.passed (x.pos + 1) s.now))) ∧
      (busy = false → s.semQ = [] → ∃ t, exec (.ssig c f) s = .next t ∧
        tget zeroN t.sems f.num.toNat = sum (tget zeroN s.sems f.num.toNat)))) ∧
  (∀ (s : State) (c : CtxId) (f : BellF), Ready s c → f.rsv = 0 → f.cnt ≠ 0 → f.vil = 0 →
    let x := s.ctx c
    let v := f.cnt.toNat
    let n := bellKey (villageOf c.p) f.num.toNat
    let m := f.num.toNat
    (f.num.toNat ≤ 1023 → bellOwner s (villageOf c.p) f.num.toNat = some (partAt s c.p) → s.bellQ = [] →
      exec (.bwait c f) s = .next
        (if v ≤ tget zeroN s.bells n then
          setCtx { s with bells := tset zeroN s.bells n (tget zeroN s.bells n - v) } c ({ x with since := s.now }.passed (x.pos + 1) s.now)
        else setCtx { s with bellQ := [(n, v, c)] } c { x with wait := .bell n v, since := s.now })) ∧
    (f.num.toNat / 512 = partAt s c.p → s.semQ = [] →
      exec (.swait c f) s = .next
        (if v ≤ tget zeroN s.sems m then
          setCtx { s with sems := tset zeroN s.sems m (tget zeroN s.sems m - v) } c ({ x with since := s.now }.passed (x.pos + 1) s.now)
        else setCtx { s with semQ := [(m, v, c)] } c { x with wait := .sem m v, since := s.now })))

/-- BAR (R270) outside an armed partition: the logical croft arrives at the channel's open instance, and its context waits there.
BARRIER_RELEASE (R270): once every logical croft has arrived, each context that waits there goes on, and the channel's next instance is
open with no arrival. WAIT_TIMEOUT (R281): an FWAIT, BWAIT or SWAIT that has waited 100 ms stops its croft with cause 0x19; any other
context is left alone. BARRIER_TIMEOUT (R281, R282): an instance still incomplete 10 ms after its first arrival is broken up: the
request's crofts that run stop with cause 0x1D, those that wait at it and those that have not arrived. The same holds of the collective of
a slot. -/
def Obligations.BarriersMeet : Prop :=
  (∀ (s : State) (c : CtxId) (f : BellF), Passes s c (syncPlan [] true) → armedAt s c.p = false →
    f.rsv = 0 → f.vil = 0 → f.cnt = 0 → f.num.toNat ≤ 3 →
    let x := s.ctx c
    let k := partAt s c.p
    let ch := f.num.toNat
    let b := barOf s k c.e ch
    exec (.bar c f) s = .next (setBar
      (setCtx s c { x with wait := .barrier ch, since := s.now, bars := tset zeroN x.bars ch (tget zeroN x.bars ch + 1) })
      k c.e ch { b with first := if b.arrived.isEmpty then s.now else b.first, arrived := b.arrived ++ [x.lc] })) ∧
  (∀ (s : State) (part : Fin 8) (e : Fin 2) (ch : Fin 4) (q : Req), (s.slot part e).req = some q → 0 < q.n →
    q.n ≤ (barOf s part e ch).arrived.length → s.twin.armed = none → (s.slot part e).staged = [] →
    (∀ c ∈ slotCtxs s part e, (s.ctx c).pos + 1 < (s.ctx c).count) →
    ∃ t, exec (.barrierRelease part e ch) s = .next t ∧ barOf t part e ch = ⟨(barOf s part e ch).inst + 1, 0, []⟩ ∧
      (∀ c ∈ slotCtxs s part e, (s.ctx c).run = .running → (s.ctx c).wait = .barrier ch →
        t.ctx c = { s.ctx c with wait := .none }.passed ((s.ctx c).pos + 1) s.now) ∧
      (∀ c, c ∉ slotCtxs s part e → t.ctx c = s.ctx c) ∧
      tget zeroN t.ctr (ctrPart part 5) = tget zeroN s.ctr (ctrPart part 5) + 1 ∧ t.mem = s.mem ∧ t.ls = s.ls) ∧
  (∀ (s : State) (c : CtxId), (s.ctx c).run = .running →
    ((∃ m a w, (s.ctx c).wait = .flags m a w) ∨ (∃ b v, (s.ctx c).wait = .bell b v) ∨ (∃ b v, (s.ctx c).wait = .sem b v) →
      ∃ t, exec (.waitTimeout c) s = .next t ∧ t.now = max s.now ((s.ctx c).since + 100000000) ∧ (t.ctx c).run = .stopped ∧
        (t.ctx c).cause = 0x19 ∧ (t.ctx c).causeAt = posOf s c) ∧
    ((s.ctx c).wait = .none → exec (.waitTimeout c) s = .next s)) ∧
  (∀ (s : State) (part : Fin 8) (e : Fin 2) (ch : Fin 5),
    (∀ b : Bar, ch.val < 4 → b = barOf s part e ch → b.arrived ≠ [] → b.arrived.length < reqN s part e →
      ∃ t, exec (.barrierTimeout part e ch) s = .next t ∧ t.now = max s.now (b.first + 10000000) ∧
        (t.slot part e).bars = [] ∧ (t.slot part e).coll = none ∧
        (∀ c ∈ slotCtxs s part e, (s.ctx c).run = .running → (t.ctx c).run = .stopped ∧ (t.ctx c).cause = 0x1D) ∧ t.mem = s.mem) ∧
    (∀ z : Coll, ch = 4 → (s.slot part e).coll = some z → z.running = false → z.arrs.length ≠ reqN s part e →
      ∃ t, exec (.barrierTimeout part e ch) s = .next t ∧ t.now = max s.now (z.first + 10000000) ∧ (t.slot part e).coll = none ∧
        (∀ c ∈ slotCtxs s part e, (s.ctx c).run = .running → (t.ctx c).run = .stopped ∧ (t.ctx c).cause = 0x1D) ∧ t.mem = s.mem))

/-- COLLECTIVE_START (R274 to R277): with every croft of the request arrived, no collective of the partition running and no field that
differs, an ALLREDUCE that has its tokens forms its result; one whose fields differ stops every croft of it with 0x1B. COLLECTIVE_DONE (R276): the result
stands in the destination of every croft of the collective, and the collective is closed. -/
def Obligations.CollectivesMeet : Prop :=
  (∀ (s : State) (part : Fin 8) (e : Fin 2) (z : Coll), (s.slot part e).coll = some z → z.running = false →
    (∀ y, (s.slot part (1 - e.val)).coll = some y → y.running = false) → z.arrs.length = reqN s part e →
    let l := sortBy (·.lc) z.arrs
    (collMismatch l = false → (∀ a ∈ z.arrs, a.reduce = true) →
      shortOf (accrue s part) part (collDemand l (collResult l).1.length) = none →
      ∃ t, exec (.collectiveStart part e) s = .next t ∧
        (t.slot part e).coll = some { z with running := true, bytes := (collResult l).1 } ∧ t.mem = s.mem ∧ t.ls = s.ls ∧
        (∀ c : CtxId, { t.ctx c with sat := (s.ctx c).sat } = s.ctx c)) ∧
    (collMismatch l = true → ∃ t, exec (.collectiveStart part e) s = .next t ∧ (t.slot part e).coll = none ∧
      (∀ a ∈ z.arrs, (t.ctx (mkCtx a.p e)).run = .stopped) ∧ t.mem = s.mem ∧ t.ls = s.ls)) ∧
  (∀ (s : State) (part : Fin 8) (e : Fin 2) (z : Coll), (s.slot part e).coll = some z → z.running = true →
    (z.arrs.map (·.p)).Nodup → (∀ a ∈ z.arrs, a.p < 512) → z.bytes.length % 64 = 0 →
    (∀ a ∈ z.arrs, (s.ctx (mkCtx a.p e)).pos + 1 < (s.ctx (mkCtx a.p e)).count) →
    let base := fun a : CollArr => relocLo s (mkCtx a.p e) (unitRange a.f.dadr z.bytes.length)
    (∀ a ∈ z.arrs, base a + z.bytes.length ≤ Config.lsBytes) →
    ∃ t, exec (.collectiveDone part e) s = .next t ∧ (t.slot part e).coll = none ∧
      (∀ a ∈ z.arrs, lsRead t a.p (base a) z.bytes.length = z.bytes) ∧
      tget zeroN t.ctr (ctrPart part 6) = tget zeroN s.ctr (ctrPart part 6) + 1 ∧
      tget zeroN t.ctr (ctrPart part 7) = tget zeroN s.ctr (ctrPart part 7) + z.bytes.length * z.arrs.length ∧ t.mem = s.mem)

/-- R102: rank order puts the higher score first and, between equal scores, the lower tag; R104: position q of a deal goes to croft q mod
N. -/
def Obligations.RankAndDeal : Prop :=
  (∀ l : List Cand, (rankSort l).Perm l ∧ (rankSort l).Pairwise fun a b =>
    scoreKey (recScore b.r) < scoreKey (recScore a.r) ∨
      (scoreKey (recScore b.r) = scoreKey (recScore a.r) ∧ recTag a.r ≤ recTag b.r)) ∧
  ∀ (n : Nat) (pass : Nat → Nat) (l : List Cand) (q : Nat) (a : Cand), l[q]? = some a →
    (dealOut n pass l)[q]? = some (q % n, pass q, a)

/-- SIEVE_BUFFER_FREE (R114): with a round buffer to take, the oldest waiting contribution of the context, whose operands are sound, joins
its round, and its wait is counted; with none free it goes on waiting. SIEVE_ROUND_START (R98, R101, R112 to R114): the oldest round of a
slot, with all its contributions, free sieves and its turn. Where every check passes and it has its tokens, it executes and keeps what each croft receives; a
word of its record buffers that cannot be corrected, a mismatch of R101, too many records, a repeated tag or too small a destination
breaks it with the lowest cause that applies. -/
def Obligations.SieveRoundsRun : Prop :=
  (∀ (s : State) (c : CtxId) (g : Engine) (gs : List Engine) (f : SieveF) (route : Bool), sieveStalled s c = g :: gs →
    sieveOf g.instr = some (f, route) →
    let v := villageOf c.p
    let k := partAt s c.p
    let idx := (s.ctx c).rounds - (gs.length + 1)
    (canContribute s v k c.e idx = false → exec (.sieveBufferFree c) s = .next s) ∧
    (canContribute s v k c.e idx = true →
      lsSound s c.p ⟨relocLo s c (recRange f), (recRange f).len⟩ = true → lsSound s c.p ⟨relocLo s c (payRange f), (payRange f).len⟩ = true →
      ∃ t, exec (.sieveBufferFree c) s = .next t ∧ (k, c.e.val, idx) ∈ (t.sieve v).bufs ∧
        (∃ r ∈ (t.slot k c.e).rounds, r.idx = idx ∧ ∃ x ∈ r.contribs, x.p = c.p.val ∧ x.id = g.id ∧ x.lc = (s.ctx c).lc ∧
          x.recs = recsAt s c.p (relocLo s c (recRange f)) (sieveCnt f)) ∧
        tget zeroN t.ctr (ctrSieve v 1) = tget zeroN s.ctr (ctrSieve v 1) + sieveCnt f ∧ t.mem = s.mem ∧ t.ls = s.ls)) ∧
  (∀ (s : State) (part : Fin 8) (e : Fin 2) (r : Round) (a : Contrib) (rest : List Contrib),
    (s.slot part e).rounds.find? (fun r => !r.running) = some r → r.contribs.length = reqN s part e →
    sieveBusy s (roundSieves s part r) = false → comesFirst s part e (r.doneAt.getD r.first) (roundSieves s part r) = false →
    sortBy (·.lc) r.contribs = a :: rest →
    let n := reqN s part e
    let cs := a :: rest
    let l := roundCands cs
    let d := if a.route then routeDeal a.param n l else selectDeal a.f a.param n l
    let run := exec (.sieveRoundStart part e) s
    (recordsLost cs = true → run = .next (breakRounds (scanRecords s cs) part e 0x07 none)) ∧
    ((∀ b ∈ cs, b.err = []) →
      (roundMismatch cs = true → run = .next (breakRounds s part e 0x0A none)) ∧
      (roundMismatch cs = false → roundTooMany a.route l = true → run = .next (breakRounds s part e 0x0B none)) ∧
      (roundMismatch cs = false → roundTooMany a.route l = false → roundInvalid a n cs = false →
        ((∃ i, i < n ∧ sieveCap a.f < (d.dealt.filter fun y => y.1 = i).length) → run = .next (breakRounds s part e 0x0C none)) ∧
        ((∀ i, i < n → (d.dealt.filter fun y => y.1 = i).length ≤ sieveCap a.f) →
          shortOf (accrue s part) part (sieveDemand (leadOf s part) a cs l d (roundSieves s part r)) = none →
          ∃ t, run = .next t ∧ { t with parts := s.parts, ctr := s.ctr } = s ∧
            (t.slot part e).rounds = mapIf (fun q => q.idx == r.idx) (fun q => { q with
              running := true
              deliver := cs.map (deliveryOf s e d cs l.length)
              fallback := d.path == 1
              waste := d.waste
              drop := d.drop }) (s.slot part e).rounds))))

/-- SIEVE_ROUND_DONE (R109 to R111, R114): the round leaves its slot, its buffers are free, the request's summary takes it in, and memory
stays. SIEVE_ROUND_TIMEOUT (R112): a round still incomplete 10 ms after its first contribution is broken: every croft of the request that
runs stops with cause 0x0E, and the slot holds no round and no buffer. -/
def Obligations.SieveRoundsEnd : Prop :=
  (∀ (s : State) (part : Fin 8) (e : Fin 2) (r : Round) (q : Req), (s.slot part e).rounds.find? (fun r => r.running) = some r →
    (s.slot part e).req = some q → (∀ d ∈ r.deliver, (s.ctx (mkCtx d.p e)).wait = .none) → s.lsErr = [] →
    ∃ t, exec (.sieveRoundDone part e) s = .next t ∧
      (t.slot part e).rounds = (s.slot part e).rounds.filter (fun y => y.idx ≠ r.idx) ∧
      (t.slot part e).req = some { q with
        fallback := q.fallback || r.fallback, waste := max q.waste r.waste, drop := q.drop + r.drop } ∧
      (∀ v, v < 4 → (part.val, e.val, r.idx) ∉ (t.sieve v).bufs) ∧ t.mem = s.mem) ∧
  (∀ (s : State) (part : Fin 8) (e : Fin 2) (r : Round), (s.slot part e).rounds.find? (fun r => !r.running) = some r →
    r.contribs.length < reqN s part e →
    ∃ t, exec (.sieveRoundTimeout part e) s = .next t ∧ t.now = max s.now (r.first + 10000000) ∧ (t.slot part e).rounds = [] ∧
      (∀ c ∈ slotCtxs s part e, (s.ctx c).run = .running → (t.ctx c).run = .stopped ∧ (t.ctx c).cause = 0x0E) ∧
      (∀ v, v < 4 → ∀ b ∈ (t.sieve v).bufs, ¬ (b.1 = part.val ∧ b.2.1 = e.val)) ∧ t.mem = s.mem ∧ t.ls = s.ls)

/-- GLEAN_COMMAND_RECEIVE and GLEAN_SLOT_FREE (R139): with fewer than 32 commands held and its checks passed, the slice controller takes
the command, with its list and its destination; with 32 held the GLEAN waits in its engine. GLEANER_YIELD (R142, R144): a gleaner with a
row begun, to whose pair an ordinary access waits, yields at 512 column operations, or 1.5 µs after its last yield: up to 16 of the
accesses queued to the pair are served, it is counted, its count and its time begin anew, and it finishes its row. Where every access to the
pair is a write to the row begun, and the row has no token for its activation, none is served and the row stays begun. Otherwise nothing
happens. -/
def Obligations.GleansServed : Prop :=
  (∀ (s : State) (c : CtxId) (id : Nat) (g : Engine) (f : GleanF) (pool q : Nat) (d : Shard), engineOf s c.p id = some g →
    gleanOf g.instr = some (f, pool) → g.e = c.e.val → g.ready = false → gleanShard s c f = some (q, d) →
    heldBySlice s q c.p id = false →
    ((s.slice q).gl.length < 32 → receiveCauses s c g f pool (gleanList s c f) = [] →
      let gets := fun t : State => (t.slice q).gl = (s.slice q).gl ++ [⟨(s.slice q).glNext, c.p, c.e, g.id, f.tid.toNat, gleanList s c f, pool,
          f.wen, f.dsel, d, if f.dsel then g.base else relocLo s c (unitRange f.dadr (gleanEntries f * gleanPitch s c f)).clip, 0⟩] ∧
        { t with crofts := s.crofts, slices := s.slices, ctr := s.ctr } = s
      (∃ t, exec (.gleanCommandReceive c id) s = .next t ∧ gets t) ∧
      (g.stall.isSome = true → ∃ t, exec (.gleanSlotFree c id) s = .next t ∧ gets t)) ∧
    (32 ≤ (s.slice q).gl.length → g.stall = none → exec (.gleanCommandReceive c id) s =
      .next (modEngine s c.p id fun h => { h with stall := some s.now }))) ∧
  (∀ (s : State) (p : Fin 512) (layer : Fin 12) (u : Fin 4),
    let g := 4 * layer.val + u.val
    let x := tget glUnit0 (s.slice p).glUnits g
    let y := (s.slice p).sub u
    (x.row = none ∨ pairWaits s p u g = false ∨ y.stopped = true → exec (.gleanerYield p layer u) s = .next s) ∧
    (∀ o, x.row = some o → pairWaits s p u g = true → y.stopped = false →
      let s' := if 512 ≤ x.ops then s else notBefore s (x.since + 1500)
      let v := serveYield p u g 16 (bump s' (ctrSlice p 5) 1)
      exec (.gleanerYield p layer u) s = .next (pumpAll (finishRow (setSlice v p { v.slice p with
        glUnits := tset glUnit0 (v.slice p).glUnits g { tget glUnit0 (v.slice p).glUnits g with ops := 0, since := v.now } }) p g)) ∧
      ((∀ e ∈ y.queue, e.pair s = some g → e.writes = true ∧ e.meets s o = true) →
        (∀ r, nextRow (s.slice p) g = some r →
          shortOf (accrue s' (partAt s r.cmd.p)) (partAt s r.cmd.p) [(8 + p.val, 6144)] ≠ none) →
        (∀ e ∈ s.queues, e.2.sent = false) → s.dev.evSent = false →
        ∃ t, exec (.gleanerYield p layer u) s = .next t ∧ t.now = (if 512 ≤ x.ops then s.now else max s.now (x.since + 1500)) ∧
          tget glUnit0 (t.slice p).glUnits g = ⟨0, t.now, x.row, x.cmd, x.parts⟩ ∧ ((t.slice p).sub u).queue = y.queue ∧
          tget zeroN t.ctr (ctrSlice p 5) = tget zeroN s.ctr (ctrSlice p 5) + 1 ∧
          { t with now := s.now, dev := s.dev, ctr := s.ctr, slices := s.slices } = s)))

/-- CHAIN_VALUE_ARRIVE (R133 to R135, R139): a bag of the command received first whose every entry is NULL, and whose vector has the
tokens of its crossing, reads no row and gives a vector of +0 at its place in the destination, padded to the pitch (a bag of several NULL
entries under mean: log entry 93, the model's choice); the command goes on with its next bag, or leaves the slice and its instruction may
retire. A command behind it goes on waiting, as does a bag one of whose rows cannot be read now (R229, R230, R232). CHAIN_VALUE_ARRIVE
(R214, R259): a bag of the command received first, for whose activations or crossings a bucket holds too few tokens, waits at its
regulator.
REGULATOR_RELEASE (R214): the access that has waited longest at a regulator proceeds once it has its tokens, and its wait is counted; with
none that waits nothing changes. A READ that alone waits there has its bytes moved. -/
def Obligations.BagsDelivered : Prop :=
  (∀ (s : State) (p : Fin 512) (g : GlCmd) (gs : List GlCmd), (s.slice p).gl = g :: gs →
    (∀ k, k ≠ g.k → exec (.chainValueArrive p k) s = .next s) ∧
    (bagStopped s p g = true → exec (.chainValueArrive p g.k) s = .next s) ∧
    (g.dsel = false → (∀ u, u < 48 → (tget glUnit0 (s.slice p).glUnits u).part? g.k g.next = none) → (∀ x ∈ (bagsOf g.pool g.entries).getD g.next [], entNull x = true) → g.p < 512 → s.lsErr = [] →
      let v := accrue s (partAt s g.p)
      shortOf v (partAt s g.p) (bagDemand v p g) = none →
      let a := g.dest + g.next * outPitch g.shard
      a + outPitch g.shard ≤ Config.lsBytes →
      ∃ t, exec (.chainValueArrive p g.k) s = .next t ∧ t.mem = s.mem ∧
        lsRead t g.p a (outPitch g.shard) = List.replicate (outPitch g.shard) 0 ∧
        (t.slice p).gl = (if g.next + 1 < (bagsOf g.pool g.entries).length
          then mapIf (fun y => y.k == g.k) (fun y => { y with next := y.next + 1 }) (s.slice p).gl
          else (s.slice p).gl.filter fun y => y.k ≠ g.k))) ∧
  (∀ (s : State) (p : Fin 512) (key : Nat) (g : GlCmd) (gs : List GlCmd), (s.slice p).gl = g :: gs → bagStopped s p g = false →
    let u := accrue s (partAt s g.p)
    shortOf u (partAt s g.p) (bagDemand u p g) = some key →
    exec (.chainValueArrive p g.k) s = .next
      (modEngine u g.p g.id fun h => { h with gate := some (regOf key), stall := if h.stall.isSome then h.stall else some u.now })) ∧
  (∀ (s : State) (part : Fin 8) (r : Regulator),
    let u := accrue s part
    (∀ w, oldestWaiter (engineWaiters u part r ++ (portWaiter u part r).toList) = some w → tokenWait u part w.demand = some 0 →
      exec (.regulatorRelease part r) s = .next
        (w.go (takeTokens (bump (accrue u part) (ctrPart part (regIndex r)) (s.now - w.since)) part w.demand))) ∧
    (engineWaiters u part r = [] → portWaiter u part r = none → exec (.regulatorRelease part r) s = .next s) ∧
    (∀ (p : Fin 512) (g : Engine) (c : CtxId) (f : DmaF), partOf s p = some part.val →
      (∀ q, q < 512 → partOf s q = some part.val →
        (s.croft q).engines.filter (fun h => h.gate = some r) = if q = p.val then [g] else []) → s.link.portQ = [] →
      g.instr = .dmaRead c f →
      let a := BitVec.ofNat 64 g.base
      let ds := dmaDemand u c f .read a
      tokenWait u part ds = some 0 →
      exec (.regulatorRelease part r) s = .next
        (runRead (modEngine (takeTokens (bump (accrue u part) (ctrPart part (regIndex r)) (s.now - g.stall.getD s.now)) part ds) p g.id
          fun h => { h with gate := none, stall := none }) c g.id f a)))

/-- R356 to R360: the word stored for data at a location holds the data, and reads clean there. R360: a stored word with any one bit
inverted is correctable, and the bit named is the one inverted, so the correction gives the word back. SLICE_READ (R15, R199): a sector
that no cache and no buffer holds, that waits for no bank and whose stored words are clean: its four words' data go back, and nothing but
the counts changes; memory stays. -/
def Obligations.WordsCorrected : Prop :=
  (∀ (l : Loc) (d : BitVec 64), wordData (encodeWord l d) = d ∧ classify l (encodeWord l d) = .clean) ∧
  (∀ (l : Loc) (d : BitVec 64) (b : Nat), b < 80 →
    classify l (flipBit (encodeWord l d) b) = .corr b none ∧ (WClass.corr b none).fix (flipBit (encodeWord l d) b) = encodeWord l d) ∧
  (∀ (s : State) (p : Fin 512) (off : Nat) (src : Src) (q : Nat) (l : Loc), (s.slice p).lost = false → off % 32 = 0 →
    locate s p (sliceIndex s p) off = .ok (q, l) → s.sqc.find? (fun y => y.p == p.val && y.line == off / 128) = none →
    (s.slice p).wcb = [] → (s.slice p).mgb = [] → mustQueue s p off = none → s.found = [] →
    let w := fun i => wordAt s (bankKey s (routeRow s q l.k l.row) { l with w := i })
    (∀ i, i < 4 → syndrome { l with w := i } (w i) = 0) →
    ∃ t, exec (.sliceRead p off 32 src [] []) s = .next t ∧ { t with ctr := s.ctr, slices := s.slices, link := s.link } = s ∧
      t.link.out = .readData ((List.range 4).flatMap fun i => leBytes 8 (wordData (w i)).toNat) false :: s.link.out)

/-- SLICE_WRITE (R196, R356): a whole granule of the interleaved region goes to the banks as eight code words with their check bits; every
other byte of the banks stays, and so do crofts and local stores. SLICE_WRITE (R196 to R198): one whole code word waits in the
write-combining buffer, and one byte in the merge buffer, each in a line or word the buffers did not hold; no byte of the banks changes. A
lost slice discards the write. -/
def Obligations.SliceWrites : Prop :=
  (∀ (s : State) (p : Fin 512) (off : Nat) (data : List Byte) (src : Src) (q : Nat) (l0 : Loc), (s.slice p).lost = false →
    data.length = 64 → off % 64 = 0 → off + 64 ≤ (s.slice p).map.hc → locate s p (sliceIndex s p) off = .ok (q, l0) →
    s.sqc.find? (fun y => y.p == p.val && y.line == off / 128) = none → biTracked s p off src = false →
    mustQueue s p off = none → s.found = [] →
    ∃ t, exec (.sliceWrite p off ⟨data, []⟩ false src) s = .next t ∧ t.ls = s.ls ∧ t.crofts = s.crofts ∧ t.sqc = s.sqc ∧
      (∀ i, i < 8 → ∃ l, locate s p (sliceIndex s p) (off + 8 * i) = .ok (q, l) ∧
        getWord t q l = encodeWord l (BitVec.ofNat 64 (leNat ((data.drop (8 * i)).take 8)))) ∧
      (∀ key, (∀ i l, i < 8 → locate s p (sliceIndex s p) (off + 8 * i) = .ok (q, l) →
          ¬ (bankKey s (routeRow s q l.k l.row) l ≤ key ∧ key < bankKey s (routeRow s q l.k l.row) l + 10)) →
        tget memDefault t.mem key = tget memDefault s.mem key)) ∧
  (∀ (s : State) (p : Fin 512) (off : Nat) (src : Src),
    (∀ (data : Sent) (poison : Bool), (s.slice p).lost = true → exec (.sliceWrite p off data poison src) s = .next s) ∧
    ((s.slice p).lost = false → s.sqc.find? (fun y => y.p == p.val && y.line == off / 128) = none → biTracked s p off src = false →
      writeQueue s p off = none → s.found = [] → (s.slice p).wcb = [] → (s.slice p).mgb = [] →
      (∀ data : List Byte, off % 8 = 0 → data.length = 8 →
        exec (.sliceWrite p off ⟨data, []⟩ false src) s = .next (setSlice s p { s.slice p with
          wcb := [⟨off / 128, BitVec.twoPow 16 (off % 128 / 8), tsetList zero8 [] (8 * (off % 128 / 8)) data, s.now, 0⟩] })) ∧
      (∀ b : Byte, exec (.sliceWrite p off ⟨[b], []⟩ false src) s = .next (setSlice s p { s.slice p with
          mgb := [⟨off / 8, tset zero8 [] (off % 8) b, BitVec.twoPow 8 (off % 8), s.now, 0⟩] }))))

/-- WRITE_COMBINING_DRAIN (R197): 256 ns after its last write a line whose banks are free leaves the buffer, and its valid words are in the
banks with their check bits. READ_MODIFY_WRITE (R198, R200): 64 ns after it began to wait, a word of the merge buffer whose bank is free is
read, merged with its new bytes and written back with its check bits. -/
def Obligations.BuffersDrain : Prop :=
  (∀ (s : State) (p : Fin 512) (l : WcLine), (s.slice p).wcb.find? (fun y => y.line == l.line) = some l → l.bad = 0 → s.found = [] →
    128 * l.line + 128 ≤ (s.slice p).map.hc → (∃ x, locate s p (sliceIndex s p) (128 * l.line) = .ok x) →
    (∀ w, w < 16 → mustQueue s p (128 * l.line + 8 * w) = none) →
    ∃ t, exec (.writeCombiningDrain p l.line) s = .next t ∧ t.now = max s.now (l.last + 256) ∧
      (t.slice p).wcb = (s.slice p).wcb.filter (fun y => y.line ≠ l.line) ∧ t.ls = s.ls ∧ t.crofts = s.crofts ∧
      ∀ w, w < 16 → l.valid.getLsbD w = true → ∃ q x, locate s p (sliceIndex s p) (128 * l.line + 8 * w) = .ok (q, x) ∧
        getWord t q x = encodeWord x (BitVec.ofNat 64 (leNat (l.word w)))) ∧
  (∀ (s : State) (p : Fin 512) (m : MgWord) (q : Nat) (l : Loc), (s.slice p).mgb.find? (fun y => y.word == m.word) = some m → m.bad = 0 →
    locate s p (sliceIndex s p) (8 * m.word) = .ok (q, l) → classify l (getWord s q l) = .clean → writeQueue s p (8 * m.word) = none →
    ∃ t, exec (.readModifyWrite p m.word) s = .next t ∧ t.now = max s.now (m.since + 64) ∧
      (t.slice p).mgb = (s.slice p).mgb.filter (fun y => y.word ≠ m.word) ∧
      getWord t q l = encodeWord l (BitVec.ofNat 64 (leNat ((List.range 8).map fun i =>
        if m.mask.getLsbD i then tget zero8 m.bytes i else (leBytes 8 (wordData (getWord s q l)).toNat).getD i 0))) ∧
      tget zeroN t.ctr (ctrSlice p 16) = tget zeroN s.ctr (ctrSlice p 16) + 1 ∧ t.ls = s.ls ∧ t.crofts = s.crofts)

/-- IMBALANCE_WINDOW (R218): after 1 ms the granules of a window are judged and forgotten, and the next begins. A window in which no
sub-channel carried more than half is balanced and ends the run of imbalanced ones; an imbalanced one is counted. QUEUE_ENTRY_FREE (R219,
R222, R229, R232): an empty queue, and a sub-channel that is held or discards what it is sent, leave nothing to serve. Else the first
access whose granule waits for no resend, whose pair runs no gleaner, and before which none to its line or its pair waits, is served, and
its entry frees; a request that waited at its source takes it, and SC_CREDIT_WAIT counts its wait. REFRESH_DUE (R242, R243, R245): without power, and in a retired sub-channel, none falls due. While ordinary accesses to the bank are
queued, up to four of its refreshes are held; otherwise every pending one is issued, and the rows go round the bank's 8,192.
REFRESH_NORMAL_RETURN (R244): a tile at or below 83 °C for 1 s returns to the normal interval; one that is not is left alone. -/
def Obligations.BanksKept : Prop :=
  (∀ (s : State) (p : Fin 512),
    let x := s.slice p
    let g := fun u => tget zeroN x.gran u
    let total := g 0 + g 1 + g 2 + g 3
    let peak := subPeak (x.sub 0) + subPeak (x.sub 1) + subPeak (x.sub 2) + subPeak (x.sub 3)
    let s' := notBefore s (x.winAt + 1000000)
    ((∀ u, u < 4 → 2 * g u ≤ total) →
      exec (.imbalanceWindow p) s = .next (setSlice s' p { x with winAt := s'.now, gran := [], imbal := 0, share := (0, 0) })) ∧
    ((∃ u, u < 4 ∧ total < 2 * g u) → peak ≤ 20 * total → x.imbal + 1 < 100 →
      ∃ t, exec (.imbalanceWindow p) s = .next t ∧ (t.slice p).imbal = x.imbal + 1 ∧ (t.slice p).gran = [] ∧ (t.slice p).winAt = s'.now ∧
        tget zeroN t.ctr (ctrSlice p 18) = tget zeroN s.ctr (ctrSlice p 18) + 1 ∧ { t with slices := s.slices, ctr := s'.ctr } = s')) ∧
  (∀ (s : State) (p : Fin 512) (u : Fin 4),
    let y := (s.slice p).sub u
    (y.queue = [] ∨ y.stopped = true → exec (.queueEntryFree p u) s = .next s) ∧
    (∀ (e : QEntry) (rest : List QEntry), y.queue = e :: rest → e.untold = false → e.windowed s = false → y.stopped = false →
      awaitsResend y e.p e.off = false → (∀ k, e.bank s = some k → openRow s p k = none) → e.fails s = false →
      exec (.queueEntryFree p u) s = .next (pumpAll (serveEntry (takeEntry s p u rest) e))) ∧
    (∀ (before rest : List QEntry) (e : QEntry), y.queue = before ++ e :: rest → before.length < 64 →
      (∀ i (h : i < before.length), canServe s p u (before.take i) false before[i] = false) → canServe s p u before false e = true →
      e.fails s = false → exec (.queueEntryFree p u) s = .next (pumpAll (serveEntry (takeEntry s p u (before ++ rest)) e))) ∧
    (∀ rest : List QEntry,
      let t := takeEntry s p u rest
      (t.slice p).sub u = { y with queue := rest } ∧ (∀ q, q ≠ p.val → t.slice q = s.slice q) ∧ { t with slices := s.slices, ctr := s.ctr } = s ∧
      (rest.length < 64 → t.ctr = s.ctr) ∧
      (∀ w, rest[63]? = some w → tget zeroN t.ctr (ctrSlice p 19) = tget zeroN s.ctr (ctrSlice p 19) + 24 * (s.now - w.at0) / 10))) ∧
  (∀ (s : State) (p : Fin 512) (layer : Fin 12) (bank : Fin 8),
    let k := 8 * layer.val + bank.val
    let x := s.slice p
    let n := tget zeroN x.refPend k
    let off := logicRails s = false ∨ (x.sub (bank.val / 2)).width = .retired
    (off → exec (.refreshDue p layer bank) s = .next s) ∧
    (¬ off → bankWaits s p k = true → n < 4 →
      exec (.refreshDue p layer bank) s = .next (setSlice s p { x with refPend := tset zeroN x.refPend k (n + 1) })) ∧
    (¬ off → (bankWaits s p k = false ∨ 4 ≤ n) → ∃ t, exec (.refreshDue p layer bank) s = .next t ∧
      t.slice p = { (noteSent s p (bank.val / 2) (n + 1)).slice p with
        refPend := tset zeroN x.refPend k 0
        refRow := tset zeroN x.refRow k ((tget zeroN x.refRow k + n + 1) % 8192) } ∧
      tget zeroN t.ctr (ctrSlice p 30) = tget zeroN s.ctr (ctrSlice p 30) + (n + 1) ∧
      { t with slices := s.slices, ctr := s.ctr } = s)) ∧
  (∀ (s : State) (t : Fin 192),
    let at0 := tget zeroN s.therm.coolAt t
    (at0 = 0 → exec (.refreshNormalReturn t) s = .next s) ∧
    (at0 ≠ 0 → ∃ u, exec (.refreshNormalReturn t) s = .next u ∧ u.now = max s.now (at0 - 1 + 1000000000) ∧
      tget zeroB u.therm.dbl t = false ∧ (∀ i, i ≠ t.val → tget zeroB u.therm.dbl i = tget zeroB s.therm.dbl i) ∧ u.mem = s.mem))

/-- ERROR_RETURN (R228 to R230, R232): a command whose CRC-8 fails, or a write granule of the last 8 ns, is counted with what is resent, the
commands and write granules sent in the 8 ns before; a refused granule is then stored. The third resend that fails holds the sub-channel
and makes every link it used suspect. A command whose CRC-8 holds, and a retired or held sub-channel, are left alone. LINK_TEST_DONE
(R232): with every suspect link passed, the hold ends 1,064 ns after it began, no link is suspect, and the width and the spares stay.
LINK_TEST_DONE (R233, R235, R236): a data link that failed takes its group's spare, or folds the sub-channel to the half that is not its
own, or retires it where the working half has no spare left. RECENTRING_PASS (R239, R240): a pass comes 2 s after the last and finds every
eye wide: it is counted, sampling points move by at most two steps, and MARGIN is clear. A held sub-channel is skipped until its next
period, and a retired one, or one of a slice under migration, is not taken (R423). IDLE_BEAT_INSERT (R239): a pass without idle beats for 10 ms inserts at most 64 in any 10 µs;
CLOCK_PAIR_FAILURE (R233, R234): the spare pair takes over within 500 ns of hold, and the repair enters the defect map. -/
def Obligations.LinksTested : Prop :=
  (∀ (s : State) (p : Fin 512) (u : Fin 4) (cmd : Bool) (word : BitVec 60) (again : Bool),
    let y := (s.slice p).sub u
    let last := y.sent.filter fun e => decide (s.now ≤ e.1 + 8)
    let n := (last.map fun e => e.2.1 + e.2.2).foldl (· + ·) 0
    let s' := bump (bump s (ctrSlice p 20) 1) (ctrSlice p 21) n
    let fails := if cmd then cmdGood word = false else y.resend ≠ [] ∨ ∃ e ∈ last, 0 < e.2.2
    let freed := modSub s' p u fun y => { y with resend := [], tries := 0 }
    let cmds := (List.range 15).map (· + 320)
    let used := if cmd then cmds else linksOf y.width ++ cmds
    (y.width = .retired ∨ y.held = true ∨ ¬ fails → exec (.errorReturn p u cmd word again) s = .next s) ∧
    (y.width ≠ .retired → y.held = false → fails →
      exec (.errorReturn p u cmd word false) s = .next (pumpAll (storeResent s' p u)) ∧
      (y.resend = [] → storeResent s' p u = freed) ∧
      (∀ r, y.resend = [r] → storeResent s' p u = writeGran freed r.1 (sliceIndex freed r.1) r.2.1 r.2.2.1 r.2.2.2 .square .source) ∧
      (y.tries < 2 → exec (.errorReturn p u cmd word true) s = .next (modSub s' p u fun y => { y with tries := y.tries + 1 })) ∧
      (2 ≤ y.tries → (∃ l ∈ used, l ∉ y.suspect) → ∃ t, exec (.errorReturn p u cmd word true) s = .next t ∧
        ((t.slice p).sub u).held = true ∧ ((t.slice p).sub u).heldAt = s.now ∧ ((t.slice p).sub u).tries = 0 ∧
        (∀ l ∈ used, l ∈ ((t.slice p).sub u).suspect) ∧ { t with slices := s.slices, ctr := s.ctr } = s))) ∧
  (∀ (s : State) (p : Fin 512) (u : Fin 4),
    let y := (s.slice p).sub u
    (y.held = false → ∀ failed, exec (.linkTestDone p u failed) s = .next s) ∧
    (y.held = true → y.resend = [] → (∀ e ∈ s.queues, e.2.sent = false) → s.dev.evSent = false →
      ∃ t, exec (.linkTestDone p u []) s = .next t ∧ t.now = max s.now (y.heldAt + 1064) ∧
      (t.slice p).sub u = { y with held := false, suspect := [], tries := 0, hits := y.hits.filter fun h => ¬ y.suspect.contains h.link } ∧
      t.mem = s.mem ∧ t.crofts = s.crofts ∧ t.floor = s.floor)) ∧
  (∀ (y : SubCh) (l : Nat), l < 320 → inWidth y.width l = true → l ∉ y.badLink →
    let j := judgeData ⟨y, 0, none, false, [], []⟩ l
    (y.spUsed.getLsbD (linkGroup l) = false →
      j.retire = false ∧ j.spares = 1 ∧ j.shifted = (List.range (32 * (linkGroup l + 1))).drop (l + 1) ∧ j.sub = { y with spUsed := y.spUsed ||| BitVec.twoPow 10 (linkGroup l) }) ∧
    (y.spUsed.getLsbD (linkGroup l) = true → y.width = .full → y.badLink = [] →
      j.retire = false ∧ j.folded = some (if linkHalf l then .foldL else .foldH) ∧ j.sub.width = (if linkHalf l then .foldL else .foldH)) ∧
    (y.spUsed.getLsbD (linkGroup l) = true → y.width ≠ .full → j.retire = true)) ∧
  (∀ (s : State) (p : Fin 512) (u : Fin 4) (eyes : List (Fin 336 × Fin 12 × Fin 2 × Nat × Int)),
    let y := (s.slice p).sub u
    let s' := notBefore s (y.passAt + 2000000000)
    (y.width = .retired ∨ (s.croft p).mig = true → exec (.recentringPass p u eyes) s = .next s) ∧
    (y.width ≠ .retired → (s.croft p).mig = false → y.held = true → exec (.recentringPass p u eyes) s = .next (modSub s' p u fun y => { y with passAt := s'.now })) ∧
    (y.width ≠ .retired → (s.croft p).mig = false → y.held = false → (∀ x ∈ eyes, 35 ≤ x.2.2.2.1) →
      ∃ t, exec (.recentringPass p u eyes) s = .next t ∧ t.now = max s.now (y.passAt + 2000000000) ∧
        (t.slice p).sub u = { y with passAt := t.now, margin := false, lowRuns := [], sample := eyes.foldl movePoint y.sample } ∧
        tget zeroN t.ctr (ctrSlice p 28) = tget zeroN s.ctr (ctrSlice p 28) + 1 ∧
        t.mem = s.mem ∧ t.crofts = s.crofts) ∧
    (∀ (t : Table Int) (x : Fin 336 × Fin 12 × Fin 2 × Nat × Int), let k := Eye.key x
      tget zeroI t k - 2 ≤ tget zeroI (movePoint t x) k ∧ tget zeroI (movePoint t x) k ≤ tget zeroI t k + 2)) ∧
  (∀ (s : State) (p : Fin 512) (u : Fin 4),
    let y := (s.slice p).sub u
    (∀ n, y.held = false → y.width ≠ .retired → (s.croft p).mig = false → ∃ t, exec (.idleBeatInsert p u n) s = .next t ∧
      t.now = max s.now (y.passAt + 2010000000) ∧
      (let last := y.beats.filter fun b => decide (t.now < b.1 + 10000)
       let k := min n (64 - (last.map (·.2)).foldl (· + ·) 0)
       (t.slice p).sub u = { y with beats := last ++ [(t.now, k)] } ∧
         tget zeroN t.ctr (ctrSlice p 29) = tget zeroN s.ctr (ctrSlice p 29) + k) ∧
      t.mem = s.mem ∧ t.crofts = s.crofts) ∧
    (y.width ≠ .retired → y.clkSp = false → evEn s.dev = false → ∃ t, exec (.clockPairFailure p u) s = .next t ∧ t.now = s.now + 500 ∧
      (t.slice p).sub u = { y with clkSp := true } ∧ s.floor.gen < t.floor.gen ∧ .clock p u ∈ t.floor.defects.use ∧ t.mem = s.mem ∧
      t.crofts = s.crofts))

/-- D2D_FRAME and D2D_NEGATIVE_ACK (R250, R251) on an open group: a frame in sequence whose CRC-32C holds is delivered, which frees its
replay buffer and moves the expected number on; a bad one is answered with a negative acknowledgement, and the fourth bad copy sends the
group to retraining. A negative acknowledgement resends that frame and those after it; without a bad frame behind it, nothing.
GROUP_RETRAIN_DONE and D2D_RECENTRING (R251 to R253, R421): a suspect group that has retrained is counted, and without a failed lane it carries
frames again; one that is not suspect retrains 24 h after its last training, while no other of its port and direction does. At the pass of
every 2 s the sampling points move by at most two steps, idle frames are inserted only 10 ms later and at most 16 in any 10 µs, and an eye
below 0.20 UI sends the group to retraining. PORT_TRAINING_EXCHANGE (R254, R255): in TRAIN, straps
that name the port's village confirm it. BELL_LANE_FAILURE (R261): the first two failures of a direction take spares, which the port
counts. REEVE_WATCHDOG and REEVE_SELFTEST_DONE (R280, R345): reeve 0's expiry is FATAL; a command reeve that no command is served by is
halted, and its self-test of 10 µs brings it back. -/
def Obligations.PortsCarry : Prop :=
  (∀ (s : State) (v : Fin 4) (dir : Fin 2) (g : Fin 16), groupOpen s v dir g = true →
    let x := (s.port v).group dir g
    (∀ frame : BitVec 2080, crc32c (frameBytes (frame.extractLsb' 0 2048)) = frame.extractLsb' 2048 32 →
      ∃ t, exec (.d2dFrame v dir g x.expect frame) s = .next t ∧ ((t.port v).group dir g).expect = x.expect + 1 ∧
        ((t.port v).group dir g).fails = 0 ∧ x.expect ∉ ((t.port v).group dir g).replay ∧ { t with ports := s.ports } = s) ∧
    (∀ frame : BitVec 2080, crc32c (frameBytes (frame.extractLsb' 0 2048)) ≠ frame.extractLsb' 2048 32 →
      ∃ t, exec (.d2dFrame v dir g x.expect frame) s = .next t ∧ ((t.port v).group dir g).expect = x.expect ∧
        ((t.port v).group dir g).fails = x.fails + 1 ∧ ((t.port v).group dir g).train = decide (3 < x.fails + 1) ∧
        ((t.port v).group dir g).nak = some x.expect ∧ t.link.out = .d2dNak v dir g x.expect :: s.link.out ∧
        { t with ports := s.ports, link := s.link } = s) ∧
    (∀ sn, x.nak = some sn → ∃ t, exec (.d2dNegativeAck v dir g sn) s = .next t ∧ (t.port v).group dir g = { x with nak := none } ∧
      tget zeroN t.ctr (ctrPort v dir 0) = tget zeroN s.ctr (ctrPort v dir 0) + (x.replay.dropWhile fun y => y ≠ sn).length ∧
      { t with ports := s.ports, ctr := s.ctr } = s) ∧
    (∀ sn, x.nak ≠ some sn → exec (.d2dNegativeAck v dir g sn) s = .next s)) ∧
  (∀ (s : State) (v : Fin 4) (dir : Fin 2) (g : Fin 16),
    let x := (s.port v).group dir g
    (groupFree s v dir g = false → ∀ bad, exec (.groupRetrainDone v dir g bad) s = .next s) ∧
    ((s.port v).lost = false → x.retired = false → x.train = true → ∃ t, exec (.groupRetrainDone v dir g false) s = .next t ∧
      (t.port v).group dir g = { x with train := false, fails := 0, nak := none, trainAt := s.now } ∧
      tget zeroN t.ctr (ctrPort v dir 1) = tget zeroN s.ctr (ctrPort v dir 1) + 1 ∧ { t with ports := s.ports, ctr := s.ctr } = s) ∧
    ((s.port v).lost = false → x.retired = false → (∀ h, h < 16 → ((s.port v).group dir h).train = false) →
      ∃ t, exec (.groupRetrainDone v dir g false) s = .next t ∧ t.now = max s.now (x.trainAt + dayNs) ∧
        (t.port v).group dir g = { x with train := false, fails := 0, nak := none, trainAt := t.now } ∧
        tget zeroN t.ctr (ctrPort v dir 1) = tget zeroN s.ctr (ctrPort v dir 1) + 1 ∧ t.mem = s.mem ∧ t.crofts = s.crofts) ∧
    (groupOpen s v dir g = true → ∀ pass : LanePass, ∃ t, exec (.d2dRecentring v dir g pass) s = .next t ∧
      t.now = max s.now (x.passAt + if pass.idle = 0 then 2000000000 else 2010000000) ∧
      (let last := x.idle.filter fun b => decide (t.now < b.1 + 10000)
       (t.port v).group dir g = { x with
         passAt := t.now
         sample := pass.eyes.foldl moveLane x.sample
         idle := if pass.idle = 0 then last else last ++ [(t.now, min pass.idle (16 - (last.map (·.2)).foldl (· + ·) 0))]
         train := pass.eyes.any fun y => decide (y.width < 20) }) ∧
      t.mem = s.mem ∧ t.crofts = s.crofts)) ∧
  (∀ (t : Table Int) (x : LaneEye),
    tget zeroI t x.lane - 2 ≤ tget zeroI (moveLane t x) x.lane ∧ tget zeroI (moveLane t x) x.lane ≤ tget zeroI t x.lane + 2) ∧
  (∀ (s : State) (port : Fin 4) (rot : BitVec 2) (mir : Bool), s.boot.stage = .train → (s.port port).trained = false →
    strapVillage rot mir = some port.val →
    exec (.portTrainingExchange port rot mir) s = .next (genUp (setPort s port { s.port port with rot := rot, mir := mir, trained := true, idOk := true }))) ∧
  (∀ (s : State) (v : Fin 4) (dir : Fin 2), evEn s.dev = false →
    let n := tget zeroN (s.port v).bellBad dir
    n < 2 → ∃ t, exec (.bellLaneFailure v dir) s = .next t ∧ tget zeroN (t.port v).bellBad dir = n + 1 ∧
      tget zeroN t.ctr (ctrPort v dir 4) = tget zeroN s.ctr (ctrPort v dir 4) + 1 ∧ .bellLane v dir ∈ t.floor.defects.use ∧
      t.mem = s.mem ∧ t.crofts = s.crofts) ∧
  (∀ (s : State),
    (s.dev.fatal = false → evEn s.dev = false → ∃ t, exec (.reeveWatchdog 0) s = .next t ∧ t.dev.fatal = true ∧
      t.mem = s.mem ∧ t.crofts = s.crofts ∧ t.reeves = s.reeves) ∧
    (∀ r : Fin 16, r ≠ 0 → s.reeve r = .healthy → s.cmds = [] →
      exec (.reeveWatchdog r) s = .next (genUp (setReeve (bump s (ctrReeve r) 1) r .halted))) ∧
    (∀ r : Fin 16, s.reeve r = .halted → evEn s.dev = false → ∃ t, exec (.reeveSelftestDone r true) s = .next t ∧
      t.reeve r = .healthy ∧ t.now = s.now + 10000 ∧ (∀ q, q ≠ r.val → t.reeve q = s.reeve q) ∧ t.mem = s.mem ∧ t.crofts = s.crofts))

/-- LOCKSTEP_ARM and LOCKSTEP_DISARM (R296): a command whose partition is not relaxed, has no request and can be armed sends ARM with its
contract level and waits for the twin; one that R296 turns away completes with LOCKSTEP_STATE. DISARM of the armed partition tells the
twin and ends lock-step. ARM_TIMEOUT and TWIN_ARM (R296): a second after its ARM the command completes with LOCKSTEP_STATE and nothing is
armed. The twin's ARM within that second with an equal level, while the conditions still hold, arms the partition with pairing from 0 and
no record; one with another level, and one that finds a condition broken, fails the command, and so does one that comes later. -/
def Obligations.LockstepArms : Prop :=
  (∀ (s : State) (cid : Nat) (c : Cmd),
    (deviceTurn s cid 0x0901 = some c → (tget ptabReset s.ptab (pktPart c.pkt)).clean = true →
      let k := pktPart c.pkt
      (s.twin.linkUp = false ∨ pentRelaxed (s.pent k) = true ∨ admitted s k ≠ [] ∨ s.twin.arming.isSome = true ∨
          (∃ j, s.twin.armed = some j ∧ (j ≠ k ∨ s.twin.blocked = false)) →
        exec (.lockstepArm cid) s = .next (finish s cid 0x0014 0)) ∧
      (pentRelaxed (s.pent k) = false → admitted s k = [] → s.twin.linkUp = true →
        s.twin.arming = none → s.twin.armed = none → s.twin.level = none →
        ∃ t, exec (.lockstepArm cid) s = .next t ∧ t.twin.arming = some (cid, k, s.now) ∧ t.twin.armed = none ∧
          t.link.out = .twin (twinMsg 1 0 [if pentLevel (s.pent k) then 1 else 2]) :: s.link.out ∧
          t.cmds = mapIf (fun d => d.id == cid) (fun d => { d with stage := .begun }) s.cmds ∧ t.mem = s.mem ∧ t.crofts = s.crofts)) ∧
    (deviceTurn s cid 0x0902 = some c → s.twin.armed = some (pktPart c.pkt) →
      exec (.lockstepDisarm cid) s = .next (finish (disarm (sendTwin s 8 0 [])) cid 0 0))) ∧
  (∀ (s : State) (cid k t0 : Nat), s.twin.arming = some (cid, k, t0) →
    let ours : BitVec 64 := if pentLevel (s.pent k) then 1 else 2
    (let u := notBefore s (t0 + 1000000000);
      exec .armTimeout s = .next (finish { u with twin := { u.twin with arming := none } } cid 0x0014 0)) ∧
    (s.now ≤ t0 + 1000000000 → armBarred s k = false →
      ∃ u, exec (.twinArm ours) s = .next (finish u cid 0 0) ∧
        u.twin.armed = some k ∧ u.twin.nextK = 0 ∧ u.twin.cmds = [] ∧ u.twin.hashes = [] ∧ u.twin.arming = none ∧
        (∀ i p, computeOf s k i = some p → i < 512 → (u.croft p).dirty = [] ∧ (u.croft p).remote = []) ∧ u.mem = s.mem ∧ u.ls = s.ls) ∧
    (∀ level, s.now ≤ t0 + 1000000000 → (level ≠ ours ∨ armBarred s k = true) →
      exec (.twinArm level) s = .next (finish { s with twin := { s.twin with arming := none, level := none } } cid 0x0014 0)) ∧
    (∀ level, t0 + 1000000000 < s.now →
      exec (.twinArm level) s = .next (finish { s with twin := { s.twin with arming := none, level := some (level, s.now) } } cid 0x0014 0)))

/-- TWIN_CMD, HASHSET, CREC, TWIN_FAIL, TERMS (R297, R301, R302, R304): while no partition is armed the twin's messages change nothing; an
equal opcode is kept, and an unequal one diverges with kind 4. HASHSET (R299 to R301): the twin's hashes of a point equal the local ones:
the pair is compared and counted, the wait ends, and the records of R300 are empty in every croft of the request. A difference holds the
partition and begins the search of R302. CREC (R301): the twin's completion fields are kept; where this unit's are not in yet nothing else
happens, and fields that differ diverge with kind 3. TERMS (R302): a term that differs ends the search with the divergence. -/
def Obligations.TwinsCompare : Prop :=
  (∀ (s : State) (k : BitVec 32),
    (s.twin.armed = none → ∀ (o st : BitVec 64) (pt : BitVec 32) (hs : List (BitVec 64)) (f : BitVec 128) (ts : List (BitVec 64 × BitVec 64)),
      exec (.twinCmd k o) s = .next s ∧ exec (.hashset k pt hs) s = .next s ∧ exec (.crec k f) s = .next s ∧
      exec (.twinFail k st) s = .next s ∧ exec (.terms k ts) s = .next s) ∧
    (∀ (part cid : Nat) (op : BitVec 16) (o : BitVec 64), s.twin.armed = some part →
      s.twin.cmds.find? (fun x => x.1 == k.toNat) = some (k.toNat, cid, op) →
      let u := { s with twin := { s.twin with theirCmd := s.twin.theirCmd ++ [(k.toNat, o.extractLsb' 0 16)] } };
      (op = o.extractLsb' 0 16 → exec (.twinCmd k o) s = .next u) ∧
      (op ≠ o.extractLsb' 0 16 → exec (.twinCmd k o) s = .next (divergeAt u k.toNat 4)))) ∧
  (∀ (s : State) (k pt : BitVec 32) (hs ours : List (BitVec 64)) (part e : Nat), s.twin.armed = some part →
    slotOfPair s part k.toNat = some e → s.twin.probing = none → hashesOf s.twin.hashes k.toNat pt = some ours →
    hashesOf s.twin.theirs k.toNat pt = none →
    (hs = ours → ∃ t, exec (.hashset k pt hs) s = .next t ∧ t.twin.waiting = none ∧ t.twin.blocked = s.twin.blocked ∧
      tget zeroN t.ctr (ctrSquare 13) = tget zeroN s.ctr (ctrSquare 13) + 1 ∧
      (∀ c ∈ slotCtxs s part e, (t.croft c.p).dirty = [] ∧ (t.croft c.p).remote = []) ∧ t.mem = s.mem ∧ t.ls = s.ls) ∧
    (hs ≠ ours → ∃ t q, exec (.hashset k pt hs) s = .next t ∧ t.twin.blocked = true ∧ t.twin.probing = some q ∧ q.k = k.toNat ∧
      q.lc = lowestDiff ours hs ∧ t.mem = s.mem ∧ t.crofts = s.crofts)) ∧
  (∀ (s : State) (k : BitVec 32) (part : Nat), s.twin.armed = some part →
    (∀ f : BitVec 128,
      let u := { s with twin := { s.twin with theirRec := s.twin.theirRec ++ [(k.toNat, f)] } };
      (ourCrec s k.toNat = none → exec (.crec k f) s = .next u) ∧
      (∀ ours, ourCrec s k.toNat = some ours → ours ≠ f → exec (.crec k f) s = .next (divergeAt u k.toNat 3))) ∧
    (∀ (q : Probing) (c : CtxId) (ts : List (BitVec 64 × BitVec 64)) (i : Nat), s.twin.probing = some q → q.k = k.toNat →
      pairedCtx s part q.k q.lc = some c →
      let a := inRange (termsOf s c q.kind) q.lo lastIndex;
      let b := ts.map fun t => (t.1.toNat, t.2);
      firstDiff a b = some i → exec (.terms k ts) s = .next (diverge s q.k q.kind (termFields s c q i a b))))

/-- TWIN_FAIL (R304): the paired command here fails with TWIN_FAILED, or is aborted where the twin's was, and the failure is counted; one
for a number not yet admitted here is kept. PROBE (R302) is answered with the terms asked for. TWIN_DISARM ends lock-step, and with it a
hold at a hash point, whose time TW_HASH_NS counts (R307).
TWIN_MESSAGE_TIMEOUT (R305): a message missing for 10 ms at a hold ends the command of the pair held with LOCKSTEP_LOST, disarms the
partition and raises TWIN_LOST. The last messages are sent again after a CRC failure (R301). R485: the twin link trains once the rails are
good; when it loses lock with no partition armed, the event names the lanes still locked. -/
def Obligations.TwinsFail : Prop :=
  (∀ (s : State) (k : BitVec 32) (part : Nat), s.twin.armed = some part →
    (∀ cid st, pairCmd s k.toNat = some cid → exec (.twinFail k st) s =
      .next (failPaired (bump s (ctrSquare 17) 1) k.toNat (if st = 1 then 0x0001 else 0x0012) (if st = 1 then 0 else st.toNat))) ∧
    (∀ st, pairCmd s k.toNat = none → s.twin.nextK ≤ k.toNat → exec (.twinFail k st) s =
      .next { s with twin := { s.twin with theirFail := s.twin.theirFail ++ [(k.toNat, st)] } }) ∧
    (∀ (lc : BitVec 16) (kind : BitVec 8) (lo hi : BitVec 52) (c : CtxId), pairedCtx s part k.toNat lc.toNat = some c →
      ∃ t, exec (.probe k lc kind lo hi) s = .next t ∧
        t.link.out = .twin (twinMsg 7 k.toNat ((inRange (termsOf s c kind.toNat) lo.toNat hi.toNat).flatMap fun x =>
          [BitVec.ofNat 64 x.1, x.2])) :: s.link.out ∧
        { t with twin := s.twin, link := s.link } = s) ∧
    (∃ t, exec .twinDisarm s = .next t ∧ t.twin.armed = none ∧ t.twin.record = s.twin.record ∧
      (s.twin.heldAt = none → t.ctr = s.ctr) ∧
      (∀ j t0, s.twin.heldAt = some (j, t0) →
        tget zeroN t.ctr (ctrSquare 14) = tget zeroN s.ctr (ctrSquare 14) + (s.now - t0)) ∧
      { t with twin := s.twin, ctr := s.ctr } = s)) ∧
  (∀ (s : State) (part k t0 : Nat), s.twin.armed = some part → s.twin.waiting = some (k, t0) →
    let u := notBefore s (t0 + 10000000)
    let lost := fun x : State => raise (bump (disarm x) (ctrSquare 18) 1) 0x000A 2 [(16, 1, part)]
    (pairCmd s k = none → exec .twinMessageTimeout s = .next (lost u)) ∧
    (∀ cid, pairCmd s k = some cid → exec .twinMessageTimeout s = .next (lost (endCommand u cid 0x0013 0 false).2)) ∧
    (∀ n, n ≤ s.twin.buffer.length → ∃ t, exec (.twinMessageCrcFail n) s = .next t ∧
      t.link.out = ((s.twin.buffer.drop (s.twin.buffer.length - n)).reverse.map fun m => .twin m) ++ s.link.out ∧
      tget zeroN t.ctr (ctrSquare 15) = tget zeroN s.ctr (ctrSquare 15) + n ∧ { t with link := s.link, ctr := s.ctr } = s)) ∧
  (∀ s : State,
    (s.boot.rails = true → exec .twinLinkTrain s = .next (bump { s with twin := { s.twin with linkUp := true } } (ctrSquare 61) 1)) ∧
    (∀ lanes : BitVec 4, s.twin.linkUp = true →
      let u := { s with twin := { s.twin with linkUp := false } };
      (s.twin.armed = none → exec (.twinLinkDown lanes) s = .next (raise u 0x0406 0 [(16, 1, lanes.toNat)])) ∧
      (s.twin.armed.isSome = true → exec (.twinLinkDown lanes) s = .next u)))

/-- DOORBELL (R310, R311, R343, R523): at an enabled pair a write with neither valid bit moves nothing; a tail below the ring size is
taken, with the time it came for the entries it makes visible; a head that is reachable frees entries. Any doorbell of a disabled pair, and a pointer outside its ring, is
a queue fault of kind 0. QUEUE_ENABLE and QUEUE_DISABLE (R308, R309, R347, R523): enabling a pair whose rings are in host memory sets
every pointer to 0 and the phase to 1; a mask that mixes contract levels is a queue fault of kind 1. Disabling a pair with nothing in
flight clears EN at once. COALESCE_TIMEOUT (R349, R467): COALUS microseconds after the first unsignalled record the pair's vector is sent, and
the count starts again; nothing is sent while the link is down. -/
def Obligations.QueuePairsServe : Prop :=
  (∀ (s : State) (q : Fin 4096) (w : BitVec 64), (s.queue q).base.clean = true → s.brought = [] →
    let x := s.queue q
    let tail := (w.extractLsb' 0 16).toNat
    let head := (w.extractLsb' 32 16).toNat
    let rung := if tail = x.sqtail then x.rung else x.rung ++ ringBell s q x tail
    let fault := exec (.doorbell q w) s = .next (raise s 0x000B 1 [(16, 2, q.val), (18, 1, 0)])
    (qEn x = false → fault) ∧
    (qEn x = true → w.getLsbD 16 = true → qSqSize x ≤ tail → fault) ∧
    (qEn x = true → w.getLsbD 48 = true → (qCqSize x ≤ head ∨ cqUsed x < (head + qCqSize x - x.cqhead) % qCqSize x) → fault) ∧
    (qEn x = true → x.hold = [] →
      (w.getLsbD 16 = false → w.getLsbD 48 = false → ∃ t, exec (.doorbell q w) s = .next t ∧ t.queue q = x ∧ { t with queues := s.queues } = s) ∧
      (w.getLsbD 16 = true → w.getLsbD 48 = false → tail < qSqSize x →
        exec (.doorbell q w) s = .next (setQueue s q { x with sqtail := tail, cut := x.cut && decide (tail = x.sqtail), rung := rung })) ∧
      (w.getLsbD 16 = false → w.getLsbD 48 = true → head < qCqSize x → (head + qCqSize x - x.cqhead) % qCqSize x ≤ cqUsed x →
        exec (.doorbell q w) s = .next (setQueue s q { x with cqhead := head })))) ∧
  (∀ (s : State) (q : Fin 4096) (b : QBase), (s.queue q).base = Tri.same b →
    (b.en = false → ((s.queue q).cfg.extractLsb' 8 4).toNat ≤ 12 → ((s.queue q).cfg.extractLsb' 12 4).toNat ≤ 12 →
      (∀ k, k < 8 → (tget ptabReset s.ptab k).clean = true) → s.brought = [] →
      (mixedLevels s (s.queue q) = false → qSqDev (s.queue q) = false → qCqDev (s.queue q) = false →
        exec (.queueEnable q) s = .next (setQueue s q { s.queue q with
          base := Tri.same { b with en := true }, sqhead := 0, cqtail := 0, sqtail := 0, cqhead := 0, phase := true, faulted := false,
          closing := false, hold := [], unsig := 0, unsigAt := 0, stallAt := none, sent := false, cut := false, rung := [] })) ∧
      (mixedLevels s (s.queue q) = true → exec (.queueEnable q) s = .next (raise s 0x000B 1 [(16, 2, q.val), (18, 1, 1)]))) ∧
    (b.en = true → (s.queue q).closing = false → (s.queue q).faulted = false → (s.queue q).hold = [] → (s.queue q).stallAt = none →
      (∀ c ∈ s.cmds, c.q ≠ q.val) →
      exec (.queueDisable q) s = .next (setQueue s q { s.queue q with base := Tri.same { b with en := false } }))) ∧
  (∀ (s : State) (q : Fin 4096), 0 < (s.queue q).unsig → 0 < qCoalUs (s.queue q) →
    let u := setQueue (notBefore s ((s.queue q).unsigAt + 1000 * qCoalUs (s.queue q))) q { s.queue q with unsig := 0 };
    (linkHeld s = false → exec (.coalesceTimeout q) s = .next (if qIen (s.queue q) then sendMsix u (qVec (s.queue q)) else u)) ∧
    (linkHeld s = true → exec (.coalesceTimeout q) s = .next s))

/-- R347: a pair whose PMASK mixes contract levels is not enabled, and QUEUE_FAULT is raised; the records of a pair take the level of its
partitions, and those of a pair with PMASK = 0 level 2. -/
def Obligations.PairsTakeOneLevel : Prop :=
  ∀ (s : State) (q : Fin 4096),
    (∀ (b : QBase) (j k : Nat), (s.queue q).base = Tri.same b → b.en = false → ((s.queue q).cfg.extractLsb' 8 4).toNat ≤ 12 →
      ((s.queue q).cfg.extractLsb' 12 4).toNat ≤ 12 → j < 8 → k < 8 → (qMask (s.queue q)).getLsbD j = true →
      (qMask (s.queue q)).getLsbD k = true → pentLevel (s.pent j) = true → pentLevel (s.pent k) = false →
      ∃ t, exec (.queueEnable q) s = .next t ∧ (t.queue q).base.use.en = false ∧ t.dev.errstatus.getLsbD 22 = true) ∧
    (qMask (s.queue q) = 0 → recLenOf s (s.queue q) = 32) ∧
    ((∀ k, k < 8 → (qMask (s.queue q)).getLsbD k = true → pentLevel (s.pent k) = false) → recLenOf s (s.queue q) = 32) ∧
    (qMask (s.queue q) ≠ 0 → (∀ k, k < 8 → (qMask (s.queue q)).getLsbD k = true → pentValid (s.pent k) = true ∧ pentLevel (s.pent k) = true) →
      recLenOf s (s.queue q) = 16)

/-- R349: a pair with IEN = 1 sends its vector with the record that makes COALCNT + 1 unsignalled, with a record that is no SUCCESS at
once, and COALUS microseconds after the first unsignalled record; a record with NOIRQ counts towards none. -/
def Obligations.PairsSignal : Prop :=
  ∀ (s : State) (q : Fin 4096), let x := s.queue q; qIen x = true →
    let sent := fun u : State => sendMsix (setQueue u q { x with unsig := 0 }) (qVec x);
    (∀ r : CRec,
      (r.status ≠ 0 → signal s q r = sent s) ∧
      (r.status = 0 → r.noirq = true → signal s q r = s) ∧
      (r.status = 0 → r.noirq = false → qCoalCnt x + 1 ≤ x.unsig + 1 → signal s q r = sent s) ∧
      (r.status = 0 → r.noirq = false → x.unsig + 1 < qCoalCnt x + 1 → signal s q r = setQueue s q { x with
        unsig := x.unsig + 1, unsigAt := if x.unsig = 0 then s.now else x.unsigAt })) ∧
    (0 < x.unsig → 0 < qCoalUs x → linkHeld s = false → exec (.coalesceTimeout q) s = .next (sent (notBefore s (x.unsigAt + 1000 * qCoalUs x))))

/-- COMMAND_FETCH (R279, R312, R318, R327, R343): a pair with no completion entry to reserve fetches nothing, and the stall begins; a
one-entry command that passes its checks is fetched from a host ring by the reeve that serves the pair, SQHEAD advances, and a partition
command joins its partition's order. RUN and RUN_CHAINED (R327, R447): a fetched RUN takes its place in the admission order; during a
cooling fault it completes with THERMAL. -/
def Obligations.CommandsTaken : Prop :=
  (∀ (s : State) (q : Fin 4096) (p : BitVec 512) (more : List RingEntry), mayFetch s q = true → (s.queue q).base.clean = true →
    (hasEntry s q = false → exec (.commandFetch q (⟨p, false, .data⟩ :: more)) s =
      .next (setQueue s q { s.queue q with stallAt := if (s.queue q).stallAt.isSome then (s.queue q).stallAt else some s.now })) ∧
    (hasEntry s q = true → qSqDev (s.queue q) = false → s.link.ide ≠ .insecure → pktField p 9 1 % 4 = 0 →
      checkCmd s (s.queue q) p [] = none → reeveErrs s (servedBy s q) = [] → s.fwErr = [] →
      (tget ptabReset s.ptab (pktPart p)).clean = true →
      ∃ t, exec (.commandFetch q (⟨p, false, .data⟩ :: more)) s = .next t ∧
        t.cmds = s.cmds ++ [⟨s.nextCmd, q, p, [], .checked, 0, 0, none, [], s.now, s.now, [], none, none, none, servedBy s q,
          (rungAt s (s.queue q) 1).1, (rungAt s (s.queue q) 1).2, decide (pktOp p = 0x0302) && namedBefore s p⟩] ∧ t.nextCmd = s.nextCmd + 1 ∧
        (t.queue q).sqhead = ((s.queue q).sqhead + 1) % qSqSize (s.queue q) ∧ (t.queue q).cqtail = (s.queue q).cqtail ∧
        (t.part (pktPart p)).adm = (s.part (pktPart p)).adm ++ (if isPartOp (pktOp p) then [s.nextCmd] else []) ∧
        t.crofts = s.crofts ∧ t.dev = s.dev ∧ (s.sqc = [] → t.mem = s.mem ∧ t.slices = s.slices))) ∧
  (∀ (s : State) (cid : Nat) (c : Cmd),
    (waitingCmd s cid 0x0101 = some c → exec (.run cid) s = .next (if s.therm.coolfault then finish s cid 0x0010 0
      else { s with cmds := mapIf (fun d => d.id == cid) (fun d => { d with stage := .ordered }) s.cmds })) ∧
    (waitingCmd s cid 0x0102 = some c → exec (.runChained cid) s = .next (if s.therm.coolfault then finish s cid 0x0010 0
      else { s with cmds := mapIf (fun d => d.id == cid) (fun d => { d with stage := .ordered }) s.cmds })))

/-- MEM_FILL and MEM_COPY (R337): a fill that reaches every byte writes whole words of its pattern; a copy between disjoint ranges of
device memory, while a granule of its source waits for its bank, waits too (R219), and with no poison in its source it writes the source's
bytes; poison in the source ends it with POISON and the address of the
first poisoned granule. LOAD_TABLE (R125, R336): a table no slice can take completes with BAD_TABLE and writes nothing; a sound source in
device memory writes the rows, and the descriptor becomes VALID with its fields from the command. -/
def Obligations.DataCommands : Prop :=
  (∀ (s : State) (c : Cmd),
    (Begins s c 0x0202 → let u := begun s c; let k := pktPart c.pkt; let a := pktField c.pkt 16 8; let n := pktField c.pkt 24 8;
      reachable u k a n = n →
      exec (.memFill c.id) s = .next (settle (fillVia u (viaPart k) a n (BitVec.ofNat 64 (pktField c.pkt 32 8)) .reeve (.command c.id)) c.id 0 0)) ∧
    (Begins s c 0x0203 → c.data = none → let u := begun s c; let k := pktPart c.pkt; let src := pktField c.pkt 16 8;
      let dst := pktField c.pkt 24 8; let n := pktField c.pkt 32 8; let sp := pktField c.pkt 40 1;
      0 < n → spaceOf (BitVec.ofNat 64 src) = 0 → spaceOf (BitVec.ofNat 64 dst) = 0 → rangesMeet src dst n (decide (sp = k)) = false →
      let r := fetchVia u (viaPart sp) (addrOf (BitVec.ofNat 64 src)) n sp (.command c.id);
      (readWaits u (viaPart sp) (addrOf (BitVec.ofNat 64 src)) n (.command c.id) = [] → r.1.isSome = true) ∧
      (r.1 = none → exec (.memCopy c.id) s = .next (modCmd r.2 c.id fun d => { d with stage := .begun })) ∧
      (∀ bs, r.1 = some bs → let v := dropBrought r.2 (.command c.id);
        reachable v k (addrOf (BitVec.ofNat 64 dst)) bs.length = bs.length →
        let t := writeVia v (viaPart k) (addrOf (BitVec.ofNat 64 dst)) (bs.map (·.1))
          (fun i => (bs[i]?.map fun b : Byte × Bool => b.2).getD false) .reeve (.command c.id);
        exec (.memCopy c.id) s = .next (match poisonAt src bs with
          | some a => settle t c.id 0x0009 a
          | none => settle t c.id 0 0)))) ∧
  (∀ (s : State) (c : Cmd), Begins s c 0x0201 → c.data = none →
    let u := begun s c; let p := c.pkt; let k := pktPart p; let tid := pktField p 36 1; let src := pktField p 16 8;
    (loadTarget u k tid (newShard u k p 0) = none → exec (.loadTable c.id) s = .next (settle u c.id 0x000D 0)) ∧
    (∀ q, loadTarget u k tid (newShard u k p 0) = some q → pktField p 37 1 % 16 ≠ 15 → 0 < tableBytes p →
      spaceOf (BitVec.ofNat 64 src) = 0 →
      let r := fetchVia u (viaPart k) (addrOf (BitVec.ofNat 64 src)) (tableBytes p) k (.command c.id);
      (r.1 = none → exec (.loadTable c.id) s = .next (modCmd r.2 c.id fun d => { d with stage := .begun })) ∧
      (∀ bs, r.1 = some bs → (∀ b ∈ bs, b.2 = false) → let w := dropBrought r.2 (.command c.id);
        let d := newShard w k p 0;
        let v := dropLost (setShard w q tid d) fun w => lostKind w == 0 && lostPart w == k && lostTid w == tid;
        reachable v k d.wbase.toNat bs.length = bs.length →
        d.valid = true ∧ d.lost = 0 ∧ d.wbase = BitVec.ofNat 64 (pktField p 24 8) ∧
        exec (.loadTable c.id) s = .next (settle (putPart v c.id k d.wbase.toNat bs).2 c.id 0 0))))

/-- SESSION_OPEN, SESSION_APPEND and SESSION_CLOSE (R158, R159, R170, R171): opening a FREE slot takes the lowest range that fits and
zeroes its pages, and the slot is OPEN when the record goes out; appending commits the positions, or rolls back on poison in the source
and on a lost unit; appending to a slot of another partition completes with BAD_SESSION; closing makes the slot FREE. -/
def Obligations.SessionsServed : Prop :=
  ∀ (s : State) (c : Cmd), let u := begun s c; let k := pktPart c.pkt; let i := pktSession c.pkt; let x := geomOf k c.pkt;
    (Begins s c 0x0301 →
      (slotTaken u i = true → exec (.sessionOpen c.id) s = .next (settle u c.id 0x000B i)) ∧
      (∀ o, slotTaken u i = false → sessFits x = true → poolAlloc u k (sessExt u k x) = some o →
        let y := { x with poff := BitVec.ofNat 32 o, ext := BitVec.ofNat 32 (sessExt u k x) };
        exec (.sessionOpen c.id) s = .next (settle (modCmd (zeroAll u k y) c.id fun d => { d with post := some (i, { y with state := 1 }) })
          c.id 0 0)) ∧
      (slotTaken u i = false → sessFits x = true → poolAlloc u k (sessExt u k x) = none →
        exec (.sessionOpen c.id) s = .next (settle u c.id 0x0006 0))) ∧
    (∀ y : Sess, cmdBy s c.id = some c → c.stage = .finished → c.status = 0 → c.done = none → c.post = some (i, y) →
      cmdQuiet s c = true → pairOf s c.id = none → (s.queue c.q).base.clean = true → (s.queue c.q).faulted = false → recBusy s c.q = true →
      ∃ t, exec (.reeveCommandDone c.id) s = .next t ∧ t.ses i = y ∧ (∀ j, j ≠ i → t.ses j = s.ses j)) ∧
    (Begins s c 0x0302 →
      (sessOpen (u.ses i) = false ∨ (u.ses i).part.toNat ≠ k → exec (.sessionAppend c.id) s = .next (settle u c.id 0x000B i)) ∧
      (sessOpen (u.ses i) = true → (u.ses i).part.toNat = k → c.data = none →
        let src := pktField c.pkt 16 8; let a := pktField c.pkt 24 2 + 1; let l0 := (u.ses i).len.toNat;
        commitKind (u.ses i) (l0 + a) (max 64 a) = .plain → spaceOf (BitVec.ofNat 64 src) = 0 →
        rangeOk u k src (appendBytes (u.ses i) a) = true → 0 < appendBytes (u.ses i) a →
        let r := fetchVia u (viaPart k) (addrOf (BitVec.ofNat 64 src)) (appendBytes (u.ses i) a) k (.command c.id);
        (r.1 = none → exec (.sessionAppend c.id) s = .next (modCmd r.2 c.id fun d => { d with stage := .begun })) ∧
        (∀ bs, r.1 = some bs → let v := dropBrought r.2 (.command c.id);
          exec (.sessionAppend c.id) s = .next (match poisonAt src bs with
            | some pa => settle (rollback v i l0 a) c.id 0x0009 pa
            | none => match putAppend v c.id k (u.ses i) a bs with
              | (some p, t) => settle (rollback t i l0 a) c.id 0x000E p
              | (none, t) => settle (commitFor t c.id i (l0 + a) l0 a .plain) c.id 0 0)))) ∧
    (Begins s c 0x0303 → (u.ses i).state = 1 ∨ (u.ses i).state = 2 → (u.ses i).part.toNat = k →
      exec (.sessionClose c.id) s = .next (settle (dropLost (setSes u i { u.ses i with state := 0 })
        fun w => lostKind w == 1 && lostNum w == i) c.id 0 0))

/-- FENCE (R334): scope 0 waits for every earlier command of its queue, scope 1 for every earlier command of its partition; the write
buffers drain, and the FENCE completes once what they held is stored. ABORT (R341, R342): the commands of the queue, the partition or the session end with ABORTED in
fetch order, and once their records are written the ABORT completes with how many it ended; where R312 lets no more be fetched, it goes on
when they have made room. R343, R345: one that R312 let the reeve fetch at once and that is not visible 1 ms after its doorbell is fatal. -/
def Obligations.CommandsEnd : Prop :=
  (∀ (s : State) (cid : Nat) (c : Cmd), waitingCmd s cid 0x0401 = some c →
    (pktField c.pkt 16 1 = 0 →
      ((∀ d ∈ s.cmds, d.id < cid → d.q ≠ c.q) → let ks := (List.range 8).filter fun k => (qMask (s.queue c.q)).getLsbD k;
        let v := ks.foldl drainPart s; exec (.fenceQueue cid) s = .next (if drainWaits v ks then v else finish v cid 0 0)) ∧
      (∀ d ∈ s.cmds, d.id < cid → d.q = c.q → exec (.fenceQueue cid) s = .next s)) ∧
    (pktField c.pkt 16 1 = 1 →
      ((∀ d ∈ s.cmds, d.id < cid → isPartOp (pktOp d.pkt) = true → pktPart d.pkt ≠ pktPart c.pkt) →
        let v := drainPart s (pktPart c.pkt);
        exec (.fencePartition cid) s = .next (if drainWaits v [pktPart c.pkt] then v else finish v cid 0 0)) ∧
      (∀ d ∈ s.cmds, d.id < cid → isPartOp (pktOp d.pkt) = true → pktPart d.pkt = pktPart c.pkt →
        exec (.fencePartition cid) s = .next s))) ∧
  (∀ (s : State) (cid : Nat) (c : Cmd) (ids : List Nat), waitingCmd s cid 0x0501 = some c →
    let r := endCommands s (ids.filter fun i => i ≠ cid) 0x0001 0;
    let left := ids.filter fun i => i ≠ cid ∧ (r.2.cmds.any fun d => d.id = i ∧ (d.stage = .recorded ∨ d.done.isSome = true)) = true;
    let ended := fun n : Nat => finish (modCmd r.2 cid fun d => { d with targets := left }) cid 0 n;
    let n := pktField c.pkt 18 2;
    (pktField c.pkt 16 1 = 0 → (mayFetch s n && hasEntry s n) = false → ids = (s.cmds.filter fun d => d.q = n).map (·.id) →
      (fetchBlocked s n = false → exec (.abortQueue cid) s = .next (ended (c.detail.toNat + r.1))) ∧
      (fetchBlocked s n = true → exec (.abortQueue cid) s =
        .next (modCmd r.2 cid fun d => { d with detail := d.detail + BitVec.ofNat 64 r.1 }))) ∧
    (pktField c.pkt 16 1 = 1 → (qMask (s.queue c.q)).getLsbD n = true →
      ids = (s.cmds.filter fun d => isPartOp (pktOp d.pkt) ∧ pktPart d.pkt = n).map (·.id) →
      exec (.abortPartition cid) s = .next (ended r.1)) ∧
    (pktField c.pkt 16 1 = 2 → ids = (s.cmds.filter fun d => cmdSlot d = some n).map (·.id) →
      exec (.abortSession cid) s = .next (ended r.1)) ∧
    (s.link.up = true → c.atOnce = true → s.dev.fatal = false → ∃ t, exec (.abortBoundExceeded cid) s = .next t ∧ t.dev.fatal = true ∧
      c.bellAt + 1000000 ≤ t.now) ∧
    (c.atOnce = false → exec (.abortBoundExceeded cid) s = .next s))

/-- SET_PARTITION (R339, R213, R215): a case of STATE_CONFLICT, or pools larger than the smallest slice holds, change nothing; otherwise
the partition has the entry that is stored, which reads as the reset values where VALID is 0. SET_ENVELOPE without a licence (R427): the
licence in force must permit the envelope, E3 always; it takes effect at the next step, and ENVELOPE_CHANGE is raised. With a licence in
device memory it waits while a granule of it waits for its bank (R219), and where the signature fails it completes with SIGNATURE. -/
def Obligations.PartitionsSet : Prop :=
  (∀ (s : State) (cid : Nat) (c : Cmd), deviceTurn s cid 0x0601 = some c →
    let k := pktPart c.pkt; let w := if (pktEntry c.pkt).getLsbD 0 then pktEntry c.pkt else ptabRates; let u := voteMap (votePart s k);
    (setConflict u k w = true → exec (.setPartition cid) s = .next (finish u cid 0x0005 0)) ∧
    (setConflict u k w = false → w.getLsbD 0 = true → 0 < spoolOver u k w →
      exec (.setPartition cid) s = .next (finish u cid 0x0006 (spoolOver u k w))) ∧
    (setConflict u k w = false → w.getLsbD 0 = false ∨ spoolOver u k w = 0 →
      exec (.setPartition cid) s = .next (finish (applyEntry u k w) cid 0 0) ∧ (applyEntry u k w).pent k = w)) ∧
  (∀ (s : State) (cid : Nat) (c : Cmd) (l : Option Licence), deviceTurn s cid 0x0602 = some c →
    let e := pktField c.pkt 16 1;
    (pktField c.pkt 32 4 = 0 → s.dev.lic = Tri.same l →
      (permits l e = false → exec (.setEnvelope cid) s = .next (finish s cid 0x0005 0)) ∧
      (permits l e = true → ∃ u, exec (.setEnvelope cid) s = .next (finish u cid 0 0) ∧
        u.dev.envNext = e ∧ u.dev.env = s.dev.env ∧ u.dev.lic = s.dev.lic ∧ u.eeprom.env = Tri.same ⟨l, e⟩ ∧ u.crofts = s.crofts)) ∧
    (0 < pktField c.pkt 32 4 → c.data = none → spaceOf (BitVec.ofNat 64 (pktField c.pkt 24 8)) = 0 →
      let k := pktPart c.pkt;
      let r := fetchVia s (viaPart k) (addrOf (BitVec.ofNat 64 (pktField c.pkt 24 8))) (pktField c.pkt 32 4) k (.command c.id);
      (r.1 = none → exec (.setEnvelope cid) s = .next (modCmd r.2 c.id fun d => { d with stage := .begun })) ∧
      (∀ bs, r.1 = some bs → (∀ b ∈ bs, b.2 = false) → let v := dropBrought r.2 (.command c.id);
        readLicence v (bs.map (·.1)) = none → exec (.setEnvelope cid) s = .next (settle v c.id 0x0015 0))))

/-- R424, R427: the envelope in force sets the croft-clock ceiling, 3.6 GHz in E1, 3.2 GHz in E2 and 2.6 GHz in E3. One that SET_ENVELOPE
sets takes effect at the next 10 ms step of the caps, which changes no request, croft or byte; a croft clock moves to its ceiling by 50
MHz at most in a microsecond. -/
def Obligations.EnvelopesTakeEffect : Prop :=
  (∀ (s : State) (p : Fin 512) (e f : Nat), (e, f) = (1, 3600) ∨ (e, f) = (2, 3200) ∨ (e, f) = (3, 2600) → s.dev.env = e →
    clockCeil s p ≤ f ∧ (croftTheta s p = 0 → tget zeroB s.therm.cap50 p = false → clockCeil s p = f) ∧
    ((s.croft p).mhz ≤ f → ∃ t, exec (.clockStep p) s = .next t ∧ (t.croft p).mhz ≤ f)) ∧
  (∀ (s : State) (cid : Nat) (c : Cmd) (l : Option Licence), deviceTurn s cid 0x0602 = some c → pktField c.pkt 32 4 = 0 →
    s.dev.lic = Tri.same l → permits l (pktField c.pkt 16 1) = true →
    ∃ t, exec (.setEnvelope cid) s = .next t ∧ t.dev.env = s.dev.env ∧ t.dev.envNext = pktField c.pkt 16 1) ∧
  (∀ s : State, fwRuns s = true → ∃ t, exec .capStep s = .next t ∧ t.now = max s.now (s.therm.capAt + 10000000) ∧ t.dev.env = s.dev.envNext ∧
    t.crofts = s.crofts ∧ t.parts = s.parts ∧ t.cmds = s.cmds ∧ t.mem = s.mem ∧ t.ls = s.ls) ∧
  (∀ (s : State) (p : Fin 512), ∃ t, exec (.clockStep p) s = .next t ∧ s.now ≤ t.now ∧ (s.croft p).stepAt + 1000 ≤ t.now ∧
    (t.croft p).mhz ≤ (s.croft p).mhz + 50 ∧ (s.croft p).mhz ≤ (t.croft p).mhz + 50)

/-- QUERY_FLOORPLAN and READ_TELEMETRY (R340, R405, R519), with no error in the critical words they read: the bytes of the record or of
the telemetry space go to a host destination, and DETAIL is their count; the command waits for its write. TIME_SYNC (R484): TMODE 0 sets
device time, TMODE 1 adds a signed value, TMODE 2 answers with it; a time outside 0 to 2⁶³ − 1 is a reserved value, and the time stays. -/
def Obligations.DeviceReports : Prop :=
  (∀ (s : State) (cid : Nat) (c : Cmd), let dst : Word := BitVec.ofNat 64 (pktField c.pkt 16 8); spaceOf dst = 1 → PlanClean s →
    let sent := fun bs : List Byte => settle (hostMove s false (addrOf dst) true bs.length bs false (.cmdWrite c.id)) c.id 0 bs.length;
    (deviceTurn s cid 0x0701 = some c → 0 < pktField c.pkt 24 4 →
      exec (.queryFloorplan cid) s = .next (sent ((planRecord s).take (pktField c.pkt 24 4)))) ∧
    (deviceTurn s cid 0x0702 = some c → s.therm.life.clean = true → 8 ≤ pktField c.pkt 32 4 →
      exec (.readTelemetry cid) s = .next (sent (telemetry s (pktField c.pkt 24 8) (pktField c.pkt 32 4))))) ∧
  (∀ (s : State) (cid : Nat) (c : Cmd), deviceTurn s cid 0x0801 = some c →
    let v := pktField c.pkt 24 8; let d := (BitVec.ofNat 64 v).toInt;
    (pktField c.pkt 16 1 = 0 →
      (v < 2 ^ 63 → exec (.timeSyncSet cid) s = .next (finish { s with dev := { s.dev with time := v } } cid 0 0)) ∧
      (2 ^ 63 ≤ v → exec (.timeSyncSet cid) s = .next (finish s cid 0x0003 24))) ∧
    (pktField c.pkt 16 1 = 1 →
      (0 ≤ (s.dev.time : Int) + d → (s.dev.time : Int) + d < 2 ^ 63 →
        exec (.timeSyncStep cid) s = .next (finish { s with dev := { s.dev with time := ((s.dev.time : Int) + d).toNat } } cid 0 0)) ∧
      ((s.dev.time : Int) + d < 0 ∨ 2 ^ 63 ≤ (s.dev.time : Int) + d → exec (.timeSyncStep cid) s = .next (finish s cid 0x0003 24))) ∧
    (pktField c.pkt 16 1 = 2 → exec (.timeSyncRead cid) s = .next (finish s cid 0 (s.dev.time % 2 ^ 64))))

/-- ATTEST and ATTEST_TREE_BUILT (R503 to R507): a MAXLEN below the report's length is a reserved value; with no tree left the command
completes with STATE_CONFLICT; with a ready leaf below its limit the report is signed with it, and the next leaf is the one above. While
the tree is not built the command waits with what it has measured, and that is what it signs once the tree, which is built once, is there.
R505: once no fuse bit above the present tree remains and a new tree is needed, an ATTEST with room for its report
completes with STATE_CONFLICT, and so does every later one; the acceptance of firmware images and licences does not hang on it. -/
def Obligations.AttestsAnswered : Prop :=
  (∀ s : State,
    (∀ (cid : Nat) (c : Cmd) (w : LeafWord), deviceTurn s cid 0x0A04 = some c →
      (pktField c.pkt 56 4 < 11268 → exec (.attest cid) s = .next (finish s cid 0x0003 56)) ∧
      (11268 ≤ pktField c.pkt 56 4 → s.sec.dead = true → exec (.attest cid) s = .next (settle s c.id 0x0005 0)) ∧
      (11268 ≤ pktField c.pkt 56 4 → s.sec.dead = false → s.sec.ready = true → s.sec.leaf < 32768 → s.eeprom.leaf = Tri.same w → w.tree = s.sec.tree →
        s.sec.leaf < w.limit →
        PlanClean s → s.dev.lic.clean = true → let body := reportBody s (pktField c.pkt 16 32);
        (s.sec.built = true → spaceOf (BitVec.ofNat 64 (pktField c.pkt 48 8)) = 1 →
          let bs := attestReport s body;
          exec (.attest cid) s = .next (settle (hostMove { s with sec := { s.sec with leaf := s.sec.leaf + 1 } } false
            (addrOf (BitVec.ofNat 64 (pktField c.pkt 48 8))) true bs.length bs false (.cmdWrite c.id)) c.id 0 bs.length)) ∧
        (s.sec.built = false → exec (.attest cid) s = .next { s with
          sec := { s.sec with waiting := s.sec.waiting ++ [(c.id, body)] }
          cmds := mapIf (fun d => d.id == c.id) (fun d => { d with stage := .begun }) s.cmds }))) ∧
    (s.boot.stage = .ready → s.sec.built = false → s.sec.dead = false →
      let u := { s with sec := { s.sec with built := true, waiting := [] } }
      (s.sec.waiting = [] → exec .attestTreeBuilt s = .next u) ∧
      (∀ (c : Cmd) (body : List Byte), s.sec.waiting = [(c.id, body)] → cmdBy s c.id = some c → c.stage = .begun →
        exec .attestTreeBuilt s = .next (report { u with sec := { u.sec with leaf := s.sec.leaf + 1 } } c (pktField c.pkt 48 8)
          (attestReport u body))))) ∧
  (∀ (s : State) (cid : Nat) (c : Cmd) (w : LeafWord), deviceTurn s cid 0x0A04 = some c → 11268 ≤ pktField c.pkt 56 4 →
    (s.sec.dead = false → s.sec.ready = true → s.eeprom.leaf = Tri.same w → 32768 ≤ s.sec.leaf → s.fuses.treefuse.getLsbD 1023 = true →
      exec (.attest cid) s = .next (settle { s with sec := { s.sec with dead := true } } c.id 0x0005 0)) ∧
    (s.sec.dead = true → exec (.attest cid) s = .next (settle s c.id 0x0005 0)) ∧
    (∀ img size x, imageOk { s with sec := x } img size = imageOk s img size) ∧
    (∀ bs x, readLicence { s with sec := x } bs = readLicence s bs))

/-- REQUEST_ADMIT (R326, R327, R328): the first RUN of the admission order, its images read and sound, enters a free slot with its images
and begins its gather stage; a fault of R326 completes it without admission; it waits for the bytes of its images, and, where it names a
session, for the zeros written to it. Nothing is admitted out of order or without a slot. SESSION_WAIT_END and CROFT_STAGES_START (R165,
R167, R328, R422): a request begins its gather stage when its turn has come and its mailbox entry is written; once every context has reached
GEND, and no earlier request is to start first, the croft stages begin and the contexts go on, 120 µs later where an overdue self-test holds
the start. REQUEST_COMPLETE, TIME_LIMIT and REEVE_COMMAND_DONE
(R320, R328, R331, R332): a chained command goes on with its next image; a failed request ends with the outcome kept; TLIM microseconds
after its admission a request ends with TIME_LIMIT, and with TLIM 0 or once every croft has retired its last END never; a decided
command's record is written once its writes have completed. -/
def Obligations.RequestsRun : Prop :=
  (∀ (s : State) (part : Fin 8),
    ((s.part part).adm = [] → exec (.requestAdmit part) s = .next s) ∧
    (∀ (cid e : Nat) (c : Cmd), (s.part part).adm.head? = some cid → cmdBy s cid = some c → c.stage = .ordered → freeSlot s part = some e →
      admits s part = true → orderOk s c = true →
      let v := clearIfDue (votePart s part) part;
      let r := readImages v part (cmdSlot c).isSome cid [] (imagesOf c);
      ((cmdSlot c).isSome = true → owed v .zeros = true → exec (.requestAdmit part) s = .next v) ∧
      ((cmdSlot c).isSome = false ∨ owed v .zeros = false →
        (r.1 = none → exec (.requestAdmit part) s = .next r.2) ∧
        (∀ l, r.1 = some l →
          (∀ f, runFault r.2 part (cmdSlot c) l = some f → exec (.requestAdmit part) s = .next (finish r.2 cid f.1 f.2)) ∧
          (runFault r.2 part (cmdSlot c) l = none → s.twin.armed ≠ some part.val →
            ∃ q, ((enterSlot r.2 part e c l).slot part e).req = some q ∧ q.cid = cid ∧ q.imgs = l.map (·.img) ∧ q.stage = .sessWait ∧
              exec (.requestAdmit part) s = .next (if mustWaitTurn (enterSlot r.2 part e c l) part e q then enterSlot r.2 part e c l
                else beginGather (enterSlot r.2 part e c l) part e cid (cmdSlot c)))))) ∧
    (freeSlot s part = none → exec (.requestAdmit part) s = .next s)) ∧
  (∀ (s : State) (part : Fin 8) (e : Fin 2) (q : Req), (s.slot part e).req = some q →
    (q.stage = .sessWait →
      (mustWaitTurn s part e q = true → exec (.sessionWaitEnd part e) s = .next s) ∧
      (mustWaitTurn s part e q = false → q.sess.isSome = true → exec (.sessionWaitEnd part e) s =
        .next (if owed s (.command q.cid) then s else startImage s part e 0)) ∧
      (mustWaitTurn s part e q = false → q.sess = none → exec (.sessionWaitEnd part e) s =
        .next (beginGather s part e q.cid (reqSlot s q)))) ∧
    (q.stage = .gather → q.fail = none → gathered s part e = true → mayRank s part e q = true → (s.part part).holdStart = [] →
      (s.slot part e).staged = [] →
      ∃ t q', exec (.croftStagesStart part e) s = .next t ∧ (t.slot part e).req = some q' ∧ q'.stage = .croft ∧ q'.cid = q.cid ∧
        (∀ c ∈ slotCtxs s part e, (s.ctx c).wait = .gend → (t.ctx c).wait = .none ∧ (t.ctx c).inCroft = true ∧ (t.ctx c).pos = (s.ctx c).pos) ∧
        t.mem = s.mem ∧ t.ls = s.ls ∧ t.cmds = s.cmds) ∧
    (∀ p l, q.stage = .gather → q.fail = none → gathered s part e = true → mayRank s part e q = true → (s.part part).holdStart = p :: l →
      (s.slot part e).staged = [] →
      ∃ t q', exec (.croftStagesStart part e) s = .next t ∧ (t.slot part e).req = some q' ∧ q'.stage = .croft ∧ t.now = s.now + 120000 ∧
        (t.part part).holdStart = l ∧ tget zeroN t.ctr (ctrSquare 41) = tget zeroN s.ctr (ctrSquare 41) + 120000)) ∧
  (∀ (s : State),
    (∀ (part : Fin 8) (e : Fin 2) (q : Req), (s.slot part e).req = some q →
      (∀ f, q.fail = some f → exec (.requestComplete part e) s = .next (clearIfDue (endRequest s part e f.1 f.2.toNat) part)) ∧
      (q.fail = none → q.stage = .croft → allDone s part e = true → reqQuiet s q = true → s.twin.armed ≠ some part.val →
        let u := dropHash s q.pairK endPoint;
        (q.cur + 1 < q.imgs.length → exec (.requestComplete part e) s = .next (startImage u part e (q.cur + 1))) ∧
        (q.imgs.length ≤ q.cur + 1 → exec (.requestComplete part e) s = .next (finishReq (epochEnd (modSlot u part e
          fun x => { x with req := some { q with stage := .done } }) part e) part e))) ∧
      (∀ c, cmdBy s q.cid = some c → q.stage ≠ .done →
        (pktField c.pkt 56 4 = 0 ∨ leftCroft s part e q = true → exec (.timeLimit part e) s = .next s) ∧
        (0 < pktField c.pkt 56 4 → leftCroft s part e q = false → exec (.timeLimit part e) s =
          .next (endCommand (notBefore s (q.at0 + 1000 * pktField c.pkt 56 4)) q.cid 0x0002 0).2))) ∧
    (∀ (cid : Nat) (c : Cmd), cmdBy s cid = some c → c.stage = .finished → cmdQuiet s c = true → pairOf s cid = none →
      exec (.reeveCommandDone cid) s = .next (match c.done with
        | some r => putRec s r
        | none => finish s cid c.status.toNat c.detail.toNat)))

/-- COLD_START, INPUT_OUT_OF_RANGE, OVERVOLTAGE, INPUT_LOW, RAILS_GOOD (R387, R392, R486, R487, R489): a cold start leaves the reset state
but for the EEPROM and the fuses; out of range, or above 57.5 V, the same holds with the input out of range, and the EEPROM stays unless
its last write had just begun: one that is interrupted leaves one bad copy, and a vote gives the older value. Below 46 V only an event is
raised; the rails are good after 3 ms, and device time starts at 3,000,000. WARM_RESET, HOT_RESET, PERST_RELEASE, FUNCTION_LEVEL_RESET
(R345, R392, R393, R467, R488): a reset ends every command without a record and resets the queue pairs, the bells and the semaphores; the
shard descriptors, the partition table, the fuses and device time are kept. A warm reset returns to the ROM stage, or stays in HALT (the
model's choice, log entry 29); a function-level reset keeps the stage. -/
def Obligations.PowerAndResets : Prop :=
  (∀ s : State,
    (∃ t, exec .coldStart s = .next t ∧ t.eeprom = s.eeprom ∧ t.fuses = s.fuses ∧
      { t with pending := [], free := 0, eeprom := Eeprom.reset, fuses := Fuses.reset } = State.reset) ∧
    (∃ t, exec .inputOutOfRange s = .next t ∧ t.eeprom = eepromOff s ∧ t.fuses = s.fuses ∧ t.boot.inRange = false ∧
      { t with pending := [], free := 0, eeprom := Eeprom.reset, fuses := Fuses.reset, boot := Boot.reset } = State.reset) ∧
    (s.eeprom.old = none → eepromOff s = s.eeprom) ∧
    (∀ o t0, s.eeprom.old = some (o, t0) → t0 ≠ s.now → eepromOff s = { s.eeprom with old := none }) ∧
    (∀ (x : Eeprom) (w : EnvWord) (l : LifeWord) (f : LeafWord), (x.interrupted (.env w)).env.vote = some w ∧
      (x.interrupted (.life l)).life.vote = some l ∧ (x.interrupted (.leaf f)).leaf.vote = some f) ∧
    (∀ mv, exec (.overvoltage mv) s = if 57500 < mv then exec .inputOutOfRange s else .next s) ∧
    (∀ mv : BitVec 16, s.boot.rails = true → exec (.inputLow mv) s =
      .next (if mv.toNat < 46000 then raise s 0x0407 1 [(16, 2, mv.toNat)] else s)) ∧
    (s.boot.inRange = true → s.boot.rails = false → s.boot.thermtrip = false →
      ∃ t, exec .railsGood s = .next t ∧ t.boot = { s.boot with rails := true } ∧ t.dev.timeOn = true ∧ t.dev.time = 3000000 ∧
        t.now = max s.now 3000000 ∧ t.mem = s.mem ∧ t.crofts = s.crofts)) ∧
  (∀ s : State,
    (s.boot.rails = true → s.link.perst = false → ∃ t, exec .warmReset s = .next t ∧
      t.boot.stage = (if s.boot.stage = .halt then .halt else .rom) ∧ t.boot.warm = true ∧ t.link.perst = true ∧ t.link.up = false ∧
      t.cmds = [] ∧ t.queues = [] ∧ t.bells = [] ∧ t.sems = [] ∧ t.ptab = s.ptab ∧ t.shards = s.shards ∧ t.fuses = s.fuses ∧
      t.eeprom = s.eeprom ∧ t.dev.time = s.dev.time ∧
      (s.link.up = true → exec .hotReset s = .next { t with link := { t.link with perst := false } })) ∧
    (s.link.up = false → exec .hotReset s = .next s) ∧
    exec .perstRelease s = .next { s with link := { s.link with perst := false } } ∧
    (∃ t, exec .functionLevelReset s = .next t ∧ t.boot = s.boot ∧ t.link.up = s.link.up ∧ t.cmds = [] ∧ t.queues = [] ∧ t.bells = [] ∧
      t.sems = [] ∧ t.ptab = s.ptab ∧ t.shards = s.shards ∧ t.fuses = s.fuses ∧ t.dev.time = s.dev.time))

/-- FW_BEGIN, FW_CHUNK, FW_COMMIT and FW_CLAIM_TIMEOUT (R398, R399): a source claims delivery, a contiguous chunk is appended, a commit of
the whole image begins verification, and the other source is turned away; over I3C a command comes to nothing while the target does not
answer, and otherwise the next private read returns its status word (R480, R487). VERIFY_DONE and CXL_MAILBOX_KCP (R400, R512): 0.15 s after
the commit an image that R499 accepts starts TRAIN with its release, another is dropped with SIGNATURE; another mailbox opcode, or a packet
that is no firmware command, is unsupported. -/
def Obligations.FirmwareTaken : Prop :=
  (∀ s : State, fwCommand s .mailbox = s ∧ fwCommand s .i3c = { s with i3c := { s.i3c with resp := .fw } } ∧
    (portAnswers s = false → ∀ (size off len crc : BitVec 32) (addr : BitVec 64) (data : List Byte), exec (.fwBegin .i3c size) s = .next s ∧
      exec (.fwChunk .i3c addr off len data crc) s = .next s ∧ exec (.fwCommit .i3c) s = .next s)) ∧
  (∀ (s : State) (src : FwSource), s.boot.stage = .waitFw → src = .mailbox ∨ s.boot.rails = true →
    let u := fwCommand s src;
    (∀ size : BitVec 32,
      (s.boot.claim = none ∨ s.boot.claim = some src → size.toNat ≤ 24 * 2 ^ 20 → exec (.fwBegin src size) s = .next (fwAnswer { u with
        boot := { s.boot with claim := some src, claimAt := s.now, fwSize := some size.toNat, image := [], lastOff := none } } src 0 0 0)) ∧
      (s.boot.claim.isSome = true → s.boot.claim ≠ some src → exec (.fwBegin src size) s = .next (fwAnswer u src 0 0x0005 0))) ∧
    (s.boot.claim = some src →
      (∀ (off len : BitVec 32) (data : List Byte) (size : Nat), s.boot.fwSize = some size → off.toNat = s.boot.image.length →
        data.length = len.toNat → 1 ≤ len.toNat → len.toNat ≤ 1048576 → off.toNat + len.toNat ≤ size →
        len.toNat % 4096 = 0 ∨ off.toNat + len.toNat = size →
        exec (.fwChunk src 0 off len data (crc32c data)) s = .next (fwAnswer { u with
          boot := { s.boot with claimAt := s.now, image := s.boot.image ++ data, lastOff := some off.toNat } } src 0 0 0)) ∧
      (∀ size, s.boot.fwSize = some size →
        (s.boot.image.length < size → exec (.fwCommit src) s = .next (fwAnswer (endClaim u) src 0 0x0005 0)) ∧
        (size ≤ s.boot.image.length → ∃ t, exec (.fwCommit src) s = .next t ∧ t.boot.stage = .verify ∧ t.boot.verifyBy = some src ∧
          t.boot.image = s.boot.image ∧ t.boot.claimAt = s.now ∧ { t with boot := s.boot, i3c := s.i3c } = s)) ∧
      (exec .fwClaimTimeout s = .next (endClaim (notBefore s (s.boot.claimAt + 10000000000)))))) ∧
  (∀ s : State,
    (∀ src, s.boot.stage = .verify → s.boot.verifyBy = some src → evEn s.dev = false →
      let u := notBefore s (s.boot.claimAt + 150000000);
      let ok := imageOk u s.boot.image (s.boot.fwSize.getD 0);
      ∃ t, exec .verifyDone s = .next t ∧ t.boot.stage = (if ok then .train else .waitFw) ∧
        t.boot.running = (if ok then s.boot.image else s.boot.running) ∧ t.boot.claim = none ∧ t.boot.image = [] ∧
        t.dev.fwrel = (if ok then BitVec.ofNat 32 (leNat ((s.boot.image.drop 8).take 4)) else s.dev.fwrel) ∧
        t.now = max s.now (s.boot.claimAt + 150000000) ∧ t.crofts = s.crofts ∧ t.mem = s.mem) ∧
    (∀ (m : MailIn) (data : List Byte), let op := pktOp m.pkt;
      (m.opcode ≠ 0xC000 ∨ (op ≠ 0x0A01 ∧ op ≠ 0x0A02 ∧ op ≠ 0x0A03) → exec (.cxlMailboxKcp m data) s = .next (emit s (.mailbox false 0))) ∧
      (m.opcode = 0xC000 → op = 0x0A01 → headBad 0x0A01 m.pkt ++ paramBad 0x0A01 m.pkt = [] →
        exec (.cxlMailboxKcp m data) s = .next (fwAnswer (beginFw s .mailbox (pktField m.pkt 16 4)).2.2 .mailbox (pktSeq m.pkt)
          (beginFw s .mailbox (pktField m.pkt 16 4)).1 (beginFw s .mailbox (pktField m.pkt 16 4)).2.1))))

/-- ROM_DONE, TRAIN_DONE, SELFTEST_DONE, MARCH_DONE (R255, R394, R395, R397, R436, R487): each stage is followed by the next; the ROM stage
of a cold start ends at 20 ms; a village that has not confirmed its identity when training ends is lost; a fault of reeve 0, the crossbar,
the host port or the critical store halts the QH9; a warm reset goes from SELFTEST to SCRUB, and a cold start's SELFTEST measures the ring
oscillators' offsets anew. RETENTION_STEP, RETENTION_SETTLE_TIMEOUT, FILL_DONE, SCRUB_DONE, FLOORPLAN_DONE, DEFECT_MAP_EEPROM_WRITE (R364,
R394, R396, R401 to R403, R453, R503): the heaters stop after the last retention step, and READY sets the starting leaf once. -/
def Obligations.BringUpFollows : Prop :=
  (∀ s : State,
    (∀ r : RomOut, s.boot.stage = .rom → s.boot.rails = true → ∃ t, exec (.romDone r) s = .next t ∧ t.boot = { s.boot with
        faults := s.boot.faults ++ r.faults, stage := if r.faults.any halting then .halt else .waitFw } ∧
      t.dev.slotid = r.slotId ∧ t.crofts = s.crofts ∧ t.fuses = s.fuses ∧ t.ptab = s.ptab ∧
      t.now = (if s.boot.warm then s.now else max s.now 20000000) ∧ t.i3c.readyAt = (if s.boot.warm then s.i3c.readyAt else t.now)) ∧
    (∀ l : List UnitFault, s.boot.stage = .train → (∀ v, v < 4 → (s.port v).idOk = true ∨ (s.port v).lost = true) →
      exec (.trainDone l) s = .next { s with boot := { s.boot with
        faults := s.boot.faults ++ l, stage := if l.any halting then .halt else .selftest } }) ∧
    (∀ l : List UnitFault, s.boot.stage = .train → ∃ t, exec (.trainDone l) s = .next t ∧
      ∀ v, v < 4 → ((t.port v).lost = true ↔ (s.port v).idOk = false ∨ (s.port v).lost = true)) ∧
    (∀ l : List UnitFault, s.boot.stage = .selftest → ∃ t, exec (.selftestDone l) s = .next t ∧ t.boot = { s.boot with
        faults := s.boot.faults ++ l, stage := if l.any halting then .halt else if s.boot.warm then .fill else .march } ∧
      (s.boot.warm = true → { t with boot := s.boot } = s) ∧
      (s.boot.warm = false → t.therm = { s.therm with roRun := s.free, roOff := [] } ∧
        { t with boot := s.boot, therm := s.therm, free := s.free } = s)) ∧
    (s.boot.stage = .march → exec (.marchDone []) s = .next { s with boot := { s.boot with stage := .retention, retStep := 0, rtemp := [] } }) ∧
    (∀ (p : Fin 512) (k : Fin 96) (r : Fin 8208), s.boot.stage = .march → s.boot.badRows = [] →
      exec (.marchDone [(p, k, r)]) s = .next { s with
        boot := { s.boot with stage := .retention, retStep := 0, rtemp := [], badRows := [(p.val, k.val, r.val)] } })) ∧
  (∀ s : State,
    (∀ (k : Fin 3) (temp : Nat), s.boot.stage = .retention → s.boot.retStep = k.val → ∃ t, exec (.retentionStep k temp []) s = .next t ∧
      t.boot = { s.boot with retStep := k.val + 1, rtemp := s.boot.rtemp ++ [temp], stage := if k.val = 2 then .fill else .retention } ∧
      (k.val = 2 → ∀ p, p < 512 → (t.croft p).heater = false) ∧
      { t with boot := s.boot, therm := s.therm, free := s.free, crofts := s.crofts, ctr := s.ctr } = s ∧
      (k.val ≠ 2 → t.crofts = s.crofts ∧ t.ctr = s.ctr)) ∧
    (∀ (k : Fin 3) (temp : Nat) (v h : Fin 4), s.boot.stage = .retention → s.boot.retStep = k.val →
      exec (.retentionSettleTimeout k temp v h) s = .next (raise { s with
          boot := { s.boot with retShort := true }
          floor := { s.floor with gen := s.floor.gen + 1 } } 0x0207 1 [(16, 1, k.val), (17, 1, temp), (18, 1, v.val), (19, 1, h.val)])) ∧
    (s.boot.stage = .fill → s.boot.warm = false → ∃ t, exec .fillDone s = .next t ∧ t.mem = [] ∧ t.undef = [] ∧ t.sqc = [] ∧
      t.boot = { s.boot with stage := .floorplan } ∧ (∀ p, (t.slice p).wcb = [] ∧ (t.slice p).mgb = [])) ∧
    (s.boot.stage = .fill → s.boot.warm = true → s.mem = [] → s.undef = [] →
      exec .scrubDone s = .next { s with boot := { s.boot with stage := .floorplan } }) ∧
    (s.boot.stage = .floorplan → ∃ t, exec .floorplanDone s = .next t ∧ t.boot.stage = .ready ∧ t.boot.faults = [] ∧ t.boot.badRows = [] ∧
      s.floor.gen < t.floor.gen ∧ t.sec.ready = true ∧ (s.sec.ready = true → t.fuses = s.fuses)) ∧
    (∀ l r, s.floor.unsaved = true → s.floor.defects = Tri.same l → s.floor.rows = Tri.same r → exec .defectMapEepromWrite s = .next { s with
      floor := { s.floor with unsaved := false }
      eeprom := { s.eeprom with
        defects := Tri.same l
        spareRows := Tri.same r
        old := some (.defects s.eeprom.defects.use s.eeprom.spareRows.use, s.now) } }))

/-- SEQUENCER_TIMEOUT, CROFT_SELFTEST and SELFTEST_OVERDUE (R412, R421, R422): a croft that does not answer for 100 µs fails and is no
longer ACTIVE; a self-test waits for its hour and stops the croft's heater, and a clean one only notes its time; one bad lane is bypassed
at the next boundary; an overdue one is to hold a croft-stage start. MIGRATION_PHASE1_DONE, ROW_EXCHANGE, MIGRATION_DONE (R142, R415 to
R417): phase 1 makes way for phase 2, rows move one by one, each in 64 ns, and at the end the index is served by the substitute's slice and
the failed croft is SLICE_ONLY at the substitute's index; each waits while a bank it needs is busy. DRAM_TIMING_TRIM, SUBCHANNEL_RETRAIN,
DROOP_TUNING (R421, R423): each calibration waits for its period, counts its holds, and notes its time; a sub-channel that is retired or
held, or whose slice migrates, is passed over. -/
def Obligations.CroftsServiced : Prop :=
  (∀ (s : State) (p : Fin 512), (s.croft p).cstate = .active →
    let x := s.croft p;
    (∃ t, exec (.sequencerTimeout p) s = .next t ∧ s.now + 100000 ≤ t.now ∧ (t.croft p).svcFail = true ∧ (t.croft p).cstate ≠ .active) ∧
    (s.boot.stage = .ready → testGap s p = true → x.mig = false → x.badLanes.length + x.pendBad.length ≤ 2 →
      (let u := setHeater (notBefore s (testDue s p)) p false;
      exec (.croftSelftest p [] false) s = .next (setCroft (bump u (ctrSquare 42) 1) p { u.croft p with testAt := u.now, overdue := false })) ∧
      (∀ l : Fin 64, x.badLanes.length + x.pendBad.length ≤ 1 → ¬ l.val ∈ x.badLanes → ¬ l.val ∈ x.pendBad →
        ∃ t, exec (.croftSelftest p [l] false) s = .next t ∧ (t.croft p).pendBad = x.pendBad ++ [l.val] ∧ (t.croft p).cstate = .active)) ∧
    (∀ k, s.boot.stage = .ready → x.overdue = false → partOf s p = some k → ∃ t, exec (.selftestOverdue p) s = .next t ∧
      (t.croft p) = { x with overdue := true } ∧ (t.part k).holdStart = (s.part k).holdStart ++ [p.val] ∧
      t.now = max s.now (x.testAt + 3610000000000) ∧ tget zeroN t.ctr (ctrSquare 41) = tget zeroN s.ctr (ctrSquare 41))) ∧
  (∀ (s : State) (m : Migration) (ms : List Migration), s.floor.migs = m :: ms → m.failed ≠ m.subst →
    (m.phase2 = true ∨ restWaits s m = true → exec .migrationPhase1Done s = .next s) ∧
    (m.phase2 = false → restWaits s m = false → ∃ t, exec .migrationPhase1Done s = .next t ∧
      t.floor.migs = { m with phase2 := true, row := 0 } :: ms ∧ s.floor.gen < t.floor.gen ∧ t.ls = s.ls ∧ t.cmds = s.cmds) ∧
    (96 * (phaseRows s m).1 ≤ m.row ∨ rowOnWay s m = true → exec .rowExchange s = .next s) ∧
    (let k := (phaseRow s m m.row).1;
    m.row < 96 * (phaseRows s m).1 → rowOnWay s m = false → rowQueue s m.failed k = false → rowQueue s m.subst k = false →
      ∃ t, exec .rowExchange s = .next t ∧ t.floor.migs = { m with row := m.row + 1 } :: ms ∧ t.now = s.now + 64 ∧
      (t.croft m.failed).migRow = (s.croft m.failed).migRow + 1 ∧ tget zeroN t.ctr (ctrSquare 38) = tget zeroN s.ctr (ctrSquare 38) + 1) ∧
    (m.phase2 = false ∨ restWaits s m = true → exec .migrationDone s = .next s) ∧
    (m.phase2 = true → restWaits s m = false → m.i ≠ m.j → (s.croft m.subst).svcFail = false →
      let v := moveRest s m;
      let u := flushSlice (flushSlice { v with floor := { v.floor with migs := { m with row := 96 * (phaseRows v m).1 } :: ms } } m.failed) m.subst;
      accessWaits u m.failed m.subst = false → ∃ t, exec .migrationDone s = .next t ∧
      (t.croft m.failed).cstate = .sliceOnly ∧ (t.croft m.failed).pidx = m.j ∧ (t.croft m.failed).mig = false ∧ (t.croft m.subst).mig = false ∧
      dataOf t m.part m.i = some m.subst ∧ dataOf t m.part m.j = some m.failed ∧ t.ls = s.ls ∧ t.cmds = s.cmds)) ∧
  (∀ (s : State) (p : Fin 512) (u : Fin 4), let y := (s.slice p).sub u;
    (mayCalibrate s p u = false → exec (.dramTimingTrim p u) s = .next s ∧ exec (.subchannelRetrain p u) s = .next s) ∧
    (mayCalibrate s p u = true →
      (∃ t, exec (.dramTimingTrim p u) s = .next t ∧ t.now = max s.now (y.trimAt + 600000000000) ∧
        (t.slice p).sub u = { y with trimAt := t.now } ∧ tget zeroN t.ctr (ctrSquare 40) = tget zeroN s.ctr (ctrSquare 40) + 10 ∧ t.mem = s.mem) ∧
      (∃ t, exec (.subchannelRetrain p u) s = .next t ∧ t.now = (if dueEarly y then s.now else max s.now (y.trainAt + 86400000000000)) ∧
        (t.slice p).sub u = { y with trainAt := t.now, lowRuns := [], early := false } ∧
        tget zeroN t.ctr (ctrSquare 40) = tget zeroN s.ctr (ctrSquare 40) + 125 ∧ t.mem = s.mem)) ∧
    (∀ up, (s.croft p).mig = true → exec (.droopTuning p up) s = .next s) ∧
    (∀ up, (s.croft p).mig = false → let v := notBefore s ((s.croft p).droopAt + 60000000000);
      exec (.droopTuning p up) s = .next (setCroft v p { s.croft p with
        droopAt := v.now, droopThr := if up then (s.croft p).droopThr + 1 else (s.croft p).droopThr - 1 })))

/-- BUCKET_LEAK, TRACKING_EXPIRE, SWEEPER_ROW_READ, SWEEP_LATE (R373, R374, R376, R377): the buckets leak; an entry goes 24 h of device
time after its first correction; the sweeper reads the next row of a slice's 96 banks, waits for a bank in use or without access and passes over a
retired one. ROW_SPARE (R381, R382): a row in use takes the next free spare of its bank that is no bad row itself, and ROWSPARE_EXHAUSTED is raised once when there
is none. -/
def Obligations.UpkeepRuns : Prop :=
  (∀ s : State,
    (∃ t, exec .bucketLeak s = .next t ∧ t.sqBucket = s.sqBucket - 1 ∧ (∀ p, (t.slice p).bucket = (s.slice p).bucket - 1) ∧ t.mem = s.mem ∧
      t.crofts = s.crofts) ∧
    (∀ (p : Fin 512) (e : Track), (s.slice p).track.find? (fun t => t.loc == e.loc) = some e → ∃ t, exec (.trackingExpire p e.loc) s = .next t ∧
      (t.slice p) = { s.slice p with track := (s.slice p).track.filter fun u => u.loc ≠ e.loc } ∧ t.now = s.now + (e.first + 86400000000000 - s.dev.time)) ∧
    (∀ p : Fin 512, let x := s.slice p; let k := x.sweep / 8208;
      let gone := isRetired s p (slotSub k) = true ∨ x.lost = true;
      (¬ gone → rowQueue s p k = true → exec (.sweeperRowRead p) s = .next s) ∧
      (gone ∨ rowQueue s p k = false → ∃ t, exec (.sweeperRowRead p) s = .next t ∧
        (t.slice p).sweep = (if 787968 ≤ x.sweep + 1 then 0 else x.sweep + 1)) ∧
      (gone → x.sweep + 1 < 787968 → exec (.sweeperRowRead p) s = .next (setSlice s p { x with sweep := x.sweep + 1 })) ∧
      (¬ gone → rowQueue s p k = false → s.mem = [] → s.undef = [] → x.sweep + 1 < 787968 →
        exec (.sweeperRowRead p) s = .next (modSlice (countRow s p k) p fun y => { y with sweep := x.sweep + 1 }))) ∧
    (∀ (p : Fin 512) (m : BitVec 16), exec (.sweepLate p m) s = .next (if (s.slice p).sweepLate = true ∨ m.toNat < 15 then s
      else raise (setSlice s p { s.slice p with sweepLate := true }) 0x0106 0 [(16, 2, p.val), (18, 2, m.toNat)]))) ∧
  (∀ (s : State) (p : Fin 512) (layer : Fin 12) (bank : Fin 8) (row : Fin 8208), let k := 8 * layer.val + bank.val; let x := s.slice p;
    let r := rowServed s p k row; let free := goodSpare s.floor.rows.use p k (tget zeroN x.spCount k);
    physRow s p k r = row.val → r < 8192 → evEn s.dev = false →
    (∀ j, free = some j → tget zeroN x.spCount k ≤ j ∧ j < 16 ∧ ¬ (p.val, k, 8192 + j) ∈ s.floor.rows.use) ∧
    (∀ j, free = some j → ∃ t, exec (.rowSpare p layer bank row) s = .next t ∧
      tget zeroN (t.slice p).spares (8208 * k + r) = 8192 + j ∧ tget zeroN (t.slice p).spCount k = j + 1 ∧ t.crofts = s.crofts) ∧
    (free = none → tget zeroB x.spExh k = true → exec (.rowSpare p layer bank row) s = .next s) ∧
    (free = none → tget zeroB x.spExh k = false → exec (.rowSpare p layer bank row) s =
      .next (raise (setSlice s p { x with spExh := tset zeroB x.spExh k true }) 0x0105 1 [(16, 2, p.val), (18, 1, k / 8), (19, 1, k % 8)])))

/-- SENSOR_SAMPLE (R431, R432, R443): at most every 100 µs; the last reading of a sensor is kept with its correction, and one outside −20 °C
to 150 °C makes the sensor suspect; each measurement of the powers enters the sums, and the running averages are over the last hundred. SENSOR_SILENCE, SENSOR_DISAGREE, TILE_SENSOR_DISAGREE (R432, R435, R437): a sensor silent for 1 ms, the
one of a croft's two further from the modelled temperature after 100 ms, and a tile's outlier after 1 s become suspect. CANARY_CHECK
(R431, R439, R440): a check ends its hold time after it began, a second after the last or at once after CE_BUCKET; its temperature is kept;
the third check running at least 8 K above a middle-layer tile's sensor value makes the tile MODELLED, with its four sensors suspect; a lower
check starts the count again. -/
def Obligations.SensorsRead : Prop :=
  (∀ (s : State) (t : ThermIn), ∃ u, exec (.sensorSample t) s = .next u ∧ u.now = max s.now (s.therm.sampleAt + 100000) ∧
    u.therm.sampleAt = u.now ∧ u.therm.modN = s.therm.modN + t.powers.length ∧
    u.therm.modSum = s.therm.modSum + (t.powers.map (·.module)).foldl (· + ·) 0 ∧
    (t.powers ≠ [] → u.therm.powers = (t.powers.reverse ++ s.therm.powers).take 100 ∧ u.therm.modIn = meanOf u.therm.powers (·.module) ∧
      ∀ v, v < 4 → tget zeroN u.therm.vpower v = meanOf u.therm.powers (villagePower · v)) ∧
    u.crofts = s.crofts ∧ u.cmds = s.cmds ∧
    ∀ l i v, t.temps = l ++ [(i, v)] → tget zeroI u.therm.last (sensorNo i) = corrected s i v ∧
      (corrected s i v < -160 ∨ 1200 < corrected s i v → tget zeroB u.therm.suspect (sensorNo i) = true)) ∧
  (∀ s : State,
    (∀ i : SensorId, let u := notBefore s (tget zeroN s.therm.lastAt (sensorNo i) + 1000000);
      exec (.sensorSilence i) s = .next (if tget zeroB s.therm.suspect (sensorNo i) then u
        else raise (bump { u with therm := { u.therm with suspect := tset zeroB u.therm.suspect (sensorNo i) true } } (ctrSquare 45) 1)
          0x0301 0 (sensorFields i ++ [(22, 1, 1)]))) ∧
    (∀ p : Fin 512, 0 < tget zeroN s.therm.disAt p → ∃ t, exec (.sensorDisagree p) s = .next t ∧
      (tget zeroN s.therm.disAt p) - 1 + 100000000 ≤ t.now ∧ tget zeroN t.therm.disAt p = 0 ∧
      ((reading s (.ringOsc p) - modelTemp s p).natAbs < (reading s (.diode p) - modelTemp s p).natAbs →
        tget zeroB t.therm.suspect (sensorNo (.diode p)) = true) ∧
      ((reading s (.diode p) - modelTemp s p).natAbs ≤ (reading s (.ringOsc p) - modelTemp s p).natAbs →
        tget zeroB t.therm.suspect (sensorNo (.ringOsc p)) = true)) ∧
    (∀ p : Fin 512, tget zeroN s.therm.disAt p = 0 → exec (.sensorDisagree p) s = .next s) ∧
    (∀ (i : Fin 192) (q : Fin 4), 0 < tget zeroN s.therm.tdisAt (4 * i.val + q.val) → ∃ t, exec (.tileSensorDisagree i q) s = .next t ∧
      tget zeroN s.therm.tdisAt (4 * i.val + q.val) - 1 + 1000000000 ≤ t.now ∧ tget zeroN t.therm.tdisAt (4 * i.val + q.val) = 0 ∧
      tget zeroB t.therm.suspect (sensorNo (.tile i q)) = true)) ∧
  (∀ (s : State) (i : Fin 192) (q : Fin 4) (f : Nat), let c := 4 * i.val + q.val; let tc := canaryTemp s i q f;
    let high := decide (1 ≤ i.val % 12 ∧ i.val % 12 ≤ 10) && match tc with
      | some x => decide (tget zeroI s.therm.tileV i + 64 ≤ x)
      | none => false;
    let third := high && decide (2 ≤ tget zeroN s.therm.canHigh c);
    ∃ t, exec (.canaryCheck i q f) s = .next t ∧ t.now = max s.now (canaryStart s c + 1000000 * tget zeroN s.therm.canH c) ∧
      tget zeroN t.therm.canAt c = t.now - 1000000 * tget zeroN s.therm.canH c ∧ tget zeroN t.ctr (ctrSquare 46) = tget zeroN s.ctr (ctrSquare 46) + 1 ∧
      tget noTemp t.therm.canNow c = tc ∧ tget zeroN t.therm.canHigh c = (if high then tget zeroN s.therm.canHigh c + 1 else 0) ∧
      tget zeroB t.therm.modelled i = (tget zeroB s.therm.modelled i || third) ∧
      (∀ r : Fin 4, tget zeroB t.therm.suspect (sensorNo (.tile i r)) =
        (tget zeroB s.therm.suspect (sensorNo (.tile i r)) || (!tget zeroB s.therm.modelled i && third))) ∧ t.crofts = s.crofts)

/-- LIMITER_RAISE and LIMITER_LOWER (R444, R445): every 10 µs the θ of a portion rises by 1 for each condition that holds, to 63 at most
(a count of conditions a portion, log entry 47); every 1 ms the highest θ of a village that may be lowered falls by 1. CAP_STEP and
CAP_TIMEOUT (R427, R446, R447): while the firmware runs the envelope set last takes effect, no stack cap exceeds the envelope's, and the
module cap is the envelope's, or 200 W in a cooling fault; with no step for 100 ms the caps fall to half. COOLING_FAULT, COOLING_RESTORED,
FLOW_STOP, FLOW_STOP_END (R447 to R449). THERMTRIP (R450, R451): a trip condition at two consecutive samples turns every rail off, and
THERMTRIP# is asserted; without one nothing happens. -/
def Obligations.LimitsHold : Prop :=
  (∀ s : State,
    (∃ t, exec .limiterRaise s = .next t ∧ t.now = max s.now (s.therm.raiseAt + 10000) ∧ t.therm.raiseAt = t.now ∧ t.crofts = s.crofts ∧
      ∀ k v, k < 8 → v < 4 → thetaOf t k v = if raises s k v = 0 then thetaOf s k v else min 63 (thetaOf s k v + raises s k v)) ∧
    (∀ v : Fin 4, ∃ t, exec (.limiterLower v) s = .next t ∧ t.now = max s.now (tget zeroN s.therm.lowerAt v + 1000000) ∧
      tget zeroB t.therm.raised v = false ∧ t.crofts = s.crofts ∧
      (mayLower s v = false → t.therm.theta = s.therm.theta) ∧
      (mayLower s v = true → topPortion s v = none → t.therm.theta = s.therm.theta) ∧
      (∀ k, mayLower s v = true → topPortion s v = some k → thetaOf t k v = thetaOf s k v - 1 ∧
        ∀ j, j ≠ 4 * k + v.val → tget zeroN t.therm.theta j = tget zeroN s.therm.theta j))) ∧
  (∀ s : State,
    (fwRuns s = false → exec .capStep s = .next s) ∧
    (fwRuns s = true → ∃ t, exec .capStep s = .next t ∧ t.now = max s.now (s.therm.capAt + 10000000) ∧ t.therm.capAt = t.now ∧
      t.dev.env = s.dev.envNext ∧ (∀ v, v < 4 → tget vcap0 t.therm.vcap v ≤ envStack s.dev.envNext) ∧
      t.therm.mcap = (if s.therm.coolfault then 200000 else envModule s.dev.envNext) ∧ t.crofts = s.crofts ∧ t.mem = s.mem) ∧
    (∃ t, exec .capTimeout s = .next t ∧ t.now = max s.now (s.therm.capAt + 100000000) ∧
      (∀ v, v < 4 → tget vcap0 t.therm.vcap v = envStack s.dev.env / 2) ∧
      t.therm.mcap = (if s.therm.coolfault then min 200000 (envModule s.dev.env / 2) else envModule s.dev.env / 2) ∧ t.crofts = s.crofts)) ∧
  (∀ s : State,
    (∀ a cause, s.therm.coolfault = false → badSince s = some (a, cause) → ∃ t, exec .coolingFault s = .next t ∧ t.therm.coolfault = true ∧
      t.therm.mcap = 200000 ∧ a + 1000000000 ≤ t.now ∧ t.therm.flow = s.therm.flow) ∧
    (s.therm.coolfault = true → exec .coolingFault s = .next s) ∧
    (∀ a, s.therm.goodAt = some a → s.therm.coolfault = true →
      (s.therm.flowstop = true → exec .coolingRestored s = .next s) ∧
      (s.therm.flowstop = false → ∃ t, exec .coolingRestored s = .next t ∧ t.therm.coolfault = false ∧
        t.therm.mcap = envModule s.dev.env ∧ t.now = max s.now (a + 10000000000))) ∧
    (s.therm.flowstop = false →
      (s.therm.lowFlow < 5 → exec .flowStop s = .next s) ∧
      (5 ≤ s.therm.lowFlow → ∃ t, exec .flowStop s = .next t ∧ t.therm.flowstop = true ∧ t.therm.coolfault = true)) ∧
    (∀ a b, s.therm.flowstop = true → s.therm.flowOk = some a → s.therm.coolSince = some b → exec .flowStopEnd s =
      .next (let u := notBefore s (max a b + 10000000000); { u with therm := { u.therm with flowstop := false } }))) ∧
  (∀ s : State,
    (s.therm.tripHit = true → ∃ t, exec .thermtrip s = .next t ∧ t.boot.thermtrip = true ∧ t.boot.rails = false ∧ t.boot.inRange = true ∧
      t.eeprom = eepromOff s ∧ t.fuses = s.fuses ∧ t.crofts = [] ∧ t.mem = [] ∧ t.cmds = []) ∧
    (s.therm.tripHit = false → fwRuns s = false ∨ firmwareTrip s = false → exec .thermtrip s = .next s))

/-- ROTA_PERIOD (R436, R452, R453): every 50 ms each croft owes one rotation more, and the period number rises. THERMAL_CYCLE_SAMPLE and
LIFE_COUNTER_WRITE (R454, R455, R460): with the life counters' copies equal, a sample adds a second and steps every village's counters,
and AIRNEED is formed; every 10 min the counters reach all three EEPROM copies. -/
def Obligations.RotaAndLife : Prop :=
  (∀ s : State, ∃ t, exec .rotaPeriod s = .next t ∧ t.now = max s.now ((s.therm.rota + 1) * 50000000) ∧ t.therm.rota = s.therm.rota + 1 ∧
    t.therm.thChange = [] ∧ t.therm.pcMin = s.therm.pc ∧ t.therm.pcMax = s.therm.pc ∧
    ∀ p, p < 512 → (t.croft p).pendRot = (s.croft p).pendRot + 1 ∧ (t.croft p).rot = (s.croft p).rot ∧ (t.croft p).cstate = (s.croft p).cstate) ∧
  (∀ (s : State) (w : LifeWord), s.therm.life = Tri.same w →
    (∃ t w', exec .thermalCycleSample s = .next t ∧ t.now = max s.now (s.therm.cycAt + 1000000000) ∧ t.therm.cycAt = t.now ∧
      t.therm.life = Tri.same w' ∧ w'.secs = w.secs + 1 ∧
      (∀ v, v < 4 → tget life0 w'.v v = lifeStep (tget life0 w.v v) (layer0Max s v)) ∧
      t.therm.modSum = 0 ∧ t.therm.modN = 0 ∧ t.dev.airneed = BitVec.ofNat 16 (airNeed s)) ∧
    (∃ t, exec .lifeCounterWrite s = .next t ∧ t.now = max s.now (s.therm.lifeAt + 600000000000) ∧ t.therm.lifeAt = t.now ∧
      t.eeprom = { s.eeprom with life := Tri.same w, old := some (.life s.eeprom.life.use, t.now) } ∧ t.therm.life = Tri.same w ∧ t.crofts = s.crofts ∧ t.mem = s.mem))

/-- LINK_TRAINED, LINK_DOWN, LINK_DOWN_TIMEOUT, LINK_UP (R465 to R467): the link trains to a width and rate of R465, below x16 at 64 GT/s
with an event; down, it holds the accesses; after 1 s the requests in execution end with ABORTED; up again it lets them go, and reports the
outage once no record is held, or when the link goes down again. CXL_IDE_KM and IDE_FAIL (R477, R478): a programmed key set makes the link secure; an integrity failure makes it insecure, drops
the keys and raises IDE_FAIL. BIRSP and HOST_SNOOP (R471, R473): the response for a line lets the write that waits for it complete, and
another changes nothing; a snoop to a host line that is held drops it. HOST_ACCESS_COMPLETION and HOST_ACCESS_TIMEOUT (R474, R478): a
write of a command that completes is done with; one that fails, is refused by the insecure state, or is not answered within 50 ms
completes its command with HOST_ACCESS and the address, one that had met poison among them. -/
def Obligations.HostLinkFollows : Prop :=
  (∀ s : State,
    (∀ width rate, s.link.perst = false → s.boot.rails = true → s.boot.stage ≠ .rom → width = 16 ∨ width = 8 →
      rate = 64 ∨ rate = 32 ∨ rate = 16 →
      let u := fun low : Bool => { s with link := { s.link with width := width, rate := rate, deg := low, up := s.link.up || s.link.width == 0 } };
      exec (.linkTrained width rate) s = .next (if width = 16 ∧ rate = 64 then u false
        else raise (u true) 0x0401 1 [(16, 1, width), (17, 1, rate)])) ∧
    (s.link.up = true →
      let down := fun u : State => { u with link := { u.link with
        up := false, downAt := u.now, downEnds := 0, downDone := false, reqs := u.link.reqs.map fun r => { r with held := true } } };
      (s.link.back = none → exec .linkDown s = .next (down s)) ∧
      (∀ t n l, s.link.back = some (t, n, l) → exec .linkDown s =
        .next (down (raise { s with link := { s.link with back := none } } 0x0402 2 [(16, 8, t), (24, 2, n)])))) ∧
    (s.link.up = false → s.link.width ≠ 0 → s.link.perst = false →
      (s.link.downDone = false → let r := endCommands (notBefore s (s.link.downAt + 1000000000)) (inExecution s) 0x0001 0;
        exec .linkDownTimeout s = .next { r.2 with link := { r.2.link with downEnds := r.1, downDone := true } }) ∧
      (s.link.downDone = true → exec .linkDownTimeout s = .next s) ∧
      ((s.queues.map (·.1)).Nodup → (∀ e ∈ s.queues, e.2.hold = [] ∧ ∃ b, e.2.base = Tri.same b) → s.dev.evq = [] →
        ∃ u, exec .linkUp s = .next (raise u 0x0402 2 [(16, 8, s.now - s.link.downAt), (24, 2, s.link.downEnds)]) ∧
          u.link = { s.link with up := true, back := none, reqs := s.link.reqs.map fun r => { r with held := false, at0 := s.now } } ∧
          u.cmds = s.cmds.map (fun c => { c with bellAt := pastOutage s s.link.downAt c.bellAt }) ∧
          (∀ q, u.queue q = shiftBells s s.link.downAt (s.queue q)) ∧
          { u with link := s.link, cmds := s.cmds, queues := s.queues } = s))) ∧
  (∀ (s : State) (key : Fin 2) (sent : Bool),
    exec (.cxlIdeKm key) s = .next { s with link := { s.link with ide := .secure, ideKeys := s.link.ideKeys ||| BitVec.twoPow 2 key } } ∧
    (s.link.ide = .secure → exec (.ideFail key sent) s =
      .next (raise { s with link := { s.link with ide := .insecure, ideKeys := 0 } } 0x0403 2 [(16, 1, key.val), (17, 1, sent.toNat)])) ∧
    (s.link.ide ≠ .secure → exec (.ideFail key sent) s = .next s)) ∧
  (∀ s : State,
    (∀ (b : BiWait) (line : Nat), s.link.bisn = [b] → exec (.birsp line) s =
      .next (if biLine s b = line then pumpAll (applyBi { s with link := { s.link with bisn := [] } } b) else s)) ∧
    (∀ line : BitVec 64, exec (.hostSnoop line) s = .next (if 0 < tget zeroN s.link.hostLines line.toNat
      then bump { s with link := { s.link with
        hostLines := tset zeroN s.link.hostLines line.toNat 0, out := .snoopHit true :: s.link.out } } (ctrSquare 53) 1
      else { s with link := { s.link with out := .snoopHit false :: s.link.out } }))) ∧
  (∀ (s : State) (id : Nat) (r : HostReq) (cid : Nat) (c : Cmd) (data : List Byte) (bad : List Nat), s.link.reqs.find? (fun x => x.id == id && !x.held) = some r →
    r.why = .cmdWrite cid → cmdBy s cid = some c →
    let done := fun u : State => { u with link := { u.link with reqs := u.link.reqs.filter fun x => x.id ≠ r.id } };
    (s.link.ide ≠ .insecure → exec (.hostAccessCompletion id true data bad) s = .next (done s)) ∧
    (c.status = 0 ∨ c.status = 9 →
      exec (.hostAccessCompletion id false data bad) s = .next (settle (bump (done s) (ctrSquare 55) 1) cid 0x000A r.addr) ∧
      (s.link.ide = .insecure → r.peer = false →
        exec (.hostAccessCompletion id true data bad) s = .next (settle (bump (done s) (ctrSquare 55) 1) cid 0x000A r.addr)) ∧
      exec (.hostAccessTimeout id) s =
        .next (settle (bump (done (notBefore s (r.at0 + 50000000))) (ctrSquare 55) 1) cid 0x000A r.addr)))

/-- HDM_DECODER_COMMIT and HDM_DECODER_UNCOMMIT (R468, R470): a commit that meets R468 places the range after the one before it and the
skip; another sets the decoder's error and leaves it as it was (log entry 43, the model's choice). Uncommitting clears its page bits.
CXL_MEM_READ, CXL_MEM_WRITE, UIO_REQUEST (R214, R468, R469, R470, R476, R478): while the link is up and not insecure the host reads and
writes device memory, and a peer likewise, except in HALT (log entry 65). An access waits in the host port behind an earlier one of its
partition, or is served once it has its tokens; a read that waits for no bank answers with the bytes. Bytes in no committed decoder read
zero with poison, and a write of them is discarded; in the insecure state every CXL.mem access fails, which the model leaves without an
answer (log entry 57). -/
def Obligations.HostMemoryServed : Prop :=
  (∀ (s : State) (d : Fin 4), let x := decoderAt s d; let a := dpaAfter s d + x.skip;
    (x.commit = false → commitOk s d a = true → exec (.hdmDecoderCommit d) s =
      .next (setDecoder s d { x with commit := true, err := false, dpa := a })) ∧
    (x.commit = false → commitOk s d a = false → exec (.hdmDecoderCommit d) s = .next (setDecoder s d { x with err := true })) ∧
    (x.commit = true → exec (.hdmDecoderCommit d) s = .next s ∧ ∃ t, exec (.hdmDecoderUncommit d) s = .next t ∧
      decoderAt t d = { x with commit := false, err := false, dpa := 0 } ∧
      (∀ j, j ≠ d.val → decoderAt t j = decoderAt s j) ∧ t.mem = s.mem ∧ t.crofts = s.crofts)) ∧
  (∀ (s : State) (h : BitVec 64) (n : Nat) (data : List Byte) (poison : Bool),
    (s.link.up = true → s.boot.stage ≠ .halt →
      (s.link.ide ≠ .insecure →
        exec (.cxlMemRead h n) s = .next (outsideAccess s false h.toNat n [] false .host) ∧
        exec (.cxlMemWrite h data poison) s = .next (outsideAccess s true h.toNat data.length data poison .host)) ∧
      exec (.uioRequest h false n data poison) s = .next (outsideAccess s false h.toNat n [] false .peer) ∧
      exec (.uioRequest h true n data poison) s = .next (outsideAccess s true h.toNat data.length data poison .peer)) ∧
    (s.link.ide = .insecure → exec (.cxlMemRead h n) s = .next s ∧ exec (.cxlMemWrite h data poison) s = .next s) ∧
    (∀ (k : Nat) (write : Bool) (src : Src), portPart s h.toNat = some k →
      let x : PortWait := ⟨k, write, h.toNat, n, data, poison, src, s.now⟩;
      let u := accrue s k;
      ((∃ y ∈ s.link.portQ, y.part = k) → outsideAccess s write h.toNat n data poison src =
        { u with link := { u.link with portQ := s.link.portQ ++ [x] } }) ∧
      ((∀ y ∈ s.link.portQ, y.part ≠ k) → shortOf u k (portDemand u x) = none →
        outsideAccess s write h.toNat n data poison src = serveOutside (takeTokens u k (portDemand u x)) x)) ∧
    (∀ (u : State) (src : Src), let v := trackPages (countUnbacked u h.toNat n) h.toNat n;
      (∀ x ∈ piecesOf 64 h.toNat n, outsideWaits v x.1 = none) → let r := readVia v viaHost h.toNat n src 0xFF;
      outsideRead u h.toNat n src = emit r.2 (.readData (r.1.map (·.1)) (r.1.any (·.2)))) ∧
    (s.link.up = true → s.boot.stage ≠ .halt → s.link.ide ≠ .insecure →
      (0 < n → (∀ a, h.toNat ≤ a → a < h.toNat + n → decoderOf s a = none) →
        ∃ t, exec (.cxlMemRead h n) s = .next t ∧ t.link.out = .readData (List.replicate n 0) true :: s.link.out ∧
          { t with link := s.link, ctr := s.ctr } = s) ∧
      (0 < data.length → (∀ a, h.toNat ≤ a → a < h.toNat + data.length → decoderOf s a = none) → owed s (.port s.link.nextReq) = false →
        ∃ t, exec (.cxlMemWrite h data poison) s = .next t ∧ t.link.out = .writeDone :: s.link.out ∧ { t with link := s.link, ctr := s.ctr } = s)))

/-- The address and event CCCs (R479, R487), while the port answers: ENTDAA answers with PID, BCR and DCR and takes the address, as SETDASA
does, while the port has none; RSTDAA drops it; ENEC and DISEC switch interrupts and hot joins. The order of the bytes, the event bits, and
that an address held is not replaced are presumed (log entry 52). The CCCs that read or set (R479): each get answers with its value, and a
set is kept. What GETSTATUS returns is a free value, and the bytes of GETMWL and GETMRL are presumed (log entry 52). Private transfers and
requests (R480, R481): REG_SEL is answered with registers at rising offsets, read after read; ALERT_ACK releases ALERT#; a read with nothing
to answer is not acknowledged; the port joins once; an interrupt request is sent up to eight times more. Before the port answers, none of its
transfers changes anything. -/
def Obligations.PortAnswers : Prop :=
  (∀ (s : State) (a : BitVec 7) (bits : BitVec 8), portAnswers s = true →
    (s.i3c.dyn = none →
      (∃ t, exec (.entdaa a) s = .next t ∧ t.i3c = { s.i3c with dyn := some a } ∧
        t.link.out = .i3c ((leBytes 6 (i3cPid s)).reverse ++ [0x06, 0x00]) :: s.link.out ∧ { t with i3c := s.i3c, link := s.link } = s) ∧
      exec (.setdasa a) s = .next { s with i3c := { s.i3c with dyn := some a } }) ∧
    (s.i3c.dyn.isSome = true → exec (.entdaa a) s = .next s ∧ exec (.setdasa a) s = .next s) ∧
    exec .rstdaa s = .next { s with i3c := { s.i3c with dyn := none } } ∧
    exec (.enec bits) s = .next { s with i3c := { s.i3c with
      ibiEn := bits.getLsbD 0 || s.i3c.ibiEn, hjEn := bits.getLsbD 3 || s.i3c.hjEn } } ∧
    exec (.disec bits) s = .next { s with i3c := { s.i3c with
      ibiEn := !bits.getLsbD 0 && s.i3c.ibiEn, hjEn := !bits.getLsbD 3 && s.i3c.hjEn } }) ∧
  (∀ (s : State) (n : BitVec 16), portAnswers s = true →
    let out := fun bs : List Byte => { s with link := { s.link with out := .i3c bs :: s.link.out } };
    exec .getpid s = .next (out (leBytes 6 (i3cPid s)).reverse) ∧ exec .getbcr s = .next (out [0x06]) ∧ exec .getdcr s = .next (out [0x00]) ∧
    (∃ t bs, exec .getstatus s = .next t ∧ bs.length = 2 ∧ t.link.out = .i3c bs :: s.link.out ∧
      { t with link := s.link, free := s.free } = s) ∧
    exec .getmwl s = .next (out (leBytes 2 s.i3c.mwl.toNat).reverse) ∧
    exec .getmrl s = .next (out ((leBytes 2 s.i3c.mrl.toNat).reverse ++ [0x04])) ∧
    exec (.setmwl n) s = .next { s with i3c := { s.i3c with mwl := n.setWidth 32 } } ∧
    exec (.setmrl n) s = .next { s with i3c := { s.i3c with mrl := n.setWidth 32 } }) ∧
  (∀ s : State, portAnswers s = true →
    (∀ off : BitVec 32, exec (.regSel off) s = .next { s with i3c := { s.i3c with resp := .reg off.toNat } }) ∧
    (∃ t, exec .alertAck s = .next t ∧ t.i3c = { s.i3c with alert := false, resp := .ack s.i3c.alert } ∧ t.dev.w1c.getLsbD 0 = false ∧
      { t with i3c := s.i3c, dev := s.dev } = s) ∧
    (s.i3c.resp = .none → exec .i3cPrivateRead s = .next { s with link := { s.link with out := .nack :: s.link.out } }) ∧
    (∀ b, s.i3c.resp = .ack b → exec .i3cPrivateRead s =
      .next { s with link := { s.link with out := .i3c [if b then 1 else 0] :: s.link.out } }) ∧
    (s.i3c.resp = .fw → exec .i3cPrivateRead s = .next { s with
      link := { s.link with out := .i3c (leBytes 4 (s.i3c.fwStat.toNat + stageCode s.boot.stage * 2 ^ 16)) :: s.link.out } }) ∧
    (∀ off, s.i3c.resp = .reg off → exec .i3cPrivateRead s = .next { s with
      link := { s.link with out := .i3c (leBytes 8 (devRead s off).toNat) :: s.link.out }
      i3c := { s.i3c with resp := .reg (off + 8) } }) ∧
    (∀ off n, s.i3c.resp = .reg off →
      (List.range n).foldl (fun (o : Host.Outcome State Fault Refusal) _ => match o with
        | .next u => exec .i3cPrivateRead u
        | o => o) (.next s) = .next { s with
          link := { s.link with out := ((List.range n).map fun i => .i3c (leBytes 8 (devRead s (off + 8 * i)).toNat)).reverse ++ s.link.out }
          i3c := { s.i3c with resp := .reg (off + 8 * n) } }) ∧
    (s.i3c.dyn = none → s.i3c.hjEn = true →
      (s.i3c.hjSent = true → exec .hotJoin s = .next s) ∧
      (s.i3c.hjSent = false → ∃ t, exec .hotJoin s = .next t ∧ t.i3c = { s.i3c with hjSent := true } ∧
        t.link.out = .hotJoin :: s.link.out ∧ t.now = max s.now (s.i3c.readyAt + 100000000)))) ∧
  (∀ (s : State) (a : BitVec 7) (bits : BitVec 8) (n : BitVec 16) (off : BitVec 32), portAnswers s = false →
    ∀ c ∈ [Instr.entdaa a, .setdasa a, .rstdaa, .enec bits, .disec bits, .getpid, .getbcr, .getdcr, .getstatus, .getmwl, .getmrl, .setmwl n,
      .setmrl n, .regSel off, .alertAck, .i3cPrivateRead, .hotJoin], exec c s = .next s) ∧
  (∀ s : State, ∀ w n t0 rest, s.i3c.ibis = (w, n, t0) :: rest →
    let less := { s with i3c := { s.i3c with ibis := rest } };
    exec (.ibiRetry false) s = .next (bump less (ctrSquare 59) 1) ∧
    (8 ≤ n → exec (.ibiRetry true) s = .next (bump less (ctrSquare 60) 1)) ∧
    (n < 8 → ∃ t, exec (.ibiRetry true) s = .next t ∧ t.i3c.ibis = (w, n + 1, max s.now (t0 + 100000)) :: rest ∧
      t.link.out = .ibi w :: s.link.out))

/-- PPS_EDGE and PPS_LOST (R482, R483): a short pulse, or one within 500 ms of the last, is ignored; an edge within 50 µs of a second
snaps device time to it, moves the trim by an eighth of the error, and locks; without an edge for 3 s the lock is lost, and the trim is
held. ERRSTATUS_CLEAR, DEVSTATUS_CLEAR, EVHEAD_WRITE, EVENT_RING_ENABLE, REGISTER_WRITE (R511, R515 to R518): a 1 written to a W1C bit
clears it, and ALERT with it ALERT#; a reachable EVHEAD is taken and another ignored; enabling the ring, again too, starts it at 0 with
phase 1; a leak period of 1 to 3,600 s is taken and another ignored; a write of a size or at an offset that its registers do not take has no
effect, and such a read returns zero. A pair's entry reads its four words (R10, R308). -/
def Obligations.TimeAndRegisters : Prop :=
  (∀ (s : State) (w : Nat),
    (w < 1000 → exec (.ppsEdge w) s = .next (bump s (ctrSquare 58) 1)) ∧
    (1000 ≤ w → (∃ a, s.dev.ppsAt = some a ∧ s.now < a + 500000000) → exec (.ppsEdge w) s = .next s) ∧
    (∀ sec, 1000 ≤ w → s.dev.ppsAt = none → s.dev.time ≤ sec * 1000000000 + 50000 → sec * 1000000000 ≤ s.dev.time + 50000 →
      ∃ t, exec (.ppsEdge w) s = .next t ∧ t.dev.time = sec * 1000000000 ∧ t.dev.locked = true ∧ t.dev.flagged = false ∧
        t.dev.trim = max (-1600000) (min 1600000 (s.dev.trim - ((s.dev.time : Int) - sec * 1000000000))) ∧
        t.dev.lastpps = s.dev.time ∧ t.dev.ppsAt = some s.now ∧ tget zeroN t.ctr (ctrSquare 56) = tget zeroN s.ctr (ctrSquare 56) + 1 ∧
        { t with dev := s.dev, ctr := s.ctr } = s) ∧
    (∀ a, s.dev.locked = true → s.dev.ppsAt = some a → ∃ t, exec .ppsLost s = .next t ∧ t.dev.locked = false ∧ t.dev.trim = s.dev.trim ∧
      t.now = max s.now (a + 3000000000)) ∧
    (s.dev.locked = false → exec .ppsLost s = .next s)) ∧
  (∀ (s : State) (w : BitVec 64),
    exec (.errstatusClear w) s = .next { s with dev := { s.dev with errstatus := s.dev.errstatus &&& ~~~ w } } ∧
    (∃ t, exec (.devstatusClear w) s = .next t ∧ t.dev = { s.dev with w1c := s.dev.w1c &&& ~~~ (w.extractLsb' 16 4) } ∧
      t.i3c = { s.i3c with alert := s.i3c.alert && !w.getLsbD 16 } ∧ { t with dev := s.dev, i3c := s.i3c } = s) ∧
    (let h := (w.extractLsb' 0 12).toNat; let n := evSize s.dev;
      (n ≤ h ∨ (s.dev.evtail + n - s.dev.evhead) % n < (h + n - s.dev.evhead) % n → exec (.evheadWrite w) s = .next s) ∧
      (h < n → (h + n - s.dev.evhead) % n ≤ (s.dev.evtail + n - s.dev.evhead) % n → s.dev.evdrop = 0 →
        exec (.evheadWrite w) s = .next { s with dev := { s.dev with evhead := h } })) ∧
    (evEn s.dev = true → (s.dev.evcfg.extractLsb' 8 4).toNat ≤ 8 → evDevMem s.dev = false → s.dev.evdrop = 0 → s.dev.evq = [] →
      ∃ t, exec .eventRingEnable s = .next t ∧ evEn t.dev = true ∧ t.dev.evcfg.extractLsb' 1 63 = s.dev.evcfg.extractLsb' 1 63 ∧
        t.dev.evhead = 0 ∧ t.dev.evtail = 0 ∧ t.dev.evphase = true ∧ t.dev.evdrop = 0 ∧ t.dev.eseq = s.dev.eseq ∧
        { t with dev := s.dev, link := s.link } = s) ∧
    (evEn s.dev = false → (s.dev.evcfg.extractLsb' 8 4).toNat ≤ 8 → evDevMem s.dev = false → s.dev.evdrop = 0 →
      exec .eventRingEnable s = .next { s with dev := { s.dev with
        evcfg := s.dev.evcfg ||| 1, evhead := 0, evtail := 0, evphase := true, evq := [] } }) ∧
    (let n := (w.extractLsb' 0 12).toNat;
      exec (.registerWrite 0x18 ⟨w, 8⟩) s = .next (if 1 ≤ n ∧ n ≤ 3600 then { s with dev := { s.dev with leak := w.extractLsb' 0 12 } } else s)) ∧
    exec (.registerWrite 0x58 ⟨w, 8⟩) s = .next { s with dev := { s.dev with when := w.getLsbD 0 } } ∧
    (∀ (off : BitVec 18) (n : Nat), accessOk off.toNat n = false → exec (.registerWrite off ⟨w, n⟩) s = .next s ∧ regRead s off.toNat n = 0) ∧
    (∀ a n, (a < 0x1000 ∨ 0x20000 ≤ a → (accessOk a n = true ↔ n = 8 ∧ a % 8 = 0)) ∧ (accessOk a n = true → a % n = 0)) ∧
    (∀ q : Fin 4096, let x := s.queue q; let a := 0x20000 + 32 * q.val;
      regRead s a = (x.cfg ||| BitVec.ofNat 64 (qEn x).toNat) ∧ regRead s (a + 8) = x.base.use.sqbase ∧
      regRead s (a + 16) = x.base.use.cqbase ∧ (regRead s (a + 24)).extractLsb' 0 16 = BitVec.ofNat 16 x.sqhead))
end

