-- ==== Sys2Proof/Laws/Exec.lean ====
section
/-! SUPPORT. Each command's meaning, so that no proof unfolds the dispatch. -/

namespace Sys2Proof.Machine

theorem exec_nop (c : CtxId) (w : BitVec 128) (s : State) : exec (.nop c w) s = execNop c w s := rfl
theorem exec_endStream (c : CtxId) (rsv : BitVec 120) (s : State) : exec (.endStream c rsv) s = execEndStream c rsv s := rfl
theorem exec_scalarAdd (c : CtxId) (f : ScalarF) (s : State) : exec (.scalarAdd c f) s = execScalarAdd c f s := rfl
theorem exec_scalarSub (c : CtxId) (f : ScalarF) (s : State) : exec (.scalarSub c f) s = execScalarSub c f s := rfl
theorem exec_scalarAnd (c : CtxId) (f : ScalarF) (s : State) : exec (.scalarAnd c f) s = execScalarAnd c f s := rfl
theorem exec_scalarOr (c : CtxId) (f : ScalarF) (s : State) : exec (.scalarOr c f) s = execScalarOr c f s := rfl
theorem exec_scalarXor (c : CtxId) (f : ScalarF) (s : State) : exec (.scalarXor c f) s = execScalarXor c f s := rfl
theorem exec_shl (c : CtxId) (f : ScalarF) (s : State) : exec (.shl c f) s = execShl c f s := rfl
theorem exec_shr (c : CtxId) (f : ScalarF) (s : State) : exec (.shr c f) s = execShr c f s := rfl
theorem exec_scalarMul (c : CtxId) (f : ScalarF) (s : State) : exec (.scalarMul c f) s = execScalarMul c f s := rfl
theorem exec_loadImmediate (c : CtxId) (f : ScalarF) (s : State) : exec (.loadImmediate c f) s = execLoadImmediate c f s := rfl
theorem exec_movFromSpecial (c : CtxId) (f : ScalarF) (s : State) : exec (.movFromSpecial c f) s = execMovFromSpecial c f s := rfl
theorem exec_branchAlways (c : CtxId) (f : BranchF) (s : State) : exec (.branchAlways c f) s = execBranchAlways c f s := rfl
theorem exec_branchEqual (c : CtxId) (f : BranchF) (s : State) : exec (.branchEqual c f) s = execBranchEqual c f s := rfl
theorem exec_branchNotEqual (c : CtxId) (f : BranchF) (s : State) : exec (.branchNotEqual c f) s = execBranchNotEqual c f s := rfl
theorem exec_branchLess (c : CtxId) (f : BranchF) (s : State) : exec (.branchLess c f) s = execBranchLess c f s := rfl
theorem exec_branchGreaterEqual (c : CtxId) (f : BranchF) (s : State) : exec (.branchGreaterEqual c f) s = execBranchGreaterEqual c f s := rfl
theorem exec_decrementAndBranch (c : CtxId) (f : BranchF) (s : State) : exec (.decrementAndBranch c f) s = execDecrementAndBranch c f s := rfl
theorem exec_dmaRead (c : CtxId) (f : DmaF) (s : State) : exec (.dmaRead c f) s = execDmaRead c f s := rfl
theorem exec_dmaWrite (c : CtxId) (f : DmaF) (s : State) : exec (.dmaWrite c f) s = execDmaWrite c f s := rfl
theorem exec_atomicAdd (c : CtxId) (f : DmaF) (s : State) : exec (.atomicAdd c f) s = execAtomicAdd c f s := rfl
theorem exec_atomicMin (c : CtxId) (f : DmaF) (s : State) : exec (.atomicMin c f) s = execAtomicMin c f s := rfl
theorem exec_atomicMax (c : CtxId) (f : DmaF) (s : State) : exec (.atomicMax c f) s = execAtomicMax c f s := rfl
theorem exec_cas (c : CtxId) (f : DmaF) (s : State) : exec (.cas c f) s = execCas c f s := rfl
theorem exec_swap (c : CtxId) (f : DmaF) (s : State) : exec (.swap c f) s = execSwap c f s := rfl
theorem exec_atomicAnd (c : CtxId) (f : DmaF) (s : State) : exec (.atomicAnd c f) s = execAtomicAnd c f s := rfl
theorem exec_atomicOr (c : CtxId) (f : DmaF) (s : State) : exec (.atomicOr c f) s = execAtomicOr c f s := rfl
theorem exec_atomicXor (c : CtxId) (f : DmaF) (s : State) : exec (.atomicXor c f) s = execAtomicXor c f s := rfl
theorem exec_setFlags (c : CtxId) (f : FlagF) (s : State) : exec (.setFlags c f) s = execSetFlags c f s := rfl
theorem exec_clearFlags (c : CtxId) (f : FlagF) (s : State) : exec (.clearFlags c f) s = execClearFlags c f s := rfl
theorem exec_fwait (c : CtxId) (f : FlagF) (s : State) : exec (.fwait c f) s = execFwait c f s := rfl
theorem exec_bar (c : CtxId) (f : BellF) (s : State) : exec (.bar c f) s = execBar c f s := rfl
theorem exec_ring (c : CtxId) (f : BellF) (s : State) : exec (.ring c f) s = execRing c f s := rfl
theorem exec_bwait (c : CtxId) (f : BellF) (s : State) : exec (.bwait c f) s = execBwait c f s := rfl
theorem exec_ssig (c : CtxId) (f : BellF) (s : State) : exec (.ssig c f) s = execSsig c f s := rfl
theorem exec_swait (c : CtxId) (f : BellF) (s : State) : exec (.swait c f) s = execSwait c f s := rfl
theorem exec_allgather (c : CtxId) (f : CollF) (s : State) : exec (.allgather c f) s = execAllgather c f s := rfl
theorem exec_allreduce (c : CtxId) (f : CollF) (s : State) : exec (.allreduce c f) s = execAllreduce c f s := rfl
theorem exec_mmaW (c : CtxId) (f : MmaF) (s : State) : exec (.mmaW c f) s = execMmaW c f s := rfl
theorem exec_mmaA (c : CtxId) (f : MmaF) (s : State) : exec (.mmaA c f) s = execMmaA c f s := rfl
theorem exec_mmaO (c : CtxId) (f : MmaF) (s : State) : exec (.mmaO c f) s = execMmaO c f s := rfl
theorem exec_vecAdd (c : CtxId) (f : VecF) (s : State) : exec (.vecAdd c f) s = execVecAdd c f s := rfl
theorem exec_vecMul (c : CtxId) (f : VecF) (s : State) : exec (.vecMul c f) s = execVecMul c f s := rfl
theorem exec_fma (c : CtxId) (f : VecF) (s : State) : exec (.fma c f) s = execFma c f s := rfl
theorem exec_vecMax (c : CtxId) (f : VecF) (s : State) : exec (.vecMax c f) s = execVecMax c f s := rfl
theorem exec_vecMin (c : CtxId) (f : VecF) (s : State) : exec (.vecMin c f) s = execVecMin c f s := rfl
theorem exec_relu (c : CtxId) (f : VecF) (s : State) : exec (.relu c f) s = execRelu c f s := rfl
theorem exec_cvt (c : CtxId) (f : VecF) (s : State) : exec (.cvt c f) s = execCvt c f s := rfl
theorem exec_scale (c : CtxId) (f : VecF) (s : State) : exec (.scale c f) s = execScale c f s := rfl
theorem exec_rsum (c : CtxId) (f : VecF) (s : State) : exec (.rsum c f) s = execRsum c f s := rfl
theorem exec_rmax (c : CtxId) (f : VecF) (s : State) : exec (.rmax c f) s = execRmax c f s := rfl
theorem exec_exp (c : CtxId) (f : VecF) (s : State) : exec (.exp c f) s = execExp c f s := rfl
theorem exec_rcp (c : CtxId) (f : VecF) (s : State) : exec (.rcp c f) s = execRcp c f s := rfl
theorem exec_gleanSum (c : CtxId) (f : GleanF) (s : State) : exec (.gleanSum c f) s = execGleanSum c f s := rfl
theorem exec_gleanMean (c : CtxId) (f : GleanF) (s : State) : exec (.gleanMean c f) s = execGleanMean c f s := rfl
theorem exec_gleanGather (c : CtxId) (f : GleanF) (s : State) : exec (.gleanGather c f) s = execGleanGather c f s := rfl
theorem exec_sieveSelect (c : CtxId) (f : SieveF) (s : State) : exec (.sieveSelect c f) s = execSieveSelect c f s := rfl
theorem exec_sieveRoute (c : CtxId) (f : SieveF) (s : State) : exec (.sieveRoute c f) s = execSieveRoute c f s := rfl
theorem exec_interlockIssue (c : CtxId) (s : State) : exec (.interlockIssue c) s = execInterlockIssue c s := rfl
theorem exec_laneBankLoad (p : Fin 512) (s : State) : exec (.laneBankLoad p) s = execLaneBankLoad p s := rfl
theorem exec_issueAfterLoad (p : Fin 512) (s : State) : exec (.issueAfterLoad p) s = execIssueAfterLoad p s := rfl
theorem exec_accumulatorDrain (p : Fin 512) (s : State) : exec (.accumulatorDrain p) s = execAccumulatorDrain p s := rfl
theorem exec_instructionRetire (p : Fin 512) (id : Nat) (s : State) : exec (.instructionRetire p id) s = execInstructionRetire p id s := rfl
theorem exec_clockStep (p : Fin 512) (s : State) : exec (.clockStep p) s = execClockStep p s := rfl
theorem exec_droopStretch (p : Fin 512) (supply : Nat) (cycles : Nat) (s : State) : exec (.droopStretch p supply cycles) s = execDroopStretch p supply cycles s := rfl
theorem exec_sieveBufferFree (c : CtxId) (s : State) : exec (.sieveBufferFree c) s = execSieveBufferFree c s := rfl
theorem exec_sieveRoundStart (part : Fin 8) (e : Fin 2) (s : State) : exec (.sieveRoundStart part e) s = execSieveRoundStart part e s := rfl
theorem exec_sieveRoundDone (part : Fin 8) (e : Fin 2) (s : State) : exec (.sieveRoundDone part e) s = execSieveRoundDone part e s := rfl
theorem exec_sieveRoundTimeout (part : Fin 8) (e : Fin 2) (s : State) : exec (.sieveRoundTimeout part e) s = execSieveRoundTimeout part e s := rfl
theorem exec_gleanCommandReceive (c : CtxId) (id : Nat) (s : State) : exec (.gleanCommandReceive c id) s = execGleanCommandReceive c id s := rfl
theorem exec_gleanSlotFree (c : CtxId) (id : Nat) (s : State) : exec (.gleanSlotFree c id) s = execGleanSlotFree c id s := rfl
theorem exec_chainValueArrive (p : Fin 512) (k : Nat) (s : State) : exec (.chainValueArrive p k) s = execChainValueArrive p k s := rfl
theorem exec_gleanerYield (p : Fin 512) (layer : Fin 12) (u : Fin 4) (s : State) : exec (.gleanerYield p layer u) s = execGleanerYield p layer u s := rfl
theorem exec_refreshDue (p : Fin 512) (layer : Fin 12) (bank : Fin 8) (s : State) : exec (.refreshDue p layer bank) s = execRefreshDue p layer bank s := rfl
theorem exec_regulatorRelease (part : Fin 8) (r : Regulator) (s : State) : exec (.regulatorRelease part r) s = execRegulatorRelease part r s := rfl
theorem exec_sliceRead (p : Fin 512) (off : Nat) (len : Nat) (src : Src) (flips : List (Nat × Fin 320)) (again : List (Nat × Fin 320 × BitVec 3)) (s : State) : exec (.sliceRead p off len src flips again) s = execSliceRead p off len src flips again s := rfl
theorem exec_sliceWrite (p : Fin 512) (off : Nat) (data : Sent) (poison : Bool) (src : Src) (s : State) : exec (.sliceWrite p off data poison src) s = execSliceWrite p off data poison src s := rfl
theorem exec_writeCombiningDrain (p : Fin 512) (line : Nat) (s : State) : exec (.writeCombiningDrain p line) s = execWriteCombiningDrain p line s := rfl
theorem exec_readModifyWrite (p : Fin 512) (word : Nat) (s : State) : exec (.readModifyWrite p word) s = execReadModifyWrite p word s := rfl
theorem exec_squareCacheAtomic (c : CtxId) (addr : Nat) (op : AtomOp) (ty : AtomTy) (operand : BitVec 64) (newVal : BitVec 64) (s : State) : exec (.squareCacheAtomic c addr op ty operand newVal) s = execSquareCacheAtomic c addr op ty operand newVal s := rfl
theorem exec_deferredContribution (c : CtxId) (addr : Nat) (ty : AtomTy) (operand : BitVec 64) (s : State) : exec (.deferredContribution c addr ty operand) s = execDeferredContribution c addr ty operand s := rfl
theorem exec_imbalanceWindow (p : Fin 512) (s : State) : exec (.imbalanceWindow p) s = execImbalanceWindow p s := rfl
theorem exec_queueEntryFree (p : Fin 512) (u : Fin 4) (s : State) : exec (.queueEntryFree p u) s = execQueueEntryFree p u s := rfl
theorem exec_errorReturn (p : Fin 512) (u : Fin 4) (cmd : Bool) (word : BitVec 60) (again : Bool) (s : State) : exec (.errorReturn p u cmd word again) s = execErrorReturn p u cmd word again s := rfl
theorem exec_linkTestDone (p : Fin 512) (u : Fin 4) (failed : List (Fin 352)) (s : State) : exec (.linkTestDone p u failed) s = execLinkTestDone p u failed s := rfl
theorem exec_recentringPass (p : Fin 512) (u : Fin 4) (eyes : List (Fin 336 × Fin 12 × Fin 2 × Nat × Int)) (s : State) : exec (.recentringPass p u eyes) s = execRecentringPass p u eyes s := rfl
theorem exec_idleBeatInsert (p : Fin 512) (u : Fin 4) (beats : Nat) (s : State) : exec (.idleBeatInsert p u beats) s = execIdleBeatInsert p u beats s := rfl
theorem exec_refreshNormalReturn (t : Fin 192) (s : State) : exec (.refreshNormalReturn t) s = execRefreshNormalReturn t s := rfl
theorem exec_d2dFrame (v : Fin 4) (dir : Fin 2) (g : Fin 16) (sn : BitVec 8) (frame : BitVec 2080) (s : State) : exec (.d2dFrame v dir g sn frame) s = execD2dFrame v dir g sn frame s := rfl
theorem exec_d2dNegativeAck (v : Fin 4) (dir : Fin 2) (g : Fin 16) (sn : BitVec 8) (s : State) : exec (.d2dNegativeAck v dir g sn) s = execD2dNegativeAck v dir g sn s := rfl
theorem exec_groupRetrainDone (v : Fin 4) (dir : Fin 2) (g : Fin 16) (laneFailed : Bool) (s : State) : exec (.groupRetrainDone v dir g laneFailed) s = execGroupRetrainDone v dir g laneFailed s := rfl
theorem exec_d2dRecentring (v : Fin 4) (dir : Fin 2) (g : Fin 16) (pass : LanePass) (s : State) : exec (.d2dRecentring v dir g pass) s = execD2dRecentring v dir g pass s := rfl
theorem exec_portTrainingExchange (port : Fin 4) (rot : BitVec 2) (mir : Bool) (s : State) : exec (.portTrainingExchange port rot mir) s = execPortTrainingExchange port rot mir s := rfl
theorem exec_waitTimeout (c : CtxId) (s : State) : exec (.waitTimeout c) s = execWaitTimeout c s := rfl
theorem exec_barrierRelease (part : Fin 8) (e : Fin 2) (ch : Fin 4) (s : State) : exec (.barrierRelease part e ch) s = execBarrierRelease part e ch s := rfl
theorem exec_barrierTimeout (part : Fin 8) (e : Fin 2) (ch : Fin 5) (s : State) : exec (.barrierTimeout part e ch) s = execBarrierTimeout part e ch s := rfl
theorem exec_collectiveStart (part : Fin 8) (e : Fin 2) (s : State) : exec (.collectiveStart part e) s = execCollectiveStart part e s := rfl
theorem exec_collectiveDone (part : Fin 8) (e : Fin 2) (s : State) : exec (.collectiveDone part e) s = execCollectiveDone part e s := rfl
theorem exec_reeveWatchdog (r : Fin 16) (s : State) : exec (.reeveWatchdog r) s = execReeveWatchdog r s := rfl
theorem exec_reeveSelftestDone (r : Fin 16) (passed : Bool) (s : State) : exec (.reeveSelftestDone r passed) s = execReeveSelftestDone r passed s := rfl
theorem exec_lockstepArm (cid : Nat) (s : State) : exec (.lockstepArm cid) s = execLockstepArm cid s := rfl
theorem exec_lockstepDisarm (cid : Nat) (s : State) : exec (.lockstepDisarm cid) s = execLockstepDisarm cid s := rfl
theorem exec_armTimeout (s : State) : exec (.armTimeout) s = execArmTimeout s := rfl
theorem exec_twinArm (level : BitVec 64) (s : State) : exec (.twinArm level) s = execTwinArm level s := rfl
theorem exec_twinCmd (k : BitVec 32) (opcode : BitVec 64) (s : State) : exec (.twinCmd k opcode) s = execTwinCmd k opcode s := rfl
theorem exec_hashset (k : BitVec 32) (point : BitVec 32) (hs : List (BitVec 64)) (s : State) : exec (.hashset k point hs) s = execHashset k point hs s := rfl
theorem exec_crec (k : BitVec 32) (fields : BitVec 128) (s : State) : exec (.crec k fields) s = execCrec k fields s := rfl
theorem exec_twinFail (k : BitVec 32) (status : BitVec 64) (s : State) : exec (.twinFail k status) s = execTwinFail k status s := rfl
theorem exec_probe (k : BitVec 32) (lc : BitVec 16) (kind : BitVec 8) (lo hi : BitVec 52) (s : State) : exec (.probe k lc kind lo hi) s = execProbe k lc kind lo hi s := rfl
theorem exec_terms (k : BitVec 32) (ts : List (BitVec 64 × BitVec 64)) (s : State) : exec (.terms k ts) s = execTerms k ts s := rfl
theorem exec_twinDisarm (s : State) : exec (.twinDisarm) s = execTwinDisarm s := rfl
theorem exec_twinMessageTimeout (s : State) : exec (.twinMessageTimeout) s = execTwinMessageTimeout s := rfl
theorem exec_doorbell (q : Fin 4096) (w : BitVec 64) (s : State) : exec (.doorbell q w) s = execDoorbell q w s := rfl
theorem exec_queueEnable (q : Fin 4096) (s : State) : exec (.queueEnable q) s = execQueueEnable q s := rfl
theorem exec_queueDisable (q : Fin 4096) (s : State) : exec (.queueDisable q) s = execQueueDisable q s := rfl
theorem exec_commandFetch (q : Fin 4096) (es : List RingEntry) (s : State) : exec (.commandFetch q es) s = execCommandFetch q es s := rfl
theorem exec_run (cid : Nat) (s : State) : exec (.run cid) s = execRun cid s := rfl
theorem exec_runChained (cid : Nat) (s : State) : exec (.runChained cid) s = execRunChained cid s := rfl
theorem exec_loadTable (cid : Nat) (s : State) : exec (.loadTable cid) s = execLoadTable cid s := rfl
theorem exec_memFill (cid : Nat) (s : State) : exec (.memFill cid) s = execMemFill cid s := rfl
theorem exec_memCopy (cid : Nat) (s : State) : exec (.memCopy cid) s = execMemCopy cid s := rfl
theorem exec_sessionOpen (cid : Nat) (s : State) : exec (.sessionOpen cid) s = execSessionOpen cid s := rfl
theorem exec_sessionAppend (cid : Nat) (s : State) : exec (.sessionAppend cid) s = execSessionAppend cid s := rfl
theorem exec_sessionClose (cid : Nat) (s : State) : exec (.sessionClose cid) s = execSessionClose cid s := rfl
theorem exec_fenceQueue (cid : Nat) (s : State) : exec (.fenceQueue cid) s = execFenceQueue cid s := rfl
theorem exec_fencePartition (cid : Nat) (s : State) : exec (.fencePartition cid) s = execFencePartition cid s := rfl
theorem exec_abortQueue (cid : Nat) (s : State) : exec (.abortQueue cid) s = execAbortQueue cid s := rfl
theorem exec_abortPartition (cid : Nat) (s : State) : exec (.abortPartition cid) s = execAbortPartition cid s := rfl
theorem exec_abortSession (cid : Nat) (s : State) : exec (.abortSession cid) s = execAbortSession cid s := rfl
theorem exec_setPartition (cid : Nat) (s : State) : exec (.setPartition cid) s = execSetPartition cid s := rfl
theorem exec_setEnvelope (cid : Nat) (s : State) : exec (.setEnvelope cid) s = execSetEnvelope cid s := rfl
theorem exec_queryFloorplan (cid : Nat) (s : State) : exec (.queryFloorplan cid) s = execQueryFloorplan cid s := rfl
theorem exec_readTelemetry (cid : Nat) (s : State) : exec (.readTelemetry cid) s = execReadTelemetry cid s := rfl
theorem exec_timeSyncSet (cid : Nat) (s : State) : exec (.timeSyncSet cid) s = execTimeSyncSet cid s := rfl
theorem exec_timeSyncStep (cid : Nat) (s : State) : exec (.timeSyncStep cid) s = execTimeSyncStep cid s := rfl
theorem exec_timeSyncRead (cid : Nat) (s : State) : exec (.timeSyncRead cid) s = execTimeSyncRead cid s := rfl
theorem exec_fwBegin (src : FwSource) (size : BitVec 32) (s : State) : exec (.fwBegin src size) s = execFwBegin src size s := rfl
theorem exec_fwChunk (src : FwSource) (addr : BitVec 64) (off len : BitVec 32) (data : List Byte) (crc : BitVec 32) (s : State) : exec (.fwChunk src addr off len data crc) s = execFwChunk src addr off len data crc s := rfl
theorem exec_fwCommit (src : FwSource) (s : State) : exec (.fwCommit src) s = execFwCommit src s := rfl
theorem exec_attest (cid : Nat) (s : State) : exec (.attest cid) s = execAttest cid s := rfl
theorem exec_requestAdmit (part : Fin 8) (s : State) : exec (.requestAdmit part) s = execRequestAdmit part s := rfl
theorem exec_sessionWaitEnd (part : Fin 8) (e : Fin 2) (s : State) : exec (.sessionWaitEnd part e) s = execSessionWaitEnd part e s := rfl
theorem exec_croftStagesStart (part : Fin 8) (e : Fin 2) (s : State) : exec (.croftStagesStart part e) s = execCroftStagesStart part e s := rfl
theorem exec_requestComplete (part : Fin 8) (e : Fin 2) (s : State) : exec (.requestComplete part e) s = execRequestComplete part e s := rfl
theorem exec_timeLimit (part : Fin 8) (e : Fin 2) (s : State) : exec (.timeLimit part e) s = execTimeLimit part e s := rfl
theorem exec_coalesceTimeout (q : Fin 4096) (s : State) : exec (.coalesceTimeout q) s = execCoalesceTimeout q s := rfl
theorem exec_abortBoundExceeded (cid : Nat) (s : State) : exec (.abortBoundExceeded cid) s = execAbortBoundExceeded cid s := rfl
theorem exec_functionLevelReset (s : State) : exec (.functionLevelReset) s = execFunctionLevelReset s := rfl
theorem exec_bucketLeak (s : State) : exec (.bucketLeak) s = execBucketLeak s := rfl
theorem exec_trackingExpire (p : Fin 512) (loc : Nat) (s : State) : exec (.trackingExpire p loc) s = execTrackingExpire p loc s := rfl
theorem exec_sweeperRowRead (p : Fin 512) (s : State) : exec (.sweeperRowRead p) s = execSweeperRowRead p s := rfl
theorem exec_sweepLate (p : Fin 512) (minutes : BitVec 16) (s : State) : exec (.sweepLate p minutes) s = execSweepLate p minutes s := rfl
theorem exec_rowSpare (p : Fin 512) (layer : Fin 12) (bank : Fin 8) (row : Fin 8208) (s : State) : exec (.rowSpare p layer bank row) s = execRowSpare p layer bank row s := rfl
theorem exec_coldStart (s : State) : exec (.coldStart) s = execColdStart s := rfl
theorem exec_warmReset (s : State) : exec (.warmReset) s = execWarmReset s := rfl
theorem exec_perstRelease (s : State) : exec (.perstRelease) s = execPerstRelease s := rfl
theorem exec_romDone (r : RomOut) (s : State) : exec (.romDone r) s = execRomDone r s := rfl
theorem exec_fwClaimTimeout (s : State) : exec (.fwClaimTimeout) s = execFwClaimTimeout s := rfl
theorem exec_trainDone (faults : List UnitFault) (s : State) : exec (.trainDone faults) s = execTrainDone faults s := rfl
theorem exec_selftestDone (faults : List UnitFault) (s : State) : exec (.selftestDone faults) s = execSelftestDone faults s := rfl
theorem exec_marchDone (rows : List (Fin 512 × Fin 96 × Fin 8208)) (s : State) : exec (.marchDone rows) s = execMarchDone rows s := rfl
theorem exec_retentionStep (k : Fin 3) (temp : Nat) (rows : List (Fin 512 × Fin 96 × Fin 8208)) (s : State) : exec (.retentionStep k temp rows) s = execRetentionStep k temp rows s := rfl
theorem exec_retentionSettleTimeout (k : Fin 3) (temp : Nat) (v h : Fin 4) (s : State) : exec (.retentionSettleTimeout k temp v h) s = execRetentionSettleTimeout k temp v h s := rfl
theorem exec_fillDone (s : State) : exec (.fillDone) s = execFillDone s := rfl
theorem exec_scrubDone (s : State) : exec (.scrubDone) s = execScrubDone s := rfl
theorem exec_floorplanDone (s : State) : exec (.floorplanDone) s = execFloorplanDone s := rfl
theorem exec_defectMapEepromWrite (s : State) : exec (.defectMapEepromWrite) s = execDefectMapEepromWrite s := rfl
theorem exec_croftSelftest (p : Fin 512) (lanes : List (Fin 64)) (otherFault : Bool) (s : State) : exec (.croftSelftest p lanes otherFault) s = execCroftSelftest p lanes otherFault s := rfl
theorem exec_selftestOverdue (p : Fin 512) (s : State) : exec (.selftestOverdue p) s = execSelftestOverdue p s := rfl
theorem exec_sequencerTimeout (p : Fin 512) (s : State) : exec (.sequencerTimeout p) s = execSequencerTimeout p s := rfl
theorem exec_migrationPhase1Done (s : State) : exec (.migrationPhase1Done) s = execMigrationPhase1Done s := rfl
theorem exec_rowExchange (s : State) : exec (.rowExchange) s = execRowExchange s := rfl
theorem exec_migrationDone (s : State) : exec (.migrationDone) s = execMigrationDone s := rfl
theorem exec_dramTimingTrim (p : Fin 512) (u : Fin 4) (s : State) : exec (.dramTimingTrim p u) s = execDramTimingTrim p u s := rfl
theorem exec_subchannelRetrain (p : Fin 512) (u : Fin 4) (s : State) : exec (.subchannelRetrain p u) s = execSubchannelRetrain p u s := rfl
theorem exec_droopTuning (p : Fin 512) (up : Bool) (s : State) : exec (.droopTuning p up) s = execDroopTuning p up s := rfl
theorem exec_sensorSample (t : ThermIn) (s : State) : exec (.sensorSample t) s = execSensorSample t s := rfl
theorem exec_sensorSilence (i : SensorId) (s : State) : exec (.sensorSilence i) s = execSensorSilence i s := rfl
theorem exec_sensorDisagree (p : Fin 512) (s : State) : exec (.sensorDisagree p) s = execSensorDisagree p s := rfl
theorem exec_tileSensorDisagree (t : Fin 192) (q : Fin 4) (s : State) : exec (.tileSensorDisagree t q) s = execTileSensorDisagree t q s := rfl
theorem exec_canaryCheck (t : Fin 192) (q : Fin 4) (f : Nat) (s : State) : exec (.canaryCheck t q f) s = execCanaryCheck t q f s := rfl
theorem exec_limiterRaise (s : State) : exec (.limiterRaise) s = execLimiterRaise s := rfl
theorem exec_limiterLower (v : Fin 4) (s : State) : exec (.limiterLower v) s = execLimiterLower v s := rfl
theorem exec_capStep (s : State) : exec (.capStep) s = execCapStep s := rfl
theorem exec_capTimeout (s : State) : exec (.capTimeout) s = execCapTimeout s := rfl
theorem exec_coolingFault (s : State) : exec (.coolingFault) s = execCoolingFault s := rfl
theorem exec_coolingRestored (s : State) : exec (.coolingRestored) s = execCoolingRestored s := rfl
theorem exec_flowStop (s : State) : exec (.flowStop) s = execFlowStop s := rfl
theorem exec_flowStopEnd (s : State) : exec (.flowStopEnd) s = execFlowStopEnd s := rfl
theorem exec_thermtrip (s : State) : exec (.thermtrip) s = execThermtrip s := rfl
theorem exec_rotaPeriod (s : State) : exec (.rotaPeriod) s = execRotaPeriod s := rfl
theorem exec_thermalCycleSample (s : State) : exec (.thermalCycleSample) s = execThermalCycleSample s := rfl
theorem exec_lifeCounterWrite (s : State) : exec (.lifeCounterWrite) s = execLifeCounterWrite s := rfl
theorem exec_linkDown (s : State) : exec (.linkDown) s = execLinkDown s := rfl
theorem exec_linkDownTimeout (s : State) : exec (.linkDownTimeout) s = execLinkDownTimeout s := rfl
theorem exec_linkUp (s : State) : exec (.linkUp) s = execLinkUp s := rfl
theorem exec_hotReset (s : State) : exec (.hotReset) s = execHotReset s := rfl
theorem exec_hdmDecoderCommit (d : Fin 4) (s : State) : exec (.hdmDecoderCommit d) s = execHdmDecoderCommit d s := rfl
theorem exec_cxlMemRead (hpa : BitVec 64) (len : Nat) (s : State) : exec (.cxlMemRead hpa len) s = execCxlMemRead hpa len s := rfl
theorem exec_cxlMemWrite (hpa : BitVec 64) (data : List Byte) (poison : Bool) (s : State) : exec (.cxlMemWrite hpa data poison) s = execCxlMemWrite hpa data poison s := rfl
theorem exec_birsp (line : Nat) (s : State) : exec (.birsp line) s = execBirsp line s := rfl
theorem exec_hostSnoop (line : BitVec 64) (s : State) : exec (.hostSnoop line) s = execHostSnoop line s := rfl
theorem exec_hostAccessCompletion (id : Nat) (ok : Bool) (data : List Byte) (bad : List Nat) (s : State) : exec (.hostAccessCompletion id ok data bad) s = execHostAccessCompletion id ok data bad s := rfl
theorem exec_hostAccessTimeout (id : Nat) (s : State) : exec (.hostAccessTimeout id) s = execHostAccessTimeout id s := rfl
theorem exec_uioRequest (addr : BitVec 64) (write : Bool) (len : Nat) (data : List Byte) (poison : Bool) (s : State) : exec (.uioRequest addr write len data poison) s = execUioRequest addr write len data poison s := rfl
theorem exec_cxlIdeKm (keySet : Fin 2) (s : State) : exec (.cxlIdeKm keySet) s = execCxlIdeKm keySet s := rfl
theorem exec_ideFail (keySet : Fin 2) (sent : Bool) (s : State) : exec (.ideFail keySet sent) s = execIdeFail keySet sent s := rfl
theorem exec_entdaa (addr : BitVec 7) (s : State) : exec (.entdaa addr) s = execEntdaa addr s := rfl
theorem exec_setdasa (addr : BitVec 7) (s : State) : exec (.setdasa addr) s = execSetdasa addr s := rfl
theorem exec_rstdaa (s : State) : exec (.rstdaa) s = execRstdaa s := rfl
theorem exec_enec (bits : BitVec 8) (s : State) : exec (.enec bits) s = execEnec bits s := rfl
theorem exec_disec (bits : BitVec 8) (s : State) : exec (.disec bits) s = execDisec bits s := rfl
theorem exec_getpid (s : State) : exec (.getpid) s = execGetpid s := rfl
theorem exec_getbcr (s : State) : exec (.getbcr) s = execGetbcr s := rfl
theorem exec_getdcr (s : State) : exec (.getdcr) s = execGetdcr s := rfl
theorem exec_getstatus (s : State) : exec (.getstatus) s = execGetstatus s := rfl
theorem exec_getmwl (s : State) : exec (.getmwl) s = execGetmwl s := rfl
theorem exec_setmwl (n : BitVec 16) (s : State) : exec (.setmwl n) s = execSetmwl n s := rfl
theorem exec_getmrl (s : State) : exec (.getmrl) s = execGetmrl s := rfl
theorem exec_setmrl (n : BitVec 16) (s : State) : exec (.setmrl n) s = execSetmrl n s := rfl
theorem exec_regSel (off : BitVec 32) (s : State) : exec (.regSel off) s = execRegSel off s := rfl
theorem exec_alertAck (s : State) : exec (.alertAck) s = execAlertAck s := rfl
theorem exec_i3cPrivateRead (s : State) : exec (.i3cPrivateRead) s = execI3cPrivateRead s := rfl
theorem exec_hotJoin (s : State) : exec (.hotJoin) s = execHotJoin s := rfl
theorem exec_ibiRetry (nacked : Bool) (s : State) : exec (.ibiRetry nacked) s = execIbiRetry nacked s := rfl
theorem exec_ppsEdge (width : Nat) (s : State) : exec (.ppsEdge width) s = execPpsEdge width s := rfl
theorem exec_ppsLost (s : State) : exec (.ppsLost) s = execPpsLost s := rfl
theorem exec_twinLinkTrain (s : State) : exec (.twinLinkTrain) s = execTwinLinkTrain s := rfl
theorem exec_twinLinkDown (lanes : BitVec 4) (s : State) : exec (.twinLinkDown lanes) s = execTwinLinkDown lanes s := rfl
theorem exec_inputOutOfRange (s : State) : exec (.inputOutOfRange) s = execInputOutOfRange s := rfl
theorem exec_overvoltage (mv : Nat) (s : State) : exec (.overvoltage mv) s = execOvervoltage mv s := rfl
theorem exec_inputLow (mv : BitVec 16) (s : State) : exec (.inputLow mv) s = execInputLow mv s := rfl
theorem exec_errstatusClear (w : BitVec 64) (s : State) : exec (.errstatusClear w) s = execErrstatusClear w s := rfl
theorem exec_devstatusClear (w : BitVec 64) (s : State) : exec (.devstatusClear w) s = execDevstatusClear w s := rfl
theorem exec_eventRingEnable (s : State) : exec (.eventRingEnable) s = execEventRingEnable s := rfl
theorem exec_evheadWrite (w : BitVec 64) (s : State) : exec (.evheadWrite w) s = execEvheadWrite w s := rfl
theorem exec_registerWrite (off : BitVec 18) (w : RegData) (s : State) : exec (.registerWrite off w) s = execRegisterWrite off w s := rfl
theorem exec_cxlMailboxKcp (m : MailIn) (data : List Byte) (s : State) : exec (.cxlMailboxKcp m data) s = execCxlMailboxKcp m data s := rfl
theorem exec_attestTreeBuilt (s : State) : exec (.attestTreeBuilt) s = execAttestTreeBuilt s := rfl
theorem exec_railsGood (s : State) : exec (.railsGood) s = execRailsGood s := rfl
theorem exec_verifyDone (s : State) : exec (.verifyDone) s = execVerifyDone s := rfl
theorem exec_linkTrained (width rate : Nat) (s : State) : exec (.linkTrained width rate) s = execLinkTrained width rate s := rfl
theorem exec_hdmDecoderUncommit (d : Fin 4) (s : State) : exec (.hdmDecoderUncommit d) s = execHdmDecoderUncommit d s := rfl
theorem exec_epochApplyDone (part : Fin 8) (e : Fin 2) (s : State) : exec (.epochApplyDone part e) s = execEpochApplyDone part e s := rfl
theorem exec_reeveCommandDone (cid : Nat) (s : State) : exec (.reeveCommandDone cid) s = execReeveCommandDone cid s := rfl
theorem exec_bellLaneFailure (v : Fin 4) (dir : Fin 2) (s : State) : exec (.bellLaneFailure v dir) s = execBellLaneFailure v dir s := rfl
theorem exec_clockPairFailure (p : Fin 512) (u : Fin 4) (s : State) : exec (.clockPairFailure p u) s = execClockPairFailure p u s := rfl
theorem exec_twinMessageCrcFail (n : Nat) (s : State) : exec (.twinMessageCrcFail n) s = execTwinMessageCrcFail n s := rfl

end Sys2Proof.Machine
end

