-- ==== Sys2Proof/Laws/Map.lean ====
section
/-! SUPPORT. Laws of the sparse tables: a read after a write, and the canonical form. -/

namespace Sys2Proof.Machine

variable {α : Type}

@[simp] theorem tget_nil (d : Nat → α) (k : Nat) : tget d [] k = d k := rfl

theorem tget_tdel_self (d : Nat → α) (t : Table α) (k : Nat) : tget d (tdel t k) k = d k := by
  induction t with
  | nil => rfl
  | cons e r ih =>
    obtain ⟨j, w⟩ := e
    by_cases h : j = k
    · simpa [tdel, h] using ih
    · simpa [tdel, tget, h] using ih

theorem tget_tdel_ne (d : Nat → α) (t : Table α) (k j : Nat) (h : j ≠ k) : tget d (tdel t k) j = tget d t j := by
  induction t with
  | nil => rfl
  | cons e r ih =>
    obtain ⟨i, w⟩ := e
    by_cases hk : i = k
    · have : i ≠ j := fun e => h (e ▸ hk)
      simpa [tdel, tget, hk, Ne.symm h] using ih
    · simp only [tdel] at ih
      by_cases hj : i = j <;> simp [tdel, tget, hk, hj, ih, h]

theorem tget_tins_ne (d : Nat → α) (t : Table α) (k j : Nat) (v : α) (h : j ≠ k) : tget d (tins t k v) j = tget d t j := by
  induction t with
  | nil => simp [tins, tget, Ne.symm h]
  | cons e r ih =>
    obtain ⟨i, w⟩ := e
    by_cases hk : k < i
    · simp [tins, hk, tget, Ne.symm h]
    · simp [tins, hk, tget, ih]

theorem tget_tins_self (d : Nat → α) (t : Table α) (k : Nat) (v : α) (h : ∀ e ∈ t, e.1 ≠ k) : tget d (tins t k v) k = v := by
  induction t with
  | nil => simp [tins, tget]
  | cons e r ih =>
    obtain ⟨i, w⟩ := e
    have hi : i ≠ k := h (i, w) (List.mem_cons_self ..)
    by_cases hk : k < i
    · simp [tins, hk, tget]
    · simp [tins, hk, tget, hi, ih fun e he => h e (by simp [he])]

theorem tdel_ne (t : Table α) (k : Nat) : ∀ e ∈ tdel t k, e.1 ≠ k := by
  intro e he
  simp only [tdel, List.mem_filter, bne_iff_ne, ne_eq] at he
  exact he.2

variable [DecidableEq α]

/-- A read after a write, at the key written and at every other, whatever the table. -/
theorem tget_tset (d : Nat → α) (t : Table α) (k j : Nat) (v : α) : tget d (tset d t k v) j = if j = k then v else tget d t j := by
  by_cases h : j = k
  · subst h
    by_cases hv : v = d j
    · simp [tset, hv, tget_tdel_self]
    · simp [tset, hv, tget_tins_self _ _ _ _ (tdel_ne t j)]
  · by_cases hv : v = d k
    · simp [tset, hv, h, tget_tdel_ne _ _ _ _ h]
    · simp [tset, hv, h, tget_tins_ne _ _ _ _ _ h, tget_tdel_ne _ _ _ _ h]

@[simp] theorem tget_tset_self (d : Nat → α) (t : Table α) (k : Nat) (v : α) : tget d (tset d t k v) k = v := by simp [tget_tset]

theorem tget_tset_ne (d : Nat → α) (t : Table α) (k j : Nat) (v : α) (h : j ≠ k) : tget d (tset d t k v) j = tget d t j := by
  simp [tget_tset, h]

omit [DecidableEq α] in
theorem tdel_tdel (t : Table α) (k : Nat) : tdel (tdel t k) k = tdel t k := by simp [tdel, List.filter_filter]

omit [DecidableEq α] in
theorem tdel_tins (t : Table α) (k : Nat) (v : α) : tdel (tins t k v) k = tdel t k := by
  induction t with
  | nil => simp [tins, tdel]
  | cons e r ih =>
    obtain ⟨i, w⟩ := e
    by_cases hk : k < i
    · simp [tins, hk, tdel]
    · simp only [tdel] at ih
      simp [tins, hk, tdel, List.filter_cons, ih]

/-- The second of two writes to one key stands alone. -/
@[simp] theorem tset_tset (d : Nat → α) (t : Table α) (k : Nat) (v w : α) : tset d (tset d t k v) k w = tset d t k w := by
  by_cases hv : v = d k <;> by_cases hw : w = d k <;> simp [tset, hv, hw, tdel_tdel, tdel_tins]

/-! ### The canonical form -/

theorem tableWfFrom_mono (d : Nat → α) (t : Table α) (a b : Nat) (h : a ≤ b) (w : tableWfFrom d b t = true) :
    tableWfFrom d a t = true := by
  cases t with
  | nil => rfl
  | cons e r =>
    obtain ⟨i, x⟩ := e
    simp only [tableWfFrom, Bool.and_eq_true, decide_eq_true_eq] at w ⊢
    exact ⟨⟨by omega, w.1.2⟩, w.2⟩

theorem tdel_of_above (d : Nat → α) (t : Table α) (k lo : Nat) (h : k < lo) (w : tableWfFrom d lo t = true) : tdel t k = t := by
  induction t generalizing lo with
  | nil => rfl
  | cons e r ih =>
    obtain ⟨i, x⟩ := e
    simp only [tableWfFrom, Bool.and_eq_true, decide_eq_true_eq] at w
    have hi : i ≠ k := by omega
    have := ih (i + 1) (by omega) w.2
    simp only [tdel] at this
    simp [tdel, hi, this]

theorem tableWfFrom_tdel (d : Nat → α) (t : Table α) (k lo : Nat) (w : tableWfFrom d lo t = true) :
    tableWfFrom d lo (tdel t k) = true := by
  induction t generalizing lo with
  | nil => rfl
  | cons e r ih =>
    obtain ⟨i, x⟩ := e
    simp only [tableWfFrom, Bool.and_eq_true, decide_eq_true_eq] at w
    by_cases hi : i = k
    · have h := tableWfFrom_mono d (tdel r k) lo (i + 1) (by omega) (ih (i + 1) w.2)
      simpa [tdel, hi] using h
    · have h := ih (i + 1) w.2
      simp only [tdel] at h
      simp [tdel, hi, tableWfFrom, w.1.1, w.1.2, h]

theorem tableWfFrom_tins (d : Nat → α) (t : Table α) (k lo : Nat) (v : α) (hk : lo ≤ k) (hv : v ≠ d k) (hn : ∀ e ∈ t, e.1 ≠ k)
    (w : tableWfFrom d lo t = true) : tableWfFrom d lo (tins t k v) = true := by
  induction t generalizing lo with
  | nil => simp [tins, tableWfFrom, hk, hv]
  | cons e r ih =>
    obtain ⟨i, x⟩ := e
    simp only [tableWfFrom, Bool.and_eq_true, decide_eq_true_eq] at w
    have hi : i ≠ k := hn (i, x) (List.mem_cons_self ..)
    by_cases h : k < i
    · have hki : k + 1 ≤ i := h
      simp only [tins, h, if_true, tableWfFrom, Bool.and_eq_true, decide_eq_true_eq]
      exact ⟨⟨hk, hv⟩, ⟨hki, w.1.2⟩, w.2⟩
    · have := ih (i + 1) (by omega) (fun e he => hn e (by simp [he])) w.2
      simp [tins, h, tableWfFrom, w.1.1, w.1.2, this]

/-- A write keeps the canonical form. -/
theorem tableWf_tset (d : Nat → α) (t : Table α) (k : Nat) (v : α) (w : tableWf d t = true) : tableWf d (tset d t k v) = true := by
  unfold tset
  split
  · exact tableWfFrom_tdel d t k 0 w
  · rename_i hv
    exact tableWfFrom_tins d _ k 0 v (Nat.zero_le _) hv (tdel_ne t k) (tableWfFrom_tdel d t k 0 w)

/-- Consecutive writes keep the canonical form. -/
theorem tableWf_tsetList (d : Nat → α) (vs : List α) (t : Table α) (k : Nat) (w : tableWf d t = true) :
    tableWf d (tsetList d t k vs) = true := by
  induction vs generalizing t k with
  | nil => exact w
  | cons v vs ih => exact ih _ _ (tableWf_tset d t k v w)

/-- Writes of listed cells keep the canonical form. -/
theorem tableWf_tsetCells (d : Nat → α) (cs : List (Nat × α)) (t : Table α) (w : tableWf d t = true) :
    tableWf d (tsetCells d t cs) = true := by
  unfold tsetCells
  induction cs generalizing t with
  | nil => exact w
  | cons c cs ih => exact ih _ (tableWf_tset d t _ _ w)

/-- Below its first key a canonical table reads as unlisted. -/
theorem tget_above (d : Nat → α) (t : Table α) (k lo : Nat) (h : k < lo) (w : tableWfFrom d lo t = true) : tget d t k = d k := by
  induction t generalizing lo with
  | nil => rfl
  | cons e r ih =>
    obtain ⟨i, x⟩ := e
    simp only [tableWfFrom, Bool.and_eq_true, decide_eq_true_eq] at w
    have hi : i ≠ k := by omega
    simp [tget, hi, ih (i + 1) (by omega) w.2]

omit [DecidableEq α] in
/-- A read of consecutive keys, key by key. -/
theorem tgetList_getElem? (d : Nat → α) (t : Table α) (k n i : Nat) (h : i < n) : (tgetList d t k n)[i]? = some (tget d t (k + i)) := by
  induction n generalizing k i with
  | zero => omega
  | succ n ih =>
    cases i with
    | zero => simp [tgetList]
    | succ i => simpa [tgetList, Nat.add_assoc, Nat.add_comm 1] using ih (k + 1) i (by omega)

omit [DecidableEq α] in
@[simp] theorem tgetList_length (d : Nat → α) (t : Table α) (k n : Nat) : (tgetList d t k n).length = n := by
  induction n generalizing k with
  | zero => rfl
  | succ n ih => simp [tgetList, ih]

/-- A read after consecutive writes. -/
theorem tget_tsetList (d : Nat → α) (vs : List α) (t : Table α) (k j : Nat) :
    tget d (tsetList d t k vs) j = if h : k ≤ j ∧ j - k < vs.length then vs[j - k]'h.2 else tget d t j := by
  induction vs generalizing t k with
  | nil => simp [tsetList]
  | cons v vs ih =>
    rw [tsetList, ih]
    rcases Nat.lt_trichotomy j k with h | h | h
    · have h1 : ¬ (k + 1 ≤ j ∧ j - (k + 1) < vs.length) := by omega
      have h2 : ¬ (k ≤ j ∧ j - k < (v :: vs).length) := by omega
      rw [dif_neg h1, dif_neg h2, tget_tset_ne _ _ _ _ _ (by omega)]
    · subst h
      rw [dif_neg (by omega), dif_pos (by simp)]
      simp
    · by_cases h1 : j - (k + 1) < vs.length
      · have h2 : k + 1 ≤ j ∧ j - (k + 1) < vs.length := ⟨h, h1⟩
        have h3 : k ≤ j ∧ j - k < (v :: vs).length := ⟨by omega, by simp; omega⟩
        rw [dif_pos h2, dif_pos h3]
        have : j - k = (j - (k + 1)) + 1 := by omega
        simp [this]
      · have h2 : ¬ (k + 1 ≤ j ∧ j - (k + 1) < vs.length) := fun h => h1 h.2
        have h3 : ¬ (k ≤ j ∧ j - k < (v :: vs).length) := fun h => h1 (by have := h.2; simp at this; omega)
        rw [dif_neg h2, dif_neg h3, tget_tset_ne _ _ _ _ _ (by omega)]

end Sys2Proof.Machine
end

