-- ==== Sys2Proof/Laws/State.lean ====
section
/-! SUPPORT. What each named update of the state leaves alone, field by field, and what it writes. -/

namespace Sys2Proof.Machine

/-! ### Fields an update leaves alone -/

@[simp] theorem setCroft_pending (s : State) (p : Nat) (x : Croft) : (setCroft s p x).pending = s.pending := rfl
@[simp] theorem setCroft_now (s : State) (p : Nat) (x : Croft) : (setCroft s p x).now = s.now := rfl
@[simp] theorem setCroft_free (s : State) (p : Nat) (x : Croft) : (setCroft s p x).free = s.free := rfl
@[simp] theorem setCroft_boot (s : State) (p : Nat) (x : Croft) : (setCroft s p x).boot = s.boot := rfl
@[simp] theorem setCroft_fuses (s : State) (p : Nat) (x : Croft) : (setCroft s p x).fuses = s.fuses := rfl
@[simp] theorem setCroft_eeprom (s : State) (p : Nat) (x : Croft) : (setCroft s p x).eeprom = s.eeprom := rfl
@[simp] theorem setCroft_ls (s : State) (p : Nat) (x : Croft) : (setCroft s p x).ls = s.ls := rfl
@[simp] theorem setCroft_lsPoison (s : State) (p : Nat) (x : Croft) : (setCroft s p x).lsPoison = s.lsPoison := rfl
@[simp] theorem setCroft_lsTaint (s : State) (p : Nat) (x : Croft) : (setCroft s p x).lsTaint = s.lsTaint := rfl
@[simp] theorem setCroft_lsErr (s : State) (p : Nat) (x : Croft) : (setCroft s p x).lsErr = s.lsErr := rfl
@[simp] theorem setCroft_slices (s : State) (p : Nat) (x : Croft) : (setCroft s p x).slices = s.slices := rfl
@[simp] theorem setCroft_mem (s : State) (p : Nat) (x : Croft) : (setCroft s p x).mem = s.mem := rfl
@[simp] theorem setCroft_undef (s : State) (p : Nat) (x : Croft) : (setCroft s p x).undef = s.undef := rfl
@[simp] theorem setCroft_shards (s : State) (p : Nat) (x : Croft) : (setCroft s p x).shards = s.shards := rfl
@[simp] theorem setCroft_sess (s : State) (p : Nat) (x : Croft) : (setCroft s p x).sess = s.sess := rfl
@[simp] theorem setCroft_ptab (s : State) (p : Nat) (x : Croft) : (setCroft s p x).ptab = s.ptab := rfl
@[simp] theorem setCroft_parts (s : State) (p : Nat) (x : Croft) : (setCroft s p x).parts = s.parts := rfl
@[simp] theorem setCroft_sqc (s : State) (p : Nat) (x : Croft) : (setCroft s p x).sqc = s.sqc := rfl
@[simp] theorem setCroft_found (s : State) (p : Nat) (x : Croft) : (setCroft s p x).found = s.found := rfl
@[simp] theorem setCroft_brought (s : State) (p : Nat) (x : Croft) : (setCroft s p x).brought = s.brought := rfl
@[simp] theorem setCroft_uses (s : State) (p : Nat) (x : Croft) : (setCroft s p x).uses = s.uses := rfl
@[simp] theorem setCroft_sieves (s : State) (p : Nat) (x : Croft) : (setCroft s p x).sieves = s.sieves := rfl
@[simp] theorem setCroft_bells (s : State) (p : Nat) (x : Croft) : (setCroft s p x).bells = s.bells := rfl
@[simp] theorem setCroft_bellQ (s : State) (p : Nat) (x : Croft) : (setCroft s p x).bellQ = s.bellQ := rfl
@[simp] theorem setCroft_sems (s : State) (p : Nat) (x : Croft) : (setCroft s p x).sems = s.sems := rfl
@[simp] theorem setCroft_semQ (s : State) (p : Nat) (x : Croft) : (setCroft s p x).semQ = s.semQ := rfl
@[simp] theorem setCroft_ports (s : State) (p : Nat) (x : Croft) : (setCroft s p x).ports = s.ports := rfl
@[simp] theorem setCroft_reeves (s : State) (p : Nat) (x : Croft) : (setCroft s p x).reeves = s.reeves := rfl
@[simp] theorem setCroft_reeveMem (s : State) (p : Nat) (x : Croft) : (setCroft s p x).reeveMem = s.reeveMem := rfl
@[simp] theorem setCroft_reeveErr (s : State) (p : Nat) (x : Croft) : (setCroft s p x).reeveErr = s.reeveErr := rfl
@[simp] theorem setCroft_fwMem (s : State) (p : Nat) (x : Croft) : (setCroft s p x).fwMem = s.fwMem := rfl
@[simp] theorem setCroft_fwErr (s : State) (p : Nat) (x : Croft) : (setCroft s p x).fwErr = s.fwErr := rfl
@[simp] theorem setCroft_queues (s : State) (p : Nat) (x : Croft) : (setCroft s p x).queues = s.queues := rfl
@[simp] theorem setCroft_cmds (s : State) (p : Nat) (x : Croft) : (setCroft s p x).cmds = s.cmds := rfl
@[simp] theorem setCroft_nextCmd (s : State) (p : Nat) (x : Croft) : (setCroft s p x).nextCmd = s.nextCmd := rfl
@[simp] theorem setCroft_nextOrd (s : State) (p : Nat) (x : Croft) : (setCroft s p x).nextOrd = s.nextOrd := rfl
@[simp] theorem setCroft_twin (s : State) (p : Nat) (x : Croft) : (setCroft s p x).twin = s.twin := rfl
@[simp] theorem setCroft_dev (s : State) (p : Nat) (x : Croft) : (setCroft s p x).dev = s.dev := rfl
@[simp] theorem setCroft_ctr (s : State) (p : Nat) (x : Croft) : (setCroft s p x).ctr = s.ctr := rfl
@[simp] theorem setCroft_elog (s : State) (p : Nat) (x : Croft) : (setCroft s p x).elog = s.elog := rfl
@[simp] theorem setCroft_elogN (s : State) (p : Nat) (x : Croft) : (setCroft s p x).elogN = s.elogN := rfl
@[simp] theorem setCroft_sqBucket (s : State) (p : Nat) (x : Croft) : (setCroft s p x).sqBucket = s.sqBucket := rfl
@[simp] theorem setCroft_floor (s : State) (p : Nat) (x : Croft) : (setCroft s p x).floor = s.floor := rfl
@[simp] theorem setCroft_therm (s : State) (p : Nat) (x : Croft) : (setCroft s p x).therm = s.therm := rfl
@[simp] theorem setCroft_link (s : State) (p : Nat) (x : Croft) : (setCroft s p x).link = s.link := rfl
@[simp] theorem setCroft_i3c (s : State) (p : Nat) (x : Croft) : (setCroft s p x).i3c = s.i3c := rfl
@[simp] theorem setCroft_sec (s : State) (p : Nat) (x : Croft) : (setCroft s p x).sec = s.sec := rfl

@[simp] theorem setSlice_pending (s : State) (p : Nat) (x : Slice) : (setSlice s p x).pending = s.pending := rfl
@[simp] theorem setSlice_now (s : State) (p : Nat) (x : Slice) : (setSlice s p x).now = s.now := rfl
@[simp] theorem setSlice_free (s : State) (p : Nat) (x : Slice) : (setSlice s p x).free = s.free := rfl
@[simp] theorem setSlice_boot (s : State) (p : Nat) (x : Slice) : (setSlice s p x).boot = s.boot := rfl
@[simp] theorem setSlice_fuses (s : State) (p : Nat) (x : Slice) : (setSlice s p x).fuses = s.fuses := rfl
@[simp] theorem setSlice_eeprom (s : State) (p : Nat) (x : Slice) : (setSlice s p x).eeprom = s.eeprom := rfl
@[simp] theorem setSlice_crofts (s : State) (p : Nat) (x : Slice) : (setSlice s p x).crofts = s.crofts := rfl
@[simp] theorem setSlice_ls (s : State) (p : Nat) (x : Slice) : (setSlice s p x).ls = s.ls := rfl
@[simp] theorem setSlice_lsPoison (s : State) (p : Nat) (x : Slice) : (setSlice s p x).lsPoison = s.lsPoison := rfl
@[simp] theorem setSlice_lsTaint (s : State) (p : Nat) (x : Slice) : (setSlice s p x).lsTaint = s.lsTaint := rfl
@[simp] theorem setSlice_lsErr (s : State) (p : Nat) (x : Slice) : (setSlice s p x).lsErr = s.lsErr := rfl
@[simp] theorem setSlice_mem (s : State) (p : Nat) (x : Slice) : (setSlice s p x).mem = s.mem := rfl
@[simp] theorem setSlice_undef (s : State) (p : Nat) (x : Slice) : (setSlice s p x).undef = s.undef := rfl
@[simp] theorem setSlice_shards (s : State) (p : Nat) (x : Slice) : (setSlice s p x).shards = s.shards := rfl
@[simp] theorem setSlice_sess (s : State) (p : Nat) (x : Slice) : (setSlice s p x).sess = s.sess := rfl
@[simp] theorem setSlice_ptab (s : State) (p : Nat) (x : Slice) : (setSlice s p x).ptab = s.ptab := rfl
@[simp] theorem setSlice_parts (s : State) (p : Nat) (x : Slice) : (setSlice s p x).parts = s.parts := rfl
@[simp] theorem setSlice_sqc (s : State) (p : Nat) (x : Slice) : (setSlice s p x).sqc = s.sqc := rfl
@[simp] theorem setSlice_found (s : State) (p : Nat) (x : Slice) : (setSlice s p x).found = s.found := rfl
@[simp] theorem setSlice_brought (s : State) (p : Nat) (x : Slice) : (setSlice s p x).brought = s.brought := rfl
@[simp] theorem setSlice_uses (s : State) (p : Nat) (x : Slice) : (setSlice s p x).uses = s.uses := rfl
@[simp] theorem setSlice_sieves (s : State) (p : Nat) (x : Slice) : (setSlice s p x).sieves = s.sieves := rfl
@[simp] theorem setSlice_bells (s : State) (p : Nat) (x : Slice) : (setSlice s p x).bells = s.bells := rfl
@[simp] theorem setSlice_bellQ (s : State) (p : Nat) (x : Slice) : (setSlice s p x).bellQ = s.bellQ := rfl
@[simp] theorem setSlice_sems (s : State) (p : Nat) (x : Slice) : (setSlice s p x).sems = s.sems := rfl
@[simp] theorem setSlice_semQ (s : State) (p : Nat) (x : Slice) : (setSlice s p x).semQ = s.semQ := rfl
@[simp] theorem setSlice_ports (s : State) (p : Nat) (x : Slice) : (setSlice s p x).ports = s.ports := rfl
@[simp] theorem setSlice_reeves (s : State) (p : Nat) (x : Slice) : (setSlice s p x).reeves = s.reeves := rfl
@[simp] theorem setSlice_reeveMem (s : State) (p : Nat) (x : Slice) : (setSlice s p x).reeveMem = s.reeveMem := rfl
@[simp] theorem setSlice_reeveErr (s : State) (p : Nat) (x : Slice) : (setSlice s p x).reeveErr = s.reeveErr := rfl
@[simp] theorem setSlice_fwMem (s : State) (p : Nat) (x : Slice) : (setSlice s p x).fwMem = s.fwMem := rfl
@[simp] theorem setSlice_fwErr (s : State) (p : Nat) (x : Slice) : (setSlice s p x).fwErr = s.fwErr := rfl
@[simp] theorem setSlice_queues (s : State) (p : Nat) (x : Slice) : (setSlice s p x).queues = s.queues := rfl
@[simp] theorem setSlice_cmds (s : State) (p : Nat) (x : Slice) : (setSlice s p x).cmds = s.cmds := rfl
@[simp] theorem setSlice_nextCmd (s : State) (p : Nat) (x : Slice) : (setSlice s p x).nextCmd = s.nextCmd := rfl
@[simp] theorem setSlice_nextOrd (s : State) (p : Nat) (x : Slice) : (setSlice s p x).nextOrd = s.nextOrd := rfl
@[simp] theorem setSlice_twin (s : State) (p : Nat) (x : Slice) : (setSlice s p x).twin = s.twin := rfl
@[simp] theorem setSlice_dev (s : State) (p : Nat) (x : Slice) : (setSlice s p x).dev = s.dev := rfl
@[simp] theorem setSlice_ctr (s : State) (p : Nat) (x : Slice) : (setSlice s p x).ctr = s.ctr := rfl
@[simp] theorem setSlice_elog (s : State) (p : Nat) (x : Slice) : (setSlice s p x).elog = s.elog := rfl
@[simp] theorem setSlice_elogN (s : State) (p : Nat) (x : Slice) : (setSlice s p x).elogN = s.elogN := rfl
@[simp] theorem setSlice_sqBucket (s : State) (p : Nat) (x : Slice) : (setSlice s p x).sqBucket = s.sqBucket := rfl
@[simp] theorem setSlice_floor (s : State) (p : Nat) (x : Slice) : (setSlice s p x).floor = s.floor := rfl
@[simp] theorem setSlice_therm (s : State) (p : Nat) (x : Slice) : (setSlice s p x).therm = s.therm := rfl
@[simp] theorem setSlice_link (s : State) (p : Nat) (x : Slice) : (setSlice s p x).link = s.link := rfl
@[simp] theorem setSlice_i3c (s : State) (p : Nat) (x : Slice) : (setSlice s p x).i3c = s.i3c := rfl
@[simp] theorem setSlice_sec (s : State) (p : Nat) (x : Slice) : (setSlice s p x).sec = s.sec := rfl

@[simp] theorem setPart_pending (s : State) (k : Nat) (x : Part) : (setPart s k x).pending = s.pending := rfl
@[simp] theorem setPart_now (s : State) (k : Nat) (x : Part) : (setPart s k x).now = s.now := rfl
@[simp] theorem setPart_free (s : State) (k : Nat) (x : Part) : (setPart s k x).free = s.free := rfl
@[simp] theorem setPart_boot (s : State) (k : Nat) (x : Part) : (setPart s k x).boot = s.boot := rfl
@[simp] theorem setPart_fuses (s : State) (k : Nat) (x : Part) : (setPart s k x).fuses = s.fuses := rfl
@[simp] theorem setPart_eeprom (s : State) (k : Nat) (x : Part) : (setPart s k x).eeprom = s.eeprom := rfl
@[simp] theorem setPart_crofts (s : State) (k : Nat) (x : Part) : (setPart s k x).crofts = s.crofts := rfl
@[simp] theorem setPart_ls (s : State) (k : Nat) (x : Part) : (setPart s k x).ls = s.ls := rfl
@[simp] theorem setPart_lsPoison (s : State) (k : Nat) (x : Part) : (setPart s k x).lsPoison = s.lsPoison := rfl
@[simp] theorem setPart_lsTaint (s : State) (k : Nat) (x : Part) : (setPart s k x).lsTaint = s.lsTaint := rfl
@[simp] theorem setPart_lsErr (s : State) (k : Nat) (x : Part) : (setPart s k x).lsErr = s.lsErr := rfl
@[simp] theorem setPart_slices (s : State) (k : Nat) (x : Part) : (setPart s k x).slices = s.slices := rfl
@[simp] theorem setPart_mem (s : State) (k : Nat) (x : Part) : (setPart s k x).mem = s.mem := rfl
@[simp] theorem setPart_undef (s : State) (k : Nat) (x : Part) : (setPart s k x).undef = s.undef := rfl
@[simp] theorem setPart_shards (s : State) (k : Nat) (x : Part) : (setPart s k x).shards = s.shards := rfl
@[simp] theorem setPart_sess (s : State) (k : Nat) (x : Part) : (setPart s k x).sess = s.sess := rfl
@[simp] theorem setPart_ptab (s : State) (k : Nat) (x : Part) : (setPart s k x).ptab = s.ptab := rfl
@[simp] theorem setPart_sqc (s : State) (k : Nat) (x : Part) : (setPart s k x).sqc = s.sqc := rfl
@[simp] theorem setPart_found (s : State) (k : Nat) (x : Part) : (setPart s k x).found = s.found := rfl
@[simp] theorem setPart_brought (s : State) (k : Nat) (x : Part) : (setPart s k x).brought = s.brought := rfl
@[simp] theorem setPart_uses (s : State) (k : Nat) (x : Part) : (setPart s k x).uses = s.uses := rfl
@[simp] theorem setPart_sieves (s : State) (k : Nat) (x : Part) : (setPart s k x).sieves = s.sieves := rfl
@[simp] theorem setPart_bells (s : State) (k : Nat) (x : Part) : (setPart s k x).bells = s.bells := rfl
@[simp] theorem setPart_bellQ (s : State) (k : Nat) (x : Part) : (setPart s k x).bellQ = s.bellQ := rfl
@[simp] theorem setPart_sems (s : State) (k : Nat) (x : Part) : (setPart s k x).sems = s.sems := rfl
@[simp] theorem setPart_semQ (s : State) (k : Nat) (x : Part) : (setPart s k x).semQ = s.semQ := rfl
@[simp] theorem setPart_ports (s : State) (k : Nat) (x : Part) : (setPart s k x).ports = s.ports := rfl
@[simp] theorem setPart_reeves (s : State) (k : Nat) (x : Part) : (setPart s k x).reeves = s.reeves := rfl
@[simp] theorem setPart_reeveMem (s : State) (k : Nat) (x : Part) : (setPart s k x).reeveMem = s.reeveMem := rfl
@[simp] theorem setPart_reeveErr (s : State) (k : Nat) (x : Part) : (setPart s k x).reeveErr = s.reeveErr := rfl
@[simp] theorem setPart_fwMem (s : State) (k : Nat) (x : Part) : (setPart s k x).fwMem = s.fwMem := rfl
@[simp] theorem setPart_fwErr (s : State) (k : Nat) (x : Part) : (setPart s k x).fwErr = s.fwErr := rfl
@[simp] theorem setPart_queues (s : State) (k : Nat) (x : Part) : (setPart s k x).queues = s.queues := rfl
@[simp] theorem setPart_cmds (s : State) (k : Nat) (x : Part) : (setPart s k x).cmds = s.cmds := rfl
@[simp] theorem setPart_nextCmd (s : State) (k : Nat) (x : Part) : (setPart s k x).nextCmd = s.nextCmd := rfl
@[simp] theorem setPart_nextOrd (s : State) (k : Nat) (x : Part) : (setPart s k x).nextOrd = s.nextOrd := rfl
@[simp] theorem setPart_twin (s : State) (k : Nat) (x : Part) : (setPart s k x).twin = s.twin := rfl
@[simp] theorem setPart_dev (s : State) (k : Nat) (x : Part) : (setPart s k x).dev = s.dev := rfl
@[simp] theorem setPart_ctr (s : State) (k : Nat) (x : Part) : (setPart s k x).ctr = s.ctr := rfl
@[simp] theorem setPart_elog (s : State) (k : Nat) (x : Part) : (setPart s k x).elog = s.elog := rfl
@[simp] theorem setPart_elogN (s : State) (k : Nat) (x : Part) : (setPart s k x).elogN = s.elogN := rfl
@[simp] theorem setPart_sqBucket (s : State) (k : Nat) (x : Part) : (setPart s k x).sqBucket = s.sqBucket := rfl
@[simp] theorem setPart_floor (s : State) (k : Nat) (x : Part) : (setPart s k x).floor = s.floor := rfl
@[simp] theorem setPart_therm (s : State) (k : Nat) (x : Part) : (setPart s k x).therm = s.therm := rfl
@[simp] theorem setPart_link (s : State) (k : Nat) (x : Part) : (setPart s k x).link = s.link := rfl
@[simp] theorem setPart_i3c (s : State) (k : Nat) (x : Part) : (setPart s k x).i3c = s.i3c := rfl
@[simp] theorem setPart_sec (s : State) (k : Nat) (x : Part) : (setPart s k x).sec = s.sec := rfl

@[simp] theorem setQueue_pending (s : State) (q : Nat) (x : Queue) : (setQueue s q x).pending = s.pending := rfl
@[simp] theorem setQueue_now (s : State) (q : Nat) (x : Queue) : (setQueue s q x).now = s.now := rfl
@[simp] theorem setQueue_free (s : State) (q : Nat) (x : Queue) : (setQueue s q x).free = s.free := rfl
@[simp] theorem setQueue_boot (s : State) (q : Nat) (x : Queue) : (setQueue s q x).boot = s.boot := rfl
@[simp] theorem setQueue_fuses (s : State) (q : Nat) (x : Queue) : (setQueue s q x).fuses = s.fuses := rfl
@[simp] theorem setQueue_eeprom (s : State) (q : Nat) (x : Queue) : (setQueue s q x).eeprom = s.eeprom := rfl
@[simp] theorem setQueue_crofts (s : State) (q : Nat) (x : Queue) : (setQueue s q x).crofts = s.crofts := rfl
@[simp] theorem setQueue_ls (s : State) (q : Nat) (x : Queue) : (setQueue s q x).ls = s.ls := rfl
@[simp] theorem setQueue_lsPoison (s : State) (q : Nat) (x : Queue) : (setQueue s q x).lsPoison = s.lsPoison := rfl
@[simp] theorem setQueue_lsTaint (s : State) (q : Nat) (x : Queue) : (setQueue s q x).lsTaint = s.lsTaint := rfl
@[simp] theorem setQueue_lsErr (s : State) (q : Nat) (x : Queue) : (setQueue s q x).lsErr = s.lsErr := rfl
@[simp] theorem setQueue_slices (s : State) (q : Nat) (x : Queue) : (setQueue s q x).slices = s.slices := rfl
@[simp] theorem setQueue_mem (s : State) (q : Nat) (x : Queue) : (setQueue s q x).mem = s.mem := rfl
@[simp] theorem setQueue_undef (s : State) (q : Nat) (x : Queue) : (setQueue s q x).undef = s.undef := rfl
@[simp] theorem setQueue_shards (s : State) (q : Nat) (x : Queue) : (setQueue s q x).shards = s.shards := rfl
@[simp] theorem setQueue_sess (s : State) (q : Nat) (x : Queue) : (setQueue s q x).sess = s.sess := rfl
@[simp] theorem setQueue_ptab (s : State) (q : Nat) (x : Queue) : (setQueue s q x).ptab = s.ptab := rfl
@[simp] theorem setQueue_parts (s : State) (q : Nat) (x : Queue) : (setQueue s q x).parts = s.parts := rfl
@[simp] theorem setQueue_sqc (s : State) (q : Nat) (x : Queue) : (setQueue s q x).sqc = s.sqc := rfl
@[simp] theorem setQueue_found (s : State) (q : Nat) (x : Queue) : (setQueue s q x).found = s.found := rfl
@[simp] theorem setQueue_brought (s : State) (q : Nat) (x : Queue) : (setQueue s q x).brought = s.brought := rfl
@[simp] theorem setQueue_uses (s : State) (q : Nat) (x : Queue) : (setQueue s q x).uses = s.uses := rfl
@[simp] theorem setQueue_sieves (s : State) (q : Nat) (x : Queue) : (setQueue s q x).sieves = s.sieves := rfl
@[simp] theorem setQueue_bells (s : State) (q : Nat) (x : Queue) : (setQueue s q x).bells = s.bells := rfl
@[simp] theorem setQueue_bellQ (s : State) (q : Nat) (x : Queue) : (setQueue s q x).bellQ = s.bellQ := rfl
@[simp] theorem setQueue_sems (s : State) (q : Nat) (x : Queue) : (setQueue s q x).sems = s.sems := rfl
@[simp] theorem setQueue_semQ (s : State) (q : Nat) (x : Queue) : (setQueue s q x).semQ = s.semQ := rfl
@[simp] theorem setQueue_ports (s : State) (q : Nat) (x : Queue) : (setQueue s q x).ports = s.ports := rfl
@[simp] theorem setQueue_reeves (s : State) (q : Nat) (x : Queue) : (setQueue s q x).reeves = s.reeves := rfl
@[simp] theorem setQueue_reeveMem (s : State) (q : Nat) (x : Queue) : (setQueue s q x).reeveMem = s.reeveMem := rfl
@[simp] theorem setQueue_reeveErr (s : State) (q : Nat) (x : Queue) : (setQueue s q x).reeveErr = s.reeveErr := rfl
@[simp] theorem setQueue_fwMem (s : State) (q : Nat) (x : Queue) : (setQueue s q x).fwMem = s.fwMem := rfl
@[simp] theorem setQueue_fwErr (s : State) (q : Nat) (x : Queue) : (setQueue s q x).fwErr = s.fwErr := rfl
@[simp] theorem setQueue_cmds (s : State) (q : Nat) (x : Queue) : (setQueue s q x).cmds = s.cmds := rfl
@[simp] theorem setQueue_nextCmd (s : State) (q : Nat) (x : Queue) : (setQueue s q x).nextCmd = s.nextCmd := rfl
@[simp] theorem setQueue_nextOrd (s : State) (q : Nat) (x : Queue) : (setQueue s q x).nextOrd = s.nextOrd := rfl
@[simp] theorem setQueue_twin (s : State) (q : Nat) (x : Queue) : (setQueue s q x).twin = s.twin := rfl
@[simp] theorem setQueue_dev (s : State) (q : Nat) (x : Queue) : (setQueue s q x).dev = s.dev := rfl
@[simp] theorem setQueue_ctr (s : State) (q : Nat) (x : Queue) : (setQueue s q x).ctr = s.ctr := rfl
@[simp] theorem setQueue_elog (s : State) (q : Nat) (x : Queue) : (setQueue s q x).elog = s.elog := rfl
@[simp] theorem setQueue_elogN (s : State) (q : Nat) (x : Queue) : (setQueue s q x).elogN = s.elogN := rfl
@[simp] theorem setQueue_sqBucket (s : State) (q : Nat) (x : Queue) : (setQueue s q x).sqBucket = s.sqBucket := rfl
@[simp] theorem setQueue_floor (s : State) (q : Nat) (x : Queue) : (setQueue s q x).floor = s.floor := rfl
@[simp] theorem setQueue_therm (s : State) (q : Nat) (x : Queue) : (setQueue s q x).therm = s.therm := rfl
@[simp] theorem setQueue_link (s : State) (q : Nat) (x : Queue) : (setQueue s q x).link = s.link := rfl
@[simp] theorem setQueue_i3c (s : State) (q : Nat) (x : Queue) : (setQueue s q x).i3c = s.i3c := rfl
@[simp] theorem setQueue_sec (s : State) (q : Nat) (x : Queue) : (setQueue s q x).sec = s.sec := rfl

@[simp] theorem setPort_pending (s : State) (v : Nat) (x : Port) : (setPort s v x).pending = s.pending := rfl
@[simp] theorem setPort_now (s : State) (v : Nat) (x : Port) : (setPort s v x).now = s.now := rfl
@[simp] theorem setPort_free (s : State) (v : Nat) (x : Port) : (setPort s v x).free = s.free := rfl
@[simp] theorem setPort_boot (s : State) (v : Nat) (x : Port) : (setPort s v x).boot = s.boot := rfl
@[simp] theorem setPort_fuses (s : State) (v : Nat) (x : Port) : (setPort s v x).fuses = s.fuses := rfl
@[simp] theorem setPort_eeprom (s : State) (v : Nat) (x : Port) : (setPort s v x).eeprom = s.eeprom := rfl
@[simp] theorem setPort_crofts (s : State) (v : Nat) (x : Port) : (setPort s v x).crofts = s.crofts := rfl
@[simp] theorem setPort_ls (s : State) (v : Nat) (x : Port) : (setPort s v x).ls = s.ls := rfl
@[simp] theorem setPort_lsPoison (s : State) (v : Nat) (x : Port) : (setPort s v x).lsPoison = s.lsPoison := rfl
@[simp] theorem setPort_lsTaint (s : State) (v : Nat) (x : Port) : (setPort s v x).lsTaint = s.lsTaint := rfl
@[simp] theorem setPort_lsErr (s : State) (v : Nat) (x : Port) : (setPort s v x).lsErr = s.lsErr := rfl
@[simp] theorem setPort_slices (s : State) (v : Nat) (x : Port) : (setPort s v x).slices = s.slices := rfl
@[simp] theorem setPort_mem (s : State) (v : Nat) (x : Port) : (setPort s v x).mem = s.mem := rfl
@[simp] theorem setPort_undef (s : State) (v : Nat) (x : Port) : (setPort s v x).undef = s.undef := rfl
@[simp] theorem setPort_shards (s : State) (v : Nat) (x : Port) : (setPort s v x).shards = s.shards := rfl
@[simp] theorem setPort_sess (s : State) (v : Nat) (x : Port) : (setPort s v x).sess = s.sess := rfl
@[simp] theorem setPort_ptab (s : State) (v : Nat) (x : Port) : (setPort s v x).ptab = s.ptab := rfl
@[simp] theorem setPort_parts (s : State) (v : Nat) (x : Port) : (setPort s v x).parts = s.parts := rfl
@[simp] theorem setPort_sqc (s : State) (v : Nat) (x : Port) : (setPort s v x).sqc = s.sqc := rfl
@[simp] theorem setPort_found (s : State) (v : Nat) (x : Port) : (setPort s v x).found = s.found := rfl
@[simp] theorem setPort_brought (s : State) (v : Nat) (x : Port) : (setPort s v x).brought = s.brought := rfl
@[simp] theorem setPort_uses (s : State) (v : Nat) (x : Port) : (setPort s v x).uses = s.uses := rfl
@[simp] theorem setPort_sieves (s : State) (v : Nat) (x : Port) : (setPort s v x).sieves = s.sieves := rfl
@[simp] theorem setPort_bells (s : State) (v : Nat) (x : Port) : (setPort s v x).bells = s.bells := rfl
@[simp] theorem setPort_bellQ (s : State) (v : Nat) (x : Port) : (setPort s v x).bellQ = s.bellQ := rfl
@[simp] theorem setPort_sems (s : State) (v : Nat) (x : Port) : (setPort s v x).sems = s.sems := rfl
@[simp] theorem setPort_semQ (s : State) (v : Nat) (x : Port) : (setPort s v x).semQ = s.semQ := rfl
@[simp] theorem setPort_reeves (s : State) (v : Nat) (x : Port) : (setPort s v x).reeves = s.reeves := rfl
@[simp] theorem setPort_reeveMem (s : State) (v : Nat) (x : Port) : (setPort s v x).reeveMem = s.reeveMem := rfl
@[simp] theorem setPort_reeveErr (s : State) (v : Nat) (x : Port) : (setPort s v x).reeveErr = s.reeveErr := rfl
@[simp] theorem setPort_fwMem (s : State) (v : Nat) (x : Port) : (setPort s v x).fwMem = s.fwMem := rfl
@[simp] theorem setPort_fwErr (s : State) (v : Nat) (x : Port) : (setPort s v x).fwErr = s.fwErr := rfl
@[simp] theorem setPort_queues (s : State) (v : Nat) (x : Port) : (setPort s v x).queues = s.queues := rfl
@[simp] theorem setPort_cmds (s : State) (v : Nat) (x : Port) : (setPort s v x).cmds = s.cmds := rfl
@[simp] theorem setPort_nextCmd (s : State) (v : Nat) (x : Port) : (setPort s v x).nextCmd = s.nextCmd := rfl
@[simp] theorem setPort_nextOrd (s : State) (v : Nat) (x : Port) : (setPort s v x).nextOrd = s.nextOrd := rfl
@[simp] theorem setPort_twin (s : State) (v : Nat) (x : Port) : (setPort s v x).twin = s.twin := rfl
@[simp] theorem setPort_dev (s : State) (v : Nat) (x : Port) : (setPort s v x).dev = s.dev := rfl
@[simp] theorem setPort_ctr (s : State) (v : Nat) (x : Port) : (setPort s v x).ctr = s.ctr := rfl
@[simp] theorem setPort_elog (s : State) (v : Nat) (x : Port) : (setPort s v x).elog = s.elog := rfl
@[simp] theorem setPort_elogN (s : State) (v : Nat) (x : Port) : (setPort s v x).elogN = s.elogN := rfl
@[simp] theorem setPort_sqBucket (s : State) (v : Nat) (x : Port) : (setPort s v x).sqBucket = s.sqBucket := rfl
@[simp] theorem setPort_floor (s : State) (v : Nat) (x : Port) : (setPort s v x).floor = s.floor := rfl
@[simp] theorem setPort_therm (s : State) (v : Nat) (x : Port) : (setPort s v x).therm = s.therm := rfl
@[simp] theorem setPort_link (s : State) (v : Nat) (x : Port) : (setPort s v x).link = s.link := rfl
@[simp] theorem setPort_i3c (s : State) (v : Nat) (x : Port) : (setPort s v x).i3c = s.i3c := rfl
@[simp] theorem setPort_sec (s : State) (v : Nat) (x : Port) : (setPort s v x).sec = s.sec := rfl

@[simp] theorem setShard_pending (s : State) (p t : Nat) (x : Shard) : (setShard s p t x).pending = s.pending := rfl
@[simp] theorem setShard_now (s : State) (p t : Nat) (x : Shard) : (setShard s p t x).now = s.now := rfl
@[simp] theorem setShard_free (s : State) (p t : Nat) (x : Shard) : (setShard s p t x).free = s.free := rfl
@[simp] theorem setShard_boot (s : State) (p t : Nat) (x : Shard) : (setShard s p t x).boot = s.boot := rfl
@[simp] theorem setShard_fuses (s : State) (p t : Nat) (x : Shard) : (setShard s p t x).fuses = s.fuses := rfl
@[simp] theorem setShard_eeprom (s : State) (p t : Nat) (x : Shard) : (setShard s p t x).eeprom = s.eeprom := rfl
@[simp] theorem setShard_crofts (s : State) (p t : Nat) (x : Shard) : (setShard s p t x).crofts = s.crofts := rfl
@[simp] theorem setShard_ls (s : State) (p t : Nat) (x : Shard) : (setShard s p t x).ls = s.ls := rfl
@[simp] theorem setShard_lsPoison (s : State) (p t : Nat) (x : Shard) : (setShard s p t x).lsPoison = s.lsPoison := rfl
@[simp] theorem setShard_lsTaint (s : State) (p t : Nat) (x : Shard) : (setShard s p t x).lsTaint = s.lsTaint := rfl
@[simp] theorem setShard_lsErr (s : State) (p t : Nat) (x : Shard) : (setShard s p t x).lsErr = s.lsErr := rfl
@[simp] theorem setShard_slices (s : State) (p t : Nat) (x : Shard) : (setShard s p t x).slices = s.slices := rfl
@[simp] theorem setShard_mem (s : State) (p t : Nat) (x : Shard) : (setShard s p t x).mem = s.mem := rfl
@[simp] theorem setShard_undef (s : State) (p t : Nat) (x : Shard) : (setShard s p t x).undef = s.undef := rfl
@[simp] theorem setShard_sess (s : State) (p t : Nat) (x : Shard) : (setShard s p t x).sess = s.sess := rfl
@[simp] theorem setShard_ptab (s : State) (p t : Nat) (x : Shard) : (setShard s p t x).ptab = s.ptab := rfl
@[simp] theorem setShard_parts (s : State) (p t : Nat) (x : Shard) : (setShard s p t x).parts = s.parts := rfl
@[simp] theorem setShard_sqc (s : State) (p t : Nat) (x : Shard) : (setShard s p t x).sqc = s.sqc := rfl
@[simp] theorem setShard_found (s : State) (p t : Nat) (x : Shard) : (setShard s p t x).found = s.found := rfl
@[simp] theorem setShard_brought (s : State) (p t : Nat) (x : Shard) : (setShard s p t x).brought = s.brought := rfl
@[simp] theorem setShard_uses (s : State) (p t : Nat) (x : Shard) : (setShard s p t x).uses = s.uses := rfl
@[simp] theorem setShard_sieves (s : State) (p t : Nat) (x : Shard) : (setShard s p t x).sieves = s.sieves := rfl
@[simp] theorem setShard_bells (s : State) (p t : Nat) (x : Shard) : (setShard s p t x).bells = s.bells := rfl
@[simp] theorem setShard_bellQ (s : State) (p t : Nat) (x : Shard) : (setShard s p t x).bellQ = s.bellQ := rfl
@[simp] theorem setShard_sems (s : State) (p t : Nat) (x : Shard) : (setShard s p t x).sems = s.sems := rfl
@[simp] theorem setShard_semQ (s : State) (p t : Nat) (x : Shard) : (setShard s p t x).semQ = s.semQ := rfl
@[simp] theorem setShard_ports (s : State) (p t : Nat) (x : Shard) : (setShard s p t x).ports = s.ports := rfl
@[simp] theorem setShard_reeves (s : State) (p t : Nat) (x : Shard) : (setShard s p t x).reeves = s.reeves := rfl
@[simp] theorem setShard_reeveMem (s : State) (p t : Nat) (x : Shard) : (setShard s p t x).reeveMem = s.reeveMem := rfl
@[simp] theorem setShard_reeveErr (s : State) (p t : Nat) (x : Shard) : (setShard s p t x).reeveErr = s.reeveErr := rfl
@[simp] theorem setShard_fwMem (s : State) (p t : Nat) (x : Shard) : (setShard s p t x).fwMem = s.fwMem := rfl
@[simp] theorem setShard_fwErr (s : State) (p t : Nat) (x : Shard) : (setShard s p t x).fwErr = s.fwErr := rfl
@[simp] theorem setShard_queues (s : State) (p t : Nat) (x : Shard) : (setShard s p t x).queues = s.queues := rfl
@[simp] theorem setShard_cmds (s : State) (p t : Nat) (x : Shard) : (setShard s p t x).cmds = s.cmds := rfl
@[simp] theorem setShard_nextCmd (s : State) (p t : Nat) (x : Shard) : (setShard s p t x).nextCmd = s.nextCmd := rfl
@[simp] theorem setShard_nextOrd (s : State) (p t : Nat) (x : Shard) : (setShard s p t x).nextOrd = s.nextOrd := rfl
@[simp] theorem setShard_twin (s : State) (p t : Nat) (x : Shard) : (setShard s p t x).twin = s.twin := rfl
@[simp] theorem setShard_dev (s : State) (p t : Nat) (x : Shard) : (setShard s p t x).dev = s.dev := rfl
@[simp] theorem setShard_ctr (s : State) (p t : Nat) (x : Shard) : (setShard s p t x).ctr = s.ctr := rfl
@[simp] theorem setShard_elog (s : State) (p t : Nat) (x : Shard) : (setShard s p t x).elog = s.elog := rfl
@[simp] theorem setShard_elogN (s : State) (p t : Nat) (x : Shard) : (setShard s p t x).elogN = s.elogN := rfl
@[simp] theorem setShard_sqBucket (s : State) (p t : Nat) (x : Shard) : (setShard s p t x).sqBucket = s.sqBucket := rfl
@[simp] theorem setShard_floor (s : State) (p t : Nat) (x : Shard) : (setShard s p t x).floor = s.floor := rfl
@[simp] theorem setShard_therm (s : State) (p t : Nat) (x : Shard) : (setShard s p t x).therm = s.therm := rfl
@[simp] theorem setShard_link (s : State) (p t : Nat) (x : Shard) : (setShard s p t x).link = s.link := rfl
@[simp] theorem setShard_i3c (s : State) (p t : Nat) (x : Shard) : (setShard s p t x).i3c = s.i3c := rfl
@[simp] theorem setShard_sec (s : State) (p t : Nat) (x : Shard) : (setShard s p t x).sec = s.sec := rfl

@[simp] theorem setSes_pending (s : State) (i : Nat) (x : Sess) : (setSes s i x).pending = s.pending := rfl
@[simp] theorem setSes_now (s : State) (i : Nat) (x : Sess) : (setSes s i x).now = s.now := rfl
@[simp] theorem setSes_free (s : State) (i : Nat) (x : Sess) : (setSes s i x).free = s.free := rfl
@[simp] theorem setSes_boot (s : State) (i : Nat) (x : Sess) : (setSes s i x).boot = s.boot := rfl
@[simp] theorem setSes_fuses (s : State) (i : Nat) (x : Sess) : (setSes s i x).fuses = s.fuses := rfl
@[simp] theorem setSes_eeprom (s : State) (i : Nat) (x : Sess) : (setSes s i x).eeprom = s.eeprom := rfl
@[simp] theorem setSes_crofts (s : State) (i : Nat) (x : Sess) : (setSes s i x).crofts = s.crofts := rfl
@[simp] theorem setSes_ls (s : State) (i : Nat) (x : Sess) : (setSes s i x).ls = s.ls := rfl
@[simp] theorem setSes_lsPoison (s : State) (i : Nat) (x : Sess) : (setSes s i x).lsPoison = s.lsPoison := rfl
@[simp] theorem setSes_lsTaint (s : State) (i : Nat) (x : Sess) : (setSes s i x).lsTaint = s.lsTaint := rfl
@[simp] theorem setSes_lsErr (s : State) (i : Nat) (x : Sess) : (setSes s i x).lsErr = s.lsErr := rfl
@[simp] theorem setSes_slices (s : State) (i : Nat) (x : Sess) : (setSes s i x).slices = s.slices := rfl
@[simp] theorem setSes_mem (s : State) (i : Nat) (x : Sess) : (setSes s i x).mem = s.mem := rfl
@[simp] theorem setSes_undef (s : State) (i : Nat) (x : Sess) : (setSes s i x).undef = s.undef := rfl
@[simp] theorem setSes_shards (s : State) (i : Nat) (x : Sess) : (setSes s i x).shards = s.shards := rfl
@[simp] theorem setSes_ptab (s : State) (i : Nat) (x : Sess) : (setSes s i x).ptab = s.ptab := rfl
@[simp] theorem setSes_parts (s : State) (i : Nat) (x : Sess) : (setSes s i x).parts = s.parts := rfl
@[simp] theorem setSes_sqc (s : State) (i : Nat) (x : Sess) : (setSes s i x).sqc = s.sqc := rfl
@[simp] theorem setSes_found (s : State) (i : Nat) (x : Sess) : (setSes s i x).found = s.found := rfl
@[simp] theorem setSes_brought (s : State) (i : Nat) (x : Sess) : (setSes s i x).brought = s.brought := rfl
@[simp] theorem setSes_uses (s : State) (i : Nat) (x : Sess) : (setSes s i x).uses = s.uses := rfl
@[simp] theorem setSes_sieves (s : State) (i : Nat) (x : Sess) : (setSes s i x).sieves = s.sieves := rfl
@[simp] theorem setSes_bells (s : State) (i : Nat) (x : Sess) : (setSes s i x).bells = s.bells := rfl
@[simp] theorem setSes_bellQ (s : State) (i : Nat) (x : Sess) : (setSes s i x).bellQ = s.bellQ := rfl
@[simp] theorem setSes_sems (s : State) (i : Nat) (x : Sess) : (setSes s i x).sems = s.sems := rfl
@[simp] theorem setSes_semQ (s : State) (i : Nat) (x : Sess) : (setSes s i x).semQ = s.semQ := rfl
@[simp] theorem setSes_ports (s : State) (i : Nat) (x : Sess) : (setSes s i x).ports = s.ports := rfl
@[simp] theorem setSes_reeves (s : State) (i : Nat) (x : Sess) : (setSes s i x).reeves = s.reeves := rfl
@[simp] theorem setSes_reeveMem (s : State) (i : Nat) (x : Sess) : (setSes s i x).reeveMem = s.reeveMem := rfl
@[simp] theorem setSes_reeveErr (s : State) (i : Nat) (x : Sess) : (setSes s i x).reeveErr = s.reeveErr := rfl
@[simp] theorem setSes_fwMem (s : State) (i : Nat) (x : Sess) : (setSes s i x).fwMem = s.fwMem := rfl
@[simp] theorem setSes_fwErr (s : State) (i : Nat) (x : Sess) : (setSes s i x).fwErr = s.fwErr := rfl
@[simp] theorem setSes_queues (s : State) (i : Nat) (x : Sess) : (setSes s i x).queues = s.queues := rfl
@[simp] theorem setSes_cmds (s : State) (i : Nat) (x : Sess) : (setSes s i x).cmds = s.cmds := rfl
@[simp] theorem setSes_nextCmd (s : State) (i : Nat) (x : Sess) : (setSes s i x).nextCmd = s.nextCmd := rfl
@[simp] theorem setSes_nextOrd (s : State) (i : Nat) (x : Sess) : (setSes s i x).nextOrd = s.nextOrd := rfl
@[simp] theorem setSes_twin (s : State) (i : Nat) (x : Sess) : (setSes s i x).twin = s.twin := rfl
@[simp] theorem setSes_dev (s : State) (i : Nat) (x : Sess) : (setSes s i x).dev = s.dev := rfl
@[simp] theorem setSes_ctr (s : State) (i : Nat) (x : Sess) : (setSes s i x).ctr = s.ctr := rfl
@[simp] theorem setSes_elog (s : State) (i : Nat) (x : Sess) : (setSes s i x).elog = s.elog := rfl
@[simp] theorem setSes_elogN (s : State) (i : Nat) (x : Sess) : (setSes s i x).elogN = s.elogN := rfl
@[simp] theorem setSes_sqBucket (s : State) (i : Nat) (x : Sess) : (setSes s i x).sqBucket = s.sqBucket := rfl
@[simp] theorem setSes_floor (s : State) (i : Nat) (x : Sess) : (setSes s i x).floor = s.floor := rfl
@[simp] theorem setSes_therm (s : State) (i : Nat) (x : Sess) : (setSes s i x).therm = s.therm := rfl
@[simp] theorem setSes_link (s : State) (i : Nat) (x : Sess) : (setSes s i x).link = s.link := rfl
@[simp] theorem setSes_i3c (s : State) (i : Nat) (x : Sess) : (setSes s i x).i3c = s.i3c := rfl
@[simp] theorem setSes_sec (s : State) (i : Nat) (x : Sess) : (setSes s i x).sec = s.sec := rfl

@[simp] theorem setReeve_pending (s : State) (r : Nat) (x : ReeveSt) : (setReeve s r x).pending = s.pending := rfl
@[simp] theorem setReeve_now (s : State) (r : Nat) (x : ReeveSt) : (setReeve s r x).now = s.now := rfl
@[simp] theorem setReeve_free (s : State) (r : Nat) (x : ReeveSt) : (setReeve s r x).free = s.free := rfl
@[simp] theorem setReeve_boot (s : State) (r : Nat) (x : ReeveSt) : (setReeve s r x).boot = s.boot := rfl
@[simp] theorem setReeve_fuses (s : State) (r : Nat) (x : ReeveSt) : (setReeve s r x).fuses = s.fuses := rfl
@[simp] theorem setReeve_eeprom (s : State) (r : Nat) (x : ReeveSt) : (setReeve s r x).eeprom = s.eeprom := rfl
@[simp] theorem setReeve_crofts (s : State) (r : Nat) (x : ReeveSt) : (setReeve s r x).crofts = s.crofts := rfl
@[simp] theorem setReeve_ls (s : State) (r : Nat) (x : ReeveSt) : (setReeve s r x).ls = s.ls := rfl
@[simp] theorem setReeve_lsPoison (s : State) (r : Nat) (x : ReeveSt) : (setReeve s r x).lsPoison = s.lsPoison := rfl
@[simp] theorem setReeve_lsTaint (s : State) (r : Nat) (x : ReeveSt) : (setReeve s r x).lsTaint = s.lsTaint := rfl
@[simp] theorem setReeve_lsErr (s : State) (r : Nat) (x : ReeveSt) : (setReeve s r x).lsErr = s.lsErr := rfl
@[simp] theorem setReeve_slices (s : State) (r : Nat) (x : ReeveSt) : (setReeve s r x).slices = s.slices := rfl
@[simp] theorem setReeve_mem (s : State) (r : Nat) (x : ReeveSt) : (setReeve s r x).mem = s.mem := rfl
@[simp] theorem setReeve_undef (s : State) (r : Nat) (x : ReeveSt) : (setReeve s r x).undef = s.undef := rfl
@[simp] theorem setReeve_shards (s : State) (r : Nat) (x : ReeveSt) : (setReeve s r x).shards = s.shards := rfl
@[simp] theorem setReeve_sess (s : State) (r : Nat) (x : ReeveSt) : (setReeve s r x).sess = s.sess := rfl
@[simp] theorem setReeve_ptab (s : State) (r : Nat) (x : ReeveSt) : (setReeve s r x).ptab = s.ptab := rfl
@[simp] theorem setReeve_parts (s : State) (r : Nat) (x : ReeveSt) : (setReeve s r x).parts = s.parts := rfl
@[simp] theorem setReeve_sqc (s : State) (r : Nat) (x : ReeveSt) : (setReeve s r x).sqc = s.sqc := rfl
@[simp] theorem setReeve_found (s : State) (r : Nat) (x : ReeveSt) : (setReeve s r x).found = s.found := rfl
@[simp] theorem setReeve_brought (s : State) (r : Nat) (x : ReeveSt) : (setReeve s r x).brought = s.brought := rfl
@[simp] theorem setReeve_uses (s : State) (r : Nat) (x : ReeveSt) : (setReeve s r x).uses = s.uses := rfl
@[simp] theorem setReeve_sieves (s : State) (r : Nat) (x : ReeveSt) : (setReeve s r x).sieves = s.sieves := rfl
@[simp] theorem setReeve_bells (s : State) (r : Nat) (x : ReeveSt) : (setReeve s r x).bells = s.bells := rfl
@[simp] theorem setReeve_bellQ (s : State) (r : Nat) (x : ReeveSt) : (setReeve s r x).bellQ = s.bellQ := rfl
@[simp] theorem setReeve_sems (s : State) (r : Nat) (x : ReeveSt) : (setReeve s r x).sems = s.sems := rfl
@[simp] theorem setReeve_semQ (s : State) (r : Nat) (x : ReeveSt) : (setReeve s r x).semQ = s.semQ := rfl
@[simp] theorem setReeve_ports (s : State) (r : Nat) (x : ReeveSt) : (setReeve s r x).ports = s.ports := rfl
@[simp] theorem setReeve_reeveMem (s : State) (r : Nat) (x : ReeveSt) : (setReeve s r x).reeveMem = s.reeveMem := rfl
@[simp] theorem setReeve_reeveErr (s : State) (r : Nat) (x : ReeveSt) : (setReeve s r x).reeveErr = s.reeveErr := rfl
@[simp] theorem setReeve_fwMem (s : State) (r : Nat) (x : ReeveSt) : (setReeve s r x).fwMem = s.fwMem := rfl
@[simp] theorem setReeve_fwErr (s : State) (r : Nat) (x : ReeveSt) : (setReeve s r x).fwErr = s.fwErr := rfl
@[simp] theorem setReeve_queues (s : State) (r : Nat) (x : ReeveSt) : (setReeve s r x).queues = s.queues := rfl
@[simp] theorem setReeve_cmds (s : State) (r : Nat) (x : ReeveSt) : (setReeve s r x).cmds = s.cmds := rfl
@[simp] theorem setReeve_nextCmd (s : State) (r : Nat) (x : ReeveSt) : (setReeve s r x).nextCmd = s.nextCmd := rfl
@[simp] theorem setReeve_nextOrd (s : State) (r : Nat) (x : ReeveSt) : (setReeve s r x).nextOrd = s.nextOrd := rfl
@[simp] theorem setReeve_twin (s : State) (r : Nat) (x : ReeveSt) : (setReeve s r x).twin = s.twin := rfl
@[simp] theorem setReeve_dev (s : State) (r : Nat) (x : ReeveSt) : (setReeve s r x).dev = s.dev := rfl
@[simp] theorem setReeve_ctr (s : State) (r : Nat) (x : ReeveSt) : (setReeve s r x).ctr = s.ctr := rfl
@[simp] theorem setReeve_elog (s : State) (r : Nat) (x : ReeveSt) : (setReeve s r x).elog = s.elog := rfl
@[simp] theorem setReeve_elogN (s : State) (r : Nat) (x : ReeveSt) : (setReeve s r x).elogN = s.elogN := rfl
@[simp] theorem setReeve_sqBucket (s : State) (r : Nat) (x : ReeveSt) : (setReeve s r x).sqBucket = s.sqBucket := rfl
@[simp] theorem setReeve_floor (s : State) (r : Nat) (x : ReeveSt) : (setReeve s r x).floor = s.floor := rfl
@[simp] theorem setReeve_therm (s : State) (r : Nat) (x : ReeveSt) : (setReeve s r x).therm = s.therm := rfl
@[simp] theorem setReeve_link (s : State) (r : Nat) (x : ReeveSt) : (setReeve s r x).link = s.link := rfl
@[simp] theorem setReeve_i3c (s : State) (r : Nat) (x : ReeveSt) : (setReeve s r x).i3c = s.i3c := rfl
@[simp] theorem setReeve_sec (s : State) (r : Nat) (x : ReeveSt) : (setReeve s r x).sec = s.sec := rfl

@[simp] theorem setSieve_pending (s : State) (v : Nat) (x : SieveSt) : (setSieve s v x).pending = s.pending := rfl
@[simp] theorem setSieve_now (s : State) (v : Nat) (x : SieveSt) : (setSieve s v x).now = s.now := rfl
@[simp] theorem setSieve_free (s : State) (v : Nat) (x : SieveSt) : (setSieve s v x).free = s.free := rfl
@[simp] theorem setSieve_boot (s : State) (v : Nat) (x : SieveSt) : (setSieve s v x).boot = s.boot := rfl
@[simp] theorem setSieve_fuses (s : State) (v : Nat) (x : SieveSt) : (setSieve s v x).fuses = s.fuses := rfl
@[simp] theorem setSieve_eeprom (s : State) (v : Nat) (x : SieveSt) : (setSieve s v x).eeprom = s.eeprom := rfl
@[simp] theorem setSieve_crofts (s : State) (v : Nat) (x : SieveSt) : (setSieve s v x).crofts = s.crofts := rfl
@[simp] theorem setSieve_ls (s : State) (v : Nat) (x : SieveSt) : (setSieve s v x).ls = s.ls := rfl
@[simp] theorem setSieve_lsPoison (s : State) (v : Nat) (x : SieveSt) : (setSieve s v x).lsPoison = s.lsPoison := rfl
@[simp] theorem setSieve_lsTaint (s : State) (v : Nat) (x : SieveSt) : (setSieve s v x).lsTaint = s.lsTaint := rfl
@[simp] theorem setSieve_lsErr (s : State) (v : Nat) (x : SieveSt) : (setSieve s v x).lsErr = s.lsErr := rfl
@[simp] theorem setSieve_slices (s : State) (v : Nat) (x : SieveSt) : (setSieve s v x).slices = s.slices := rfl
@[simp] theorem setSieve_mem (s : State) (v : Nat) (x : SieveSt) : (setSieve s v x).mem = s.mem := rfl
@[simp] theorem setSieve_undef (s : State) (v : Nat) (x : SieveSt) : (setSieve s v x).undef = s.undef := rfl
@[simp] theorem setSieve_shards (s : State) (v : Nat) (x : SieveSt) : (setSieve s v x).shards = s.shards := rfl
@[simp] theorem setSieve_sess (s : State) (v : Nat) (x : SieveSt) : (setSieve s v x).sess = s.sess := rfl
@[simp] theorem setSieve_ptab (s : State) (v : Nat) (x : SieveSt) : (setSieve s v x).ptab = s.ptab := rfl
@[simp] theorem setSieve_parts (s : State) (v : Nat) (x : SieveSt) : (setSieve s v x).parts = s.parts := rfl
@[simp] theorem setSieve_sqc (s : State) (v : Nat) (x : SieveSt) : (setSieve s v x).sqc = s.sqc := rfl
@[simp] theorem setSieve_found (s : State) (v : Nat) (x : SieveSt) : (setSieve s v x).found = s.found := rfl
@[simp] theorem setSieve_brought (s : State) (v : Nat) (x : SieveSt) : (setSieve s v x).brought = s.brought := rfl
@[simp] theorem setSieve_uses (s : State) (v : Nat) (x : SieveSt) : (setSieve s v x).uses = s.uses := rfl
@[simp] theorem setSieve_bells (s : State) (v : Nat) (x : SieveSt) : (setSieve s v x).bells = s.bells := rfl
@[simp] theorem setSieve_bellQ (s : State) (v : Nat) (x : SieveSt) : (setSieve s v x).bellQ = s.bellQ := rfl
@[simp] theorem setSieve_sems (s : State) (v : Nat) (x : SieveSt) : (setSieve s v x).sems = s.sems := rfl
@[simp] theorem setSieve_semQ (s : State) (v : Nat) (x : SieveSt) : (setSieve s v x).semQ = s.semQ := rfl
@[simp] theorem setSieve_ports (s : State) (v : Nat) (x : SieveSt) : (setSieve s v x).ports = s.ports := rfl
@[simp] theorem setSieve_reeves (s : State) (v : Nat) (x : SieveSt) : (setSieve s v x).reeves = s.reeves := rfl
@[simp] theorem setSieve_reeveMem (s : State) (v : Nat) (x : SieveSt) : (setSieve s v x).reeveMem = s.reeveMem := rfl
@[simp] theorem setSieve_reeveErr (s : State) (v : Nat) (x : SieveSt) : (setSieve s v x).reeveErr = s.reeveErr := rfl
@[simp] theorem setSieve_fwMem (s : State) (v : Nat) (x : SieveSt) : (setSieve s v x).fwMem = s.fwMem := rfl
@[simp] theorem setSieve_fwErr (s : State) (v : Nat) (x : SieveSt) : (setSieve s v x).fwErr = s.fwErr := rfl
@[simp] theorem setSieve_queues (s : State) (v : Nat) (x : SieveSt) : (setSieve s v x).queues = s.queues := rfl
@[simp] theorem setSieve_cmds (s : State) (v : Nat) (x : SieveSt) : (setSieve s v x).cmds = s.cmds := rfl
@[simp] theorem setSieve_nextCmd (s : State) (v : Nat) (x : SieveSt) : (setSieve s v x).nextCmd = s.nextCmd := rfl
@[simp] theorem setSieve_nextOrd (s : State) (v : Nat) (x : SieveSt) : (setSieve s v x).nextOrd = s.nextOrd := rfl
@[simp] theorem setSieve_twin (s : State) (v : Nat) (x : SieveSt) : (setSieve s v x).twin = s.twin := rfl
@[simp] theorem setSieve_dev (s : State) (v : Nat) (x : SieveSt) : (setSieve s v x).dev = s.dev := rfl
@[simp] theorem setSieve_ctr (s : State) (v : Nat) (x : SieveSt) : (setSieve s v x).ctr = s.ctr := rfl
@[simp] theorem setSieve_elog (s : State) (v : Nat) (x : SieveSt) : (setSieve s v x).elog = s.elog := rfl
@[simp] theorem setSieve_elogN (s : State) (v : Nat) (x : SieveSt) : (setSieve s v x).elogN = s.elogN := rfl
@[simp] theorem setSieve_sqBucket (s : State) (v : Nat) (x : SieveSt) : (setSieve s v x).sqBucket = s.sqBucket := rfl
@[simp] theorem setSieve_floor (s : State) (v : Nat) (x : SieveSt) : (setSieve s v x).floor = s.floor := rfl
@[simp] theorem setSieve_therm (s : State) (v : Nat) (x : SieveSt) : (setSieve s v x).therm = s.therm := rfl
@[simp] theorem setSieve_link (s : State) (v : Nat) (x : SieveSt) : (setSieve s v x).link = s.link := rfl
@[simp] theorem setSieve_i3c (s : State) (v : Nat) (x : SieveSt) : (setSieve s v x).i3c = s.i3c := rfl
@[simp] theorem setSieve_sec (s : State) (v : Nat) (x : SieveSt) : (setSieve s v x).sec = s.sec := rfl

@[simp] theorem bump_pending (s : State) (k n : Nat) : (bump s k n).pending = s.pending := rfl
@[simp] theorem bump_now (s : State) (k n : Nat) : (bump s k n).now = s.now := rfl
@[simp] theorem bump_free (s : State) (k n : Nat) : (bump s k n).free = s.free := rfl
@[simp] theorem bump_boot (s : State) (k n : Nat) : (bump s k n).boot = s.boot := rfl
@[simp] theorem bump_fuses (s : State) (k n : Nat) : (bump s k n).fuses = s.fuses := rfl
@[simp] theorem bump_eeprom (s : State) (k n : Nat) : (bump s k n).eeprom = s.eeprom := rfl
@[simp] theorem bump_crofts (s : State) (k n : Nat) : (bump s k n).crofts = s.crofts := rfl
@[simp] theorem bump_ls (s : State) (k n : Nat) : (bump s k n).ls = s.ls := rfl
@[simp] theorem bump_lsPoison (s : State) (k n : Nat) : (bump s k n).lsPoison = s.lsPoison := rfl
@[simp] theorem bump_lsTaint (s : State) (k n : Nat) : (bump s k n).lsTaint = s.lsTaint := rfl
@[simp] theorem bump_lsErr (s : State) (k n : Nat) : (bump s k n).lsErr = s.lsErr := rfl
@[simp] theorem bump_slices (s : State) (k n : Nat) : (bump s k n).slices = s.slices := rfl
@[simp] theorem bump_mem (s : State) (k n : Nat) : (bump s k n).mem = s.mem := rfl
@[simp] theorem bump_undef (s : State) (k n : Nat) : (bump s k n).undef = s.undef := rfl
@[simp] theorem bump_shards (s : State) (k n : Nat) : (bump s k n).shards = s.shards := rfl
@[simp] theorem bump_sess (s : State) (k n : Nat) : (bump s k n).sess = s.sess := rfl
@[simp] theorem bump_ptab (s : State) (k n : Nat) : (bump s k n).ptab = s.ptab := rfl
@[simp] theorem bump_parts (s : State) (k n : Nat) : (bump s k n).parts = s.parts := rfl
@[simp] theorem bump_sqc (s : State) (k n : Nat) : (bump s k n).sqc = s.sqc := rfl
@[simp] theorem bump_found (s : State) (k n : Nat) : (bump s k n).found = s.found := rfl
@[simp] theorem bump_brought (s : State) (k n : Nat) : (bump s k n).brought = s.brought := rfl
@[simp] theorem bump_uses (s : State) (k n : Nat) : (bump s k n).uses = s.uses := rfl
@[simp] theorem bump_sieves (s : State) (k n : Nat) : (bump s k n).sieves = s.sieves := rfl
@[simp] theorem bump_bells (s : State) (k n : Nat) : (bump s k n).bells = s.bells := rfl
@[simp] theorem bump_bellQ (s : State) (k n : Nat) : (bump s k n).bellQ = s.bellQ := rfl
@[simp] theorem bump_sems (s : State) (k n : Nat) : (bump s k n).sems = s.sems := rfl
@[simp] theorem bump_semQ (s : State) (k n : Nat) : (bump s k n).semQ = s.semQ := rfl
@[simp] theorem bump_ports (s : State) (k n : Nat) : (bump s k n).ports = s.ports := rfl
@[simp] theorem bump_reeves (s : State) (k n : Nat) : (bump s k n).reeves = s.reeves := rfl
@[simp] theorem bump_reeveMem (s : State) (k n : Nat) : (bump s k n).reeveMem = s.reeveMem := rfl
@[simp] theorem bump_reeveErr (s : State) (k n : Nat) : (bump s k n).reeveErr = s.reeveErr := rfl
@[simp] theorem bump_fwMem (s : State) (k n : Nat) : (bump s k n).fwMem = s.fwMem := rfl
@[simp] theorem bump_fwErr (s : State) (k n : Nat) : (bump s k n).fwErr = s.fwErr := rfl
@[simp] theorem bump_queues (s : State) (k n : Nat) : (bump s k n).queues = s.queues := rfl
@[simp] theorem bump_cmds (s : State) (k n : Nat) : (bump s k n).cmds = s.cmds := rfl
@[simp] theorem bump_nextCmd (s : State) (k n : Nat) : (bump s k n).nextCmd = s.nextCmd := rfl
@[simp] theorem bump_nextOrd (s : State) (k n : Nat) : (bump s k n).nextOrd = s.nextOrd := rfl
@[simp] theorem bump_twin (s : State) (k n : Nat) : (bump s k n).twin = s.twin := rfl
@[simp] theorem bump_dev (s : State) (k n : Nat) : (bump s k n).dev = s.dev := rfl
@[simp] theorem bump_elog (s : State) (k n : Nat) : (bump s k n).elog = s.elog := rfl
@[simp] theorem bump_elogN (s : State) (k n : Nat) : (bump s k n).elogN = s.elogN := rfl
@[simp] theorem bump_sqBucket (s : State) (k n : Nat) : (bump s k n).sqBucket = s.sqBucket := rfl
@[simp] theorem bump_floor (s : State) (k n : Nat) : (bump s k n).floor = s.floor := rfl
@[simp] theorem bump_therm (s : State) (k n : Nat) : (bump s k n).therm = s.therm := rfl
@[simp] theorem bump_link (s : State) (k n : Nat) : (bump s k n).link = s.link := rfl
@[simp] theorem bump_i3c (s : State) (k n : Nat) : (bump s k n).i3c = s.i3c := rfl
@[simp] theorem bump_sec (s : State) (k n : Nat) : (bump s k n).sec = s.sec := rfl

@[simp] theorem unbump_pending (s : State) (k n : Nat) : (unbump s k n).pending = s.pending := rfl
@[simp] theorem unbump_now (s : State) (k n : Nat) : (unbump s k n).now = s.now := rfl
@[simp] theorem unbump_free (s : State) (k n : Nat) : (unbump s k n).free = s.free := rfl
@[simp] theorem unbump_boot (s : State) (k n : Nat) : (unbump s k n).boot = s.boot := rfl
@[simp] theorem unbump_fuses (s : State) (k n : Nat) : (unbump s k n).fuses = s.fuses := rfl
@[simp] theorem unbump_eeprom (s : State) (k n : Nat) : (unbump s k n).eeprom = s.eeprom := rfl
@[simp] theorem unbump_crofts (s : State) (k n : Nat) : (unbump s k n).crofts = s.crofts := rfl
@[simp] theorem unbump_ls (s : State) (k n : Nat) : (unbump s k n).ls = s.ls := rfl
@[simp] theorem unbump_lsPoison (s : State) (k n : Nat) : (unbump s k n).lsPoison = s.lsPoison := rfl
@[simp] theorem unbump_lsTaint (s : State) (k n : Nat) : (unbump s k n).lsTaint = s.lsTaint := rfl
@[simp] theorem unbump_lsErr (s : State) (k n : Nat) : (unbump s k n).lsErr = s.lsErr := rfl
@[simp] theorem unbump_slices (s : State) (k n : Nat) : (unbump s k n).slices = s.slices := rfl
@[simp] theorem unbump_mem (s : State) (k n : Nat) : (unbump s k n).mem = s.mem := rfl
@[simp] theorem unbump_undef (s : State) (k n : Nat) : (unbump s k n).undef = s.undef := rfl
@[simp] theorem unbump_shards (s : State) (k n : Nat) : (unbump s k n).shards = s.shards := rfl
@[simp] theorem unbump_sess (s : State) (k n : Nat) : (unbump s k n).sess = s.sess := rfl
@[simp] theorem unbump_ptab (s : State) (k n : Nat) : (unbump s k n).ptab = s.ptab := rfl
@[simp] theorem unbump_parts (s : State) (k n : Nat) : (unbump s k n).parts = s.parts := rfl
@[simp] theorem unbump_sqc (s : State) (k n : Nat) : (unbump s k n).sqc = s.sqc := rfl
@[simp] theorem unbump_found (s : State) (k n : Nat) : (unbump s k n).found = s.found := rfl
@[simp] theorem unbump_brought (s : State) (k n : Nat) : (unbump s k n).brought = s.brought := rfl
@[simp] theorem unbump_uses (s : State) (k n : Nat) : (unbump s k n).uses = s.uses := rfl
@[simp] theorem unbump_sieves (s : State) (k n : Nat) : (unbump s k n).sieves = s.sieves := rfl
@[simp] theorem unbump_bells (s : State) (k n : Nat) : (unbump s k n).bells = s.bells := rfl
@[simp] theorem unbump_bellQ (s : State) (k n : Nat) : (unbump s k n).bellQ = s.bellQ := rfl
@[simp] theorem unbump_sems (s : State) (k n : Nat) : (unbump s k n).sems = s.sems := rfl
@[simp] theorem unbump_semQ (s : State) (k n : Nat) : (unbump s k n).semQ = s.semQ := rfl
@[simp] theorem unbump_ports (s : State) (k n : Nat) : (unbump s k n).ports = s.ports := rfl
@[simp] theorem unbump_reeves (s : State) (k n : Nat) : (unbump s k n).reeves = s.reeves := rfl
@[simp] theorem unbump_reeveMem (s : State) (k n : Nat) : (unbump s k n).reeveMem = s.reeveMem := rfl
@[simp] theorem unbump_reeveErr (s : State) (k n : Nat) : (unbump s k n).reeveErr = s.reeveErr := rfl
@[simp] theorem unbump_fwMem (s : State) (k n : Nat) : (unbump s k n).fwMem = s.fwMem := rfl
@[simp] theorem unbump_fwErr (s : State) (k n : Nat) : (unbump s k n).fwErr = s.fwErr := rfl
@[simp] theorem unbump_queues (s : State) (k n : Nat) : (unbump s k n).queues = s.queues := rfl
@[simp] theorem unbump_cmds (s : State) (k n : Nat) : (unbump s k n).cmds = s.cmds := rfl
@[simp] theorem unbump_nextCmd (s : State) (k n : Nat) : (unbump s k n).nextCmd = s.nextCmd := rfl
@[simp] theorem unbump_nextOrd (s : State) (k n : Nat) : (unbump s k n).nextOrd = s.nextOrd := rfl
@[simp] theorem unbump_twin (s : State) (k n : Nat) : (unbump s k n).twin = s.twin := rfl
@[simp] theorem unbump_dev (s : State) (k n : Nat) : (unbump s k n).dev = s.dev := rfl
@[simp] theorem unbump_elog (s : State) (k n : Nat) : (unbump s k n).elog = s.elog := rfl
@[simp] theorem unbump_elogN (s : State) (k n : Nat) : (unbump s k n).elogN = s.elogN := rfl
@[simp] theorem unbump_sqBucket (s : State) (k n : Nat) : (unbump s k n).sqBucket = s.sqBucket := rfl
@[simp] theorem unbump_floor (s : State) (k n : Nat) : (unbump s k n).floor = s.floor := rfl
@[simp] theorem unbump_therm (s : State) (k n : Nat) : (unbump s k n).therm = s.therm := rfl
@[simp] theorem unbump_link (s : State) (k n : Nat) : (unbump s k n).link = s.link := rfl
@[simp] theorem unbump_i3c (s : State) (k n : Nat) : (unbump s k n).i3c = s.i3c := rfl
@[simp] theorem unbump_sec (s : State) (k n : Nat) : (unbump s k n).sec = s.sec := rfl

@[simp] theorem drew_pending (s : State) : (drew s).pending = s.pending := rfl
@[simp] theorem drew_now (s : State) : (drew s).now = s.now := rfl
@[simp] theorem drew_boot (s : State) : (drew s).boot = s.boot := rfl
@[simp] theorem drew_fuses (s : State) : (drew s).fuses = s.fuses := rfl
@[simp] theorem drew_eeprom (s : State) : (drew s).eeprom = s.eeprom := rfl
@[simp] theorem drew_crofts (s : State) : (drew s).crofts = s.crofts := rfl
@[simp] theorem drew_ls (s : State) : (drew s).ls = s.ls := rfl
@[simp] theorem drew_lsPoison (s : State) : (drew s).lsPoison = s.lsPoison := rfl
@[simp] theorem drew_lsTaint (s : State) : (drew s).lsTaint = s.lsTaint := rfl
@[simp] theorem drew_lsErr (s : State) : (drew s).lsErr = s.lsErr := rfl
@[simp] theorem drew_slices (s : State) : (drew s).slices = s.slices := rfl
@[simp] theorem drew_mem (s : State) : (drew s).mem = s.mem := rfl
@[simp] theorem drew_undef (s : State) : (drew s).undef = s.undef := rfl
@[simp] theorem drew_shards (s : State) : (drew s).shards = s.shards := rfl
@[simp] theorem drew_sess (s : State) : (drew s).sess = s.sess := rfl
@[simp] theorem drew_ptab (s : State) : (drew s).ptab = s.ptab := rfl
@[simp] theorem drew_parts (s : State) : (drew s).parts = s.parts := rfl
@[simp] theorem drew_sqc (s : State) : (drew s).sqc = s.sqc := rfl
@[simp] theorem drew_found (s : State) : (drew s).found = s.found := rfl
@[simp] theorem drew_brought (s : State) : (drew s).brought = s.brought := rfl
@[simp] theorem drew_uses (s : State) : (drew s).uses = s.uses := rfl
@[simp] theorem drew_sieves (s : State) : (drew s).sieves = s.sieves := rfl
@[simp] theorem drew_bells (s : State) : (drew s).bells = s.bells := rfl
@[simp] theorem drew_bellQ (s : State) : (drew s).bellQ = s.bellQ := rfl
@[simp] theorem drew_sems (s : State) : (drew s).sems = s.sems := rfl
@[simp] theorem drew_semQ (s : State) : (drew s).semQ = s.semQ := rfl
@[simp] theorem drew_ports (s : State) : (drew s).ports = s.ports := rfl
@[simp] theorem drew_reeves (s : State) : (drew s).reeves = s.reeves := rfl
@[simp] theorem drew_reeveMem (s : State) : (drew s).reeveMem = s.reeveMem := rfl
@[simp] theorem drew_reeveErr (s : State) : (drew s).reeveErr = s.reeveErr := rfl
@[simp] theorem drew_fwMem (s : State) : (drew s).fwMem = s.fwMem := rfl
@[simp] theorem drew_fwErr (s : State) : (drew s).fwErr = s.fwErr := rfl
@[simp] theorem drew_queues (s : State) : (drew s).queues = s.queues := rfl
@[simp] theorem drew_cmds (s : State) : (drew s).cmds = s.cmds := rfl
@[simp] theorem drew_nextCmd (s : State) : (drew s).nextCmd = s.nextCmd := rfl
@[simp] theorem drew_nextOrd (s : State) : (drew s).nextOrd = s.nextOrd := rfl
@[simp] theorem drew_twin (s : State) : (drew s).twin = s.twin := rfl
@[simp] theorem drew_dev (s : State) : (drew s).dev = s.dev := rfl
@[simp] theorem drew_ctr (s : State) : (drew s).ctr = s.ctr := rfl
@[simp] theorem drew_elog (s : State) : (drew s).elog = s.elog := rfl
@[simp] theorem drew_elogN (s : State) : (drew s).elogN = s.elogN := rfl
@[simp] theorem drew_sqBucket (s : State) : (drew s).sqBucket = s.sqBucket := rfl
@[simp] theorem drew_floor (s : State) : (drew s).floor = s.floor := rfl
@[simp] theorem drew_therm (s : State) : (drew s).therm = s.therm := rfl
@[simp] theorem drew_link (s : State) : (drew s).link = s.link := rfl
@[simp] theorem drew_i3c (s : State) : (drew s).i3c = s.i3c := rfl
@[simp] theorem drew_sec (s : State) : (drew s).sec = s.sec := rfl

@[simp] theorem emit_pending (s : State) (m : Out) : (emit s m).pending = s.pending := rfl
@[simp] theorem emit_now (s : State) (m : Out) : (emit s m).now = s.now := rfl
@[simp] theorem emit_free (s : State) (m : Out) : (emit s m).free = s.free := rfl
@[simp] theorem emit_boot (s : State) (m : Out) : (emit s m).boot = s.boot := rfl
@[simp] theorem emit_fuses (s : State) (m : Out) : (emit s m).fuses = s.fuses := rfl
@[simp] theorem emit_eeprom (s : State) (m : Out) : (emit s m).eeprom = s.eeprom := rfl
@[simp] theorem emit_crofts (s : State) (m : Out) : (emit s m).crofts = s.crofts := rfl
@[simp] theorem emit_ls (s : State) (m : Out) : (emit s m).ls = s.ls := rfl
@[simp] theorem emit_lsPoison (s : State) (m : Out) : (emit s m).lsPoison = s.lsPoison := rfl
@[simp] theorem emit_lsTaint (s : State) (m : Out) : (emit s m).lsTaint = s.lsTaint := rfl
@[simp] theorem emit_lsErr (s : State) (m : Out) : (emit s m).lsErr = s.lsErr := rfl
@[simp] theorem emit_slices (s : State) (m : Out) : (emit s m).slices = s.slices := rfl
@[simp] theorem emit_mem (s : State) (m : Out) : (emit s m).mem = s.mem := rfl
@[simp] theorem emit_undef (s : State) (m : Out) : (emit s m).undef = s.undef := rfl
@[simp] theorem emit_shards (s : State) (m : Out) : (emit s m).shards = s.shards := rfl
@[simp] theorem emit_sess (s : State) (m : Out) : (emit s m).sess = s.sess := rfl
@[simp] theorem emit_ptab (s : State) (m : Out) : (emit s m).ptab = s.ptab := rfl
@[simp] theorem emit_parts (s : State) (m : Out) : (emit s m).parts = s.parts := rfl
@[simp] theorem emit_sqc (s : State) (m : Out) : (emit s m).sqc = s.sqc := rfl
@[simp] theorem emit_found (s : State) (m : Out) : (emit s m).found = s.found := rfl
@[simp] theorem emit_brought (s : State) (m : Out) : (emit s m).brought = s.brought := rfl
@[simp] theorem emit_uses (s : State) (m : Out) : (emit s m).uses = s.uses := rfl
@[simp] theorem emit_sieves (s : State) (m : Out) : (emit s m).sieves = s.sieves := rfl
@[simp] theorem emit_bells (s : State) (m : Out) : (emit s m).bells = s.bells := rfl
@[simp] theorem emit_bellQ (s : State) (m : Out) : (emit s m).bellQ = s.bellQ := rfl
@[simp] theorem emit_sems (s : State) (m : Out) : (emit s m).sems = s.sems := rfl
@[simp] theorem emit_semQ (s : State) (m : Out) : (emit s m).semQ = s.semQ := rfl
@[simp] theorem emit_ports (s : State) (m : Out) : (emit s m).ports = s.ports := rfl
@[simp] theorem emit_reeves (s : State) (m : Out) : (emit s m).reeves = s.reeves := rfl
@[simp] theorem emit_reeveMem (s : State) (m : Out) : (emit s m).reeveMem = s.reeveMem := rfl
@[simp] theorem emit_reeveErr (s : State) (m : Out) : (emit s m).reeveErr = s.reeveErr := rfl
@[simp] theorem emit_fwMem (s : State) (m : Out) : (emit s m).fwMem = s.fwMem := rfl
@[simp] theorem emit_fwErr (s : State) (m : Out) : (emit s m).fwErr = s.fwErr := rfl
@[simp] theorem emit_queues (s : State) (m : Out) : (emit s m).queues = s.queues := rfl
@[simp] theorem emit_cmds (s : State) (m : Out) : (emit s m).cmds = s.cmds := rfl
@[simp] theorem emit_nextCmd (s : State) (m : Out) : (emit s m).nextCmd = s.nextCmd := rfl
@[simp] theorem emit_nextOrd (s : State) (m : Out) : (emit s m).nextOrd = s.nextOrd := rfl
@[simp] theorem emit_twin (s : State) (m : Out) : (emit s m).twin = s.twin := rfl
@[simp] theorem emit_dev (s : State) (m : Out) : (emit s m).dev = s.dev := rfl
@[simp] theorem emit_ctr (s : State) (m : Out) : (emit s m).ctr = s.ctr := rfl
@[simp] theorem emit_elog (s : State) (m : Out) : (emit s m).elog = s.elog := rfl
@[simp] theorem emit_elogN (s : State) (m : Out) : (emit s m).elogN = s.elogN := rfl
@[simp] theorem emit_sqBucket (s : State) (m : Out) : (emit s m).sqBucket = s.sqBucket := rfl
@[simp] theorem emit_floor (s : State) (m : Out) : (emit s m).floor = s.floor := rfl
@[simp] theorem emit_therm (s : State) (m : Out) : (emit s m).therm = s.therm := rfl
@[simp] theorem emit_i3c (s : State) (m : Out) : (emit s m).i3c = s.i3c := rfl
@[simp] theorem emit_sec (s : State) (m : Out) : (emit s m).sec = s.sec := rfl

/-! ### What an update writes -/

@[simp] theorem setCroft_croft_self (s : State) (k : Nat) (x : Croft) : (setCroft s k x).croft k = x := tget_tset_self _ _ _ _
theorem setCroft_croft_ne (s : State) (k j : Nat) (x : Croft) (h : j ≠ k) : (setCroft s k x).croft j = s.croft j := tget_tset_ne _ _ _ _ _ h
theorem setCroft_croft (s : State) (k j : Nat) (x : Croft) : (setCroft s k x).croft j = if j = k then x else s.croft j := tget_tset _ _ _ _ _
@[simp] theorem setCroft_setCroft (s : State) (k : Nat) (x y : Croft) : setCroft (setCroft s k x) k y = setCroft s k y := by simp [setCroft]
@[simp] theorem setCroft_slice_of (s : State) (k j : Nat) (x : Croft) : (setCroft s k x).slice j = s.slice j := rfl
@[simp] theorem setCroft_part_of (s : State) (k j : Nat) (x : Croft) : (setCroft s k x).part j = s.part j := rfl
@[simp] theorem setCroft_queue_of (s : State) (k j : Nat) (x : Croft) : (setCroft s k x).queue j = s.queue j := rfl
@[simp] theorem setCroft_port_of (s : State) (k j : Nat) (x : Croft) : (setCroft s k x).port j = s.port j := rfl
@[simp] theorem setCroft_ses_of (s : State) (k j : Nat) (x : Croft) : (setCroft s k x).ses j = s.ses j := rfl
@[simp] theorem setCroft_reeve_of (s : State) (k j : Nat) (x : Croft) : (setCroft s k x).reeve j = s.reeve j := rfl
@[simp] theorem setCroft_sieve_of (s : State) (k j : Nat) (x : Croft) : (setCroft s k x).sieve j = s.sieve j := rfl

@[simp] theorem setSlice_slice_self (s : State) (k : Nat) (x : Slice) : (setSlice s k x).slice k = x := tget_tset_self _ _ _ _
theorem setSlice_slice_ne (s : State) (k j : Nat) (x : Slice) (h : j ≠ k) : (setSlice s k x).slice j = s.slice j := tget_tset_ne _ _ _ _ _ h
theorem setSlice_slice (s : State) (k j : Nat) (x : Slice) : (setSlice s k x).slice j = if j = k then x else s.slice j := tget_tset _ _ _ _ _
@[simp] theorem setSlice_setSlice (s : State) (k : Nat) (x y : Slice) : setSlice (setSlice s k x) k y = setSlice s k y := by simp [setSlice]
@[simp] theorem setSlice_croft_of (s : State) (k j : Nat) (x : Slice) : (setSlice s k x).croft j = s.croft j := rfl
@[simp] theorem setSlice_part_of (s : State) (k j : Nat) (x : Slice) : (setSlice s k x).part j = s.part j := rfl
@[simp] theorem setSlice_queue_of (s : State) (k j : Nat) (x : Slice) : (setSlice s k x).queue j = s.queue j := rfl
@[simp] theorem setSlice_port_of (s : State) (k j : Nat) (x : Slice) : (setSlice s k x).port j = s.port j := rfl
@[simp] theorem setSlice_ses_of (s : State) (k j : Nat) (x : Slice) : (setSlice s k x).ses j = s.ses j := rfl
@[simp] theorem setSlice_reeve_of (s : State) (k j : Nat) (x : Slice) : (setSlice s k x).reeve j = s.reeve j := rfl
@[simp] theorem setSlice_sieve_of (s : State) (k j : Nat) (x : Slice) : (setSlice s k x).sieve j = s.sieve j := rfl

@[simp] theorem setPart_part_self (s : State) (k : Nat) (x : Part) : (setPart s k x).part k = x := tget_tset_self _ _ _ _
theorem setPart_part_ne (s : State) (k j : Nat) (x : Part) (h : j ≠ k) : (setPart s k x).part j = s.part j := tget_tset_ne _ _ _ _ _ h
theorem setPart_part (s : State) (k j : Nat) (x : Part) : (setPart s k x).part j = if j = k then x else s.part j := tget_tset _ _ _ _ _
@[simp] theorem setPart_setPart (s : State) (k : Nat) (x y : Part) : setPart (setPart s k x) k y = setPart s k y := by simp [setPart]
@[simp] theorem setPart_croft_of (s : State) (k j : Nat) (x : Part) : (setPart s k x).croft j = s.croft j := rfl
@[simp] theorem setPart_slice_of (s : State) (k j : Nat) (x : Part) : (setPart s k x).slice j = s.slice j := rfl
@[simp] theorem setPart_queue_of (s : State) (k j : Nat) (x : Part) : (setPart s k x).queue j = s.queue j := rfl
@[simp] theorem setPart_port_of (s : State) (k j : Nat) (x : Part) : (setPart s k x).port j = s.port j := rfl
@[simp] theorem setPart_ses_of (s : State) (k j : Nat) (x : Part) : (setPart s k x).ses j = s.ses j := rfl
@[simp] theorem setPart_reeve_of (s : State) (k j : Nat) (x : Part) : (setPart s k x).reeve j = s.reeve j := rfl
@[simp] theorem setPart_sieve_of (s : State) (k j : Nat) (x : Part) : (setPart s k x).sieve j = s.sieve j := rfl

@[simp] theorem setQueue_queue_self (s : State) (k : Nat) (x : Queue) : (setQueue s k x).queue k = x := tget_tset_self _ _ _ _
theorem setQueue_queue_ne (s : State) (k j : Nat) (x : Queue) (h : j ≠ k) : (setQueue s k x).queue j = s.queue j := tget_tset_ne _ _ _ _ _ h
theorem setQueue_queue (s : State) (k j : Nat) (x : Queue) : (setQueue s k x).queue j = if j = k then x else s.queue j := tget_tset _ _ _ _ _
@[simp] theorem setQueue_setQueue (s : State) (k : Nat) (x y : Queue) : setQueue (setQueue s k x) k y = setQueue s k y := by simp [setQueue]
@[simp] theorem setQueue_croft_of (s : State) (k j : Nat) (x : Queue) : (setQueue s k x).croft j = s.croft j := rfl
@[simp] theorem setQueue_slice_of (s : State) (k j : Nat) (x : Queue) : (setQueue s k x).slice j = s.slice j := rfl
@[simp] theorem setQueue_part_of (s : State) (k j : Nat) (x : Queue) : (setQueue s k x).part j = s.part j := rfl
@[simp] theorem setQueue_port_of (s : State) (k j : Nat) (x : Queue) : (setQueue s k x).port j = s.port j := rfl
@[simp] theorem setQueue_ses_of (s : State) (k j : Nat) (x : Queue) : (setQueue s k x).ses j = s.ses j := rfl
@[simp] theorem setQueue_reeve_of (s : State) (k j : Nat) (x : Queue) : (setQueue s k x).reeve j = s.reeve j := rfl
@[simp] theorem setQueue_sieve_of (s : State) (k j : Nat) (x : Queue) : (setQueue s k x).sieve j = s.sieve j := rfl

@[simp] theorem setPort_port_self (s : State) (k : Nat) (x : Port) : (setPort s k x).port k = x := tget_tset_self _ _ _ _
theorem setPort_port_ne (s : State) (k j : Nat) (x : Port) (h : j ≠ k) : (setPort s k x).port j = s.port j := tget_tset_ne _ _ _ _ _ h
theorem setPort_port (s : State) (k j : Nat) (x : Port) : (setPort s k x).port j = if j = k then x else s.port j := tget_tset _ _ _ _ _
@[simp] theorem setPort_setPort (s : State) (k : Nat) (x y : Port) : setPort (setPort s k x) k y = setPort s k y := by simp [setPort]
@[simp] theorem setPort_croft_of (s : State) (k j : Nat) (x : Port) : (setPort s k x).croft j = s.croft j := rfl
@[simp] theorem setPort_slice_of (s : State) (k j : Nat) (x : Port) : (setPort s k x).slice j = s.slice j := rfl
@[simp] theorem setPort_part_of (s : State) (k j : Nat) (x : Port) : (setPort s k x).part j = s.part j := rfl
@[simp] theorem setPort_queue_of (s : State) (k j : Nat) (x : Port) : (setPort s k x).queue j = s.queue j := rfl
@[simp] theorem setPort_ses_of (s : State) (k j : Nat) (x : Port) : (setPort s k x).ses j = s.ses j := rfl
@[simp] theorem setPort_reeve_of (s : State) (k j : Nat) (x : Port) : (setPort s k x).reeve j = s.reeve j := rfl
@[simp] theorem setPort_sieve_of (s : State) (k j : Nat) (x : Port) : (setPort s k x).sieve j = s.sieve j := rfl

@[simp] theorem setSes_ses_self (s : State) (k : Nat) (x : Sess) : (setSes s k x).ses k = x := tget_tset_self _ _ _ _
theorem setSes_ses_ne (s : State) (k j : Nat) (x : Sess) (h : j ≠ k) : (setSes s k x).ses j = s.ses j := tget_tset_ne _ _ _ _ _ h
theorem setSes_ses (s : State) (k j : Nat) (x : Sess) : (setSes s k x).ses j = if j = k then x else s.ses j := tget_tset _ _ _ _ _
@[simp] theorem setSes_setSes (s : State) (k : Nat) (x y : Sess) : setSes (setSes s k x) k y = setSes s k y := by simp [setSes]
@[simp] theorem setSes_croft_of (s : State) (k j : Nat) (x : Sess) : (setSes s k x).croft j = s.croft j := rfl
@[simp] theorem setSes_slice_of (s : State) (k j : Nat) (x : Sess) : (setSes s k x).slice j = s.slice j := rfl
@[simp] theorem setSes_part_of (s : State) (k j : Nat) (x : Sess) : (setSes s k x).part j = s.part j := rfl
@[simp] theorem setSes_queue_of (s : State) (k j : Nat) (x : Sess) : (setSes s k x).queue j = s.queue j := rfl
@[simp] theorem setSes_port_of (s : State) (k j : Nat) (x : Sess) : (setSes s k x).port j = s.port j := rfl
@[simp] theorem setSes_reeve_of (s : State) (k j : Nat) (x : Sess) : (setSes s k x).reeve j = s.reeve j := rfl
@[simp] theorem setSes_sieve_of (s : State) (k j : Nat) (x : Sess) : (setSes s k x).sieve j = s.sieve j := rfl

@[simp] theorem setReeve_reeve_self (s : State) (k : Nat) (x : ReeveSt) : (setReeve s k x).reeve k = x := tget_tset_self _ _ _ _
theorem setReeve_reeve_ne (s : State) (k j : Nat) (x : ReeveSt) (h : j ≠ k) : (setReeve s k x).reeve j = s.reeve j := tget_tset_ne _ _ _ _ _ h
theorem setReeve_reeve (s : State) (k j : Nat) (x : ReeveSt) : (setReeve s k x).reeve j = if j = k then x else s.reeve j := tget_tset _ _ _ _ _
@[simp] theorem setReeve_setReeve (s : State) (k : Nat) (x y : ReeveSt) : setReeve (setReeve s k x) k y = setReeve s k y := by simp [setReeve]
@[simp] theorem setReeve_croft_of (s : State) (k j : Nat) (x : ReeveSt) : (setReeve s k x).croft j = s.croft j := rfl
@[simp] theorem setReeve_slice_of (s : State) (k j : Nat) (x : ReeveSt) : (setReeve s k x).slice j = s.slice j := rfl
@[simp] theorem setReeve_part_of (s : State) (k j : Nat) (x : ReeveSt) : (setReeve s k x).part j = s.part j := rfl
@[simp] theorem setReeve_queue_of (s : State) (k j : Nat) (x : ReeveSt) : (setReeve s k x).queue j = s.queue j := rfl
@[simp] theorem setReeve_port_of (s : State) (k j : Nat) (x : ReeveSt) : (setReeve s k x).port j = s.port j := rfl
@[simp] theorem setReeve_ses_of (s : State) (k j : Nat) (x : ReeveSt) : (setReeve s k x).ses j = s.ses j := rfl
@[simp] theorem setReeve_sieve_of (s : State) (k j : Nat) (x : ReeveSt) : (setReeve s k x).sieve j = s.sieve j := rfl

@[simp] theorem setSieve_sieve_self (s : State) (k : Nat) (x : SieveSt) : (setSieve s k x).sieve k = x := tget_tset_self _ _ _ _
theorem setSieve_sieve_ne (s : State) (k j : Nat) (x : SieveSt) (h : j ≠ k) : (setSieve s k x).sieve j = s.sieve j := tget_tset_ne _ _ _ _ _ h
theorem setSieve_sieve (s : State) (k j : Nat) (x : SieveSt) : (setSieve s k x).sieve j = if j = k then x else s.sieve j := tget_tset _ _ _ _ _
@[simp] theorem setSieve_setSieve (s : State) (k : Nat) (x y : SieveSt) : setSieve (setSieve s k x) k y = setSieve s k y := by simp [setSieve]
@[simp] theorem setSieve_croft_of (s : State) (k j : Nat) (x : SieveSt) : (setSieve s k x).croft j = s.croft j := rfl
@[simp] theorem setSieve_slice_of (s : State) (k j : Nat) (x : SieveSt) : (setSieve s k x).slice j = s.slice j := rfl
@[simp] theorem setSieve_part_of (s : State) (k j : Nat) (x : SieveSt) : (setSieve s k x).part j = s.part j := rfl
@[simp] theorem setSieve_queue_of (s : State) (k j : Nat) (x : SieveSt) : (setSieve s k x).queue j = s.queue j := rfl
@[simp] theorem setSieve_port_of (s : State) (k j : Nat) (x : SieveSt) : (setSieve s k x).port j = s.port j := rfl
@[simp] theorem setSieve_ses_of (s : State) (k j : Nat) (x : SieveSt) : (setSieve s k x).ses j = s.ses j := rfl
@[simp] theorem setSieve_reeve_of (s : State) (k j : Nat) (x : SieveSt) : (setSieve s k x).reeve j = s.reeve j := rfl

@[simp] theorem bump_croft_of (s : State) (k n : Nat) (j : Nat) : (bump s k n).croft j = s.croft j := rfl
@[simp] theorem bump_slice_of (s : State) (k n : Nat) (j : Nat) : (bump s k n).slice j = s.slice j := rfl
@[simp] theorem bump_part_of (s : State) (k n : Nat) (j : Nat) : (bump s k n).part j = s.part j := rfl
@[simp] theorem bump_queue_of (s : State) (k n : Nat) (j : Nat) : (bump s k n).queue j = s.queue j := rfl
@[simp] theorem bump_port_of (s : State) (k n : Nat) (j : Nat) : (bump s k n).port j = s.port j := rfl
@[simp] theorem bump_ses_of (s : State) (k n : Nat) (j : Nat) : (bump s k n).ses j = s.ses j := rfl
@[simp] theorem bump_reeve_of (s : State) (k n : Nat) (j : Nat) : (bump s k n).reeve j = s.reeve j := rfl
@[simp] theorem bump_sieve_of (s : State) (k n : Nat) (j : Nat) : (bump s k n).sieve j = s.sieve j := rfl
@[simp] theorem unbump_croft_of (s : State) (k n : Nat) (j : Nat) : (unbump s k n).croft j = s.croft j := rfl
@[simp] theorem unbump_slice_of (s : State) (k n : Nat) (j : Nat) : (unbump s k n).slice j = s.slice j := rfl
@[simp] theorem unbump_part_of (s : State) (k n : Nat) (j : Nat) : (unbump s k n).part j = s.part j := rfl
@[simp] theorem unbump_queue_of (s : State) (k n : Nat) (j : Nat) : (unbump s k n).queue j = s.queue j := rfl
@[simp] theorem unbump_port_of (s : State) (k n : Nat) (j : Nat) : (unbump s k n).port j = s.port j := rfl
@[simp] theorem unbump_ses_of (s : State) (k n : Nat) (j : Nat) : (unbump s k n).ses j = s.ses j := rfl
@[simp] theorem unbump_reeve_of (s : State) (k n : Nat) (j : Nat) : (unbump s k n).reeve j = s.reeve j := rfl
@[simp] theorem unbump_sieve_of (s : State) (k n : Nat) (j : Nat) : (unbump s k n).sieve j = s.sieve j := rfl
@[simp] theorem drew_croft_of (s : State) (j : Nat) : (drew s).croft j = s.croft j := rfl
@[simp] theorem drew_slice_of (s : State) (j : Nat) : (drew s).slice j = s.slice j := rfl
@[simp] theorem drew_part_of (s : State) (j : Nat) : (drew s).part j = s.part j := rfl
@[simp] theorem drew_queue_of (s : State) (j : Nat) : (drew s).queue j = s.queue j := rfl
@[simp] theorem drew_port_of (s : State) (j : Nat) : (drew s).port j = s.port j := rfl
@[simp] theorem drew_ses_of (s : State) (j : Nat) : (drew s).ses j = s.ses j := rfl
@[simp] theorem drew_reeve_of (s : State) (j : Nat) : (drew s).reeve j = s.reeve j := rfl
@[simp] theorem drew_sieve_of (s : State) (j : Nat) : (drew s).sieve j = s.sieve j := rfl
@[simp] theorem emit_croft_of (s : State) (m : Out) (j : Nat) : (emit s m).croft j = s.croft j := rfl
@[simp] theorem emit_slice_of (s : State) (m : Out) (j : Nat) : (emit s m).slice j = s.slice j := rfl
@[simp] theorem emit_part_of (s : State) (m : Out) (j : Nat) : (emit s m).part j = s.part j := rfl
@[simp] theorem emit_queue_of (s : State) (m : Out) (j : Nat) : (emit s m).queue j = s.queue j := rfl
@[simp] theorem emit_port_of (s : State) (m : Out) (j : Nat) : (emit s m).port j = s.port j := rfl
@[simp] theorem emit_ses_of (s : State) (m : Out) (j : Nat) : (emit s m).ses j = s.ses j := rfl
@[simp] theorem emit_reeve_of (s : State) (m : Out) (j : Nat) : (emit s m).reeve j = s.reeve j := rfl
@[simp] theorem emit_sieve_of (s : State) (m : Out) (j : Nat) : (emit s m).sieve j = s.sieve j := rfl

/-- A counter after it is bumped. -/
theorem bump_ctr (s : State) (k n j : Nat) : tget zeroN (bump s k n).ctr j = if j = k then tget zeroN s.ctr k + n else tget zeroN s.ctr j :=
  tget_tset _ _ _ _ _

@[simp] theorem drew_free (s : State) : (drew s).free = s.free + 1 := rfl

@[simp] theorem emit_out (s : State) (m : Out) : (emit s m).link.out = m :: s.link.out := rfl

/-! ### Contexts -/

@[simp] theorem Croft.setCtx_ctx (x : Croft) (e : Fin 2) (y : Ctx) : (x.setCtx e y).ctx e = y := by
  unfold Croft.setCtx Croft.ctx
  split <;> rfl

theorem Croft.setCtx_ctx_ne (x : Croft) (e e' : Fin 2) (y : Ctx) (h : e' ≠ e) : (x.setCtx e y).ctx e' = x.ctx e' := by
  unfold Croft.setCtx Croft.ctx
  have h1 : (e' : Nat) ≠ e := fun he => h (Fin.ext he)
  rcases e with ⟨e, he⟩
  rcases e' with ⟨e', he'⟩
  simp only at h1
  split <;> split <;> first | rfl | omega

@[simp] theorem Croft.setCtx_setCtx (x : Croft) (e : Nat) (y z : Ctx) : (x.setCtx e y).setCtx e z = x.setCtx e z := by
  unfold Croft.setCtx
  split <;> rfl

@[simp] theorem setCtx_ctx (s : State) (c : CtxId) (y : Ctx) : (setCtx s c y).ctx c = y := by
  simp [setCtx, modCroft, State.ctx]

@[simp] theorem setCtx_setCtx (s : State) (c : CtxId) (y z : Ctx) : setCtx (setCtx s c y) c z = setCtx s c z := by
  simp [setCtx, modCroft]

/-- Every other context is as before. -/
theorem setCtx_ctx_ne (s : State) (c c' : CtxId) (y : Ctx) (h : c' ≠ c) : (setCtx s c y).ctx c' = s.ctx c' := by
  simp only [setCtx, modCroft, State.ctx, setCroft_croft]
  split
  · rename_i hp
    have : c'.e ≠ c.e := fun he => h (by
      obtain ⟨p, e⟩ := c
      obtain ⟨p', e'⟩ := c'
      simp only at hp he
      simp only [CtxId.mk.injEq]
      exact ⟨Fin.ext hp, he⟩)
    rw [Croft.setCtx_ctx_ne _ _ _ _ this, hp]
  · rfl

theorem modCtx_eq (s : State) (c : CtxId) (f : Ctx → Ctx) : modCtx s c f = setCtx s c (f (s.ctx c)) := rfl

/-- A register after it is written. -/
theorem Ctx.reg_setReg (x : Ctx) (i j : Nat) (v : Word) : (x.setReg i v).reg j = if j = i then v else x.reg j := tget_tset _ _ _ _ _

@[simp] theorem Ctx.setReg_run (x : Ctx) (i : Nat) (v : Word) : (x.setReg i v).run = x.run := rfl
@[simp] theorem Ctx.setReg_lc (x : Ctx) (i : Nat) (v : Word) : (x.setReg i v).lc = x.lc := rfl
@[simp] theorem Ctx.setReg_n (x : Ctx) (i : Nat) (v : Word) : (x.setReg i v).n = x.n := rfl
@[simp] theorem Ctx.setReg_pos (x : Ctx) (i : Nat) (v : Word) : (x.setReg i v).pos = x.pos := rfl
@[simp] theorem Ctx.setReg_count (x : Ctx) (i : Nat) (v : Word) : (x.setReg i v).count = x.count := rfl
@[simp] theorem Ctx.setReg_base (x : Ctx) (i : Nat) (v : Word) : (x.setReg i v).base = x.base := rfl
@[simp] theorem Ctx.setReg_gend (x : Ctx) (i : Nat) (v : Word) : (x.setReg i v).gend = x.gend := rfl
@[simp] theorem Ctx.setReg_inCroft (x : Ctx) (i : Nat) (v : Word) : (x.setReg i v).inCroft = x.inCroft := rfl
@[simp] theorem Ctx.setReg_ended (x : Ctx) (i : Nat) (v : Word) : (x.setReg i v).ended = x.ended := rfl
@[simp] theorem Ctx.setReg_flags (x : Ctx) (i : Nat) (v : Word) : (x.setReg i v).flags = x.flags := rfl
@[simp] theorem Ctx.setReg_sat (x : Ctx) (i : Nat) (v : Word) : (x.setReg i v).sat = x.sat := rfl
@[simp] theorem Ctx.setReg_args (x : Ctx) (i : Nat) (v : Word) : (x.setReg i v).args = x.args := rfl
@[simp] theorem Ctx.setReg_wait (x : Ctx) (i : Nat) (v : Word) : (x.setReg i v).wait = x.wait := rfl
@[simp] theorem Ctx.setReg_since (x : Ctx) (i : Nat) (v : Word) : (x.setReg i v).since = x.since := rfl
@[simp] theorem Ctx.setReg_held (x : Ctx) (i : Nat) (v : Word) : (x.setReg i v).held = x.held := rfl
@[simp] theorem Ctx.setReg_locked (x : Ctx) (i : Nat) (v : Word) : (x.setReg i v).locked = x.locked := rfl
@[simp] theorem Ctx.setReg_seq (x : Ctx) (i : Nat) (v : Word) : (x.setReg i v).seq = x.seq := rfl
@[simp] theorem Ctx.setReg_unacked (x : Ctx) (i : Nat) (v : Word) : (x.setReg i v).unacked = x.unacked := rfl
@[simp] theorem Ctx.setReg_retired (x : Ctx) (i : Nat) (v : Word) : (x.setReg i v).retired = x.retired := rfl
@[simp] theorem Ctx.setReg_rounds (x : Ctx) (i : Nat) (v : Word) : (x.setReg i v).rounds = x.rounds := rfl
@[simp] theorem Ctx.setReg_colls (x : Ctx) (i : Nat) (v : Word) : (x.setReg i v).colls = x.colls := rfl
@[simp] theorem Ctx.setReg_bars (x : Ctx) (i : Nat) (v : Word) : (x.setReg i v).bars = x.bars := rfl
@[simp] theorem Ctx.setReg_cause (x : Ctx) (i : Nat) (v : Word) : (x.setReg i v).cause = x.cause := rfl
@[simp] theorem Ctx.setReg_causeAt (x : Ctx) (i : Nat) (v : Word) : (x.setReg i v).causeAt = x.causeAt := rfl
@[simp] theorem Croft.setCtx_engines (x : Croft) (e : Nat) (y : Ctx) : (x.setCtx e y).engines = x.engines := by
  unfold Croft.setCtx; split <;> rfl
@[simp] theorem Croft.setCtx_nextId (x : Croft) (e : Nat) (y : Ctx) : (x.setCtx e y).nextId = x.nextId := by
  unfold Croft.setCtx; split <;> rfl
@[simp] theorem Croft.setCtx_mma (x : Croft) (e : Nat) (y : Ctx) : (x.setCtx e y).mma = x.mma := by
  unfold Croft.setCtx; split <;> rfl
@[simp] theorem Croft.setCtx_front (x : Croft) (e : Nat) (y : Ctx) : (x.setCtx e y).front = x.front := by
  unfold Croft.setCtx; split <;> rfl
@[simp] theorem Croft.setCtx_back (x : Croft) (e : Nat) (y : Ctx) : (x.setCtx e y).back = x.back := by
  unfold Croft.setCtx; split <;> rfl
@[simp] theorem Croft.setCtx_pipe (x : Croft) (e : Nat) (y : Ctx) : (x.setCtx e y).pipe = x.pipe := by
  unfold Croft.setCtx; split <;> rfl
@[simp] theorem Croft.setCtx_chunkOrd (x : Croft) (e : Nat) (y : Ctx) : (x.setCtx e y).chunkOrd = x.chunkOrd := by
  unfold Croft.setCtx; split <;> rfl
@[simp] theorem Croft.setCtx_seqAt (x : Croft) (e : Nat) (y : Ctx) : (x.setCtx e y).seqAt = x.seqAt := by
  unfold Croft.setCtx; split <;> rfl
@[simp] theorem Croft.setCtx_loadAt (x : Croft) (e : Nat) (y : Ctx) : (x.setCtx e y).loadAt = x.loadAt := by
  unfold Croft.setCtx; split <;> rfl
@[simp] theorem Croft.setCtx_setA (x : Croft) (e : Nat) (y : Ctx) : (x.setCtx e y).setA = x.setA := by
  unfold Croft.setCtx; split <;> rfl
@[simp] theorem Croft.setCtx_setB (x : Croft) (e : Nat) (y : Ctx) : (x.setCtx e y).setB = x.setB := by
  unfold Croft.setCtx; split <;> rfl
@[simp] theorem Croft.setCtx_acc (x : Croft) (e : Nat) (y : Ctx) : (x.setCtx e y).acc = x.acc := by
  unfold Croft.setCtx; split <;> rfl
@[simp] theorem Croft.setCtx_accBad (x : Croft) (e : Nat) (y : Ctx) : (x.setCtx e y).accBad = x.accBad := by
  unfold Croft.setCtx; split <;> rfl
@[simp] theorem Croft.setCtx_hold (x : Croft) (e : Nat) (y : Ctx) : (x.setCtx e y).hold = x.hold := by
  unfold Croft.setCtx; split <;> rfl
@[simp] theorem Croft.setCtx_badLanes (x : Croft) (e : Nat) (y : Ctx) : (x.setCtx e y).badLanes = x.badLanes := by
  unfold Croft.setCtx; split <;> rfl
@[simp] theorem Croft.setCtx_rot (x : Croft) (e : Nat) (y : Ctx) : (x.setCtx e y).rot = x.rot := by
  unfold Croft.setCtx; split <;> rfl
@[simp] theorem Croft.setCtx_pendRot (x : Croft) (e : Nat) (y : Ctx) : (x.setCtx e y).pendRot = x.pendRot := by
  unfold Croft.setCtx; split <;> rfl
@[simp] theorem Croft.setCtx_rotLate (x : Croft) (e : Nat) (y : Ctx) : (x.setCtx e y).rotLate = x.rotLate := by
  unfold Croft.setCtx; split <;> rfl
@[simp] theorem Croft.setCtx_pendBad (x : Croft) (e : Nat) (y : Ctx) : (x.setCtx e y).pendBad = x.pendBad := by
  unfold Croft.setCtx; split <;> rfl
@[simp] theorem Croft.setCtx_mhz (x : Croft) (e : Nat) (y : Ctx) : (x.setCtx e y).mhz = x.mhz := by
  unfold Croft.setCtx; split <;> rfl
@[simp] theorem Croft.setCtx_stepAt (x : Croft) (e : Nat) (y : Ctx) : (x.setCtx e y).stepAt = x.stepAt := by
  unfold Croft.setCtx; split <;> rfl
@[simp] theorem Croft.setCtx_stretch (x : Croft) (e : Nat) (y : Ctx) : (x.setCtx e y).stretch = x.stretch := by
  unfold Croft.setCtx; split <;> rfl
@[simp] theorem Croft.setCtx_droopThr (x : Croft) (e : Nat) (y : Ctx) : (x.setCtx e y).droopThr = x.droopThr := by
  unfold Croft.setCtx; split <;> rfl
@[simp] theorem Croft.setCtx_droopAt (x : Croft) (e : Nat) (y : Ctx) : (x.setCtx e y).droopAt = x.droopAt := by
  unfold Croft.setCtx; split <;> rfl
@[simp] theorem Croft.setCtx_testAt (x : Croft) (e : Nat) (y : Ctx) : (x.setCtx e y).testAt = x.testAt := by
  unfold Croft.setCtx; split <;> rfl
@[simp] theorem Croft.setCtx_overdue (x : Croft) (e : Nat) (y : Ctx) : (x.setCtx e y).overdue = x.overdue := by
  unfold Croft.setCtx; split <;> rfl
@[simp] theorem Croft.setCtx_heater (x : Croft) (e : Nat) (y : Ctx) : (x.setCtx e y).heater = x.heater := by
  unfold Croft.setCtx; split <;> rfl
@[simp] theorem Croft.setCtx_heatAt (x : Croft) (e : Nat) (y : Ctx) : (x.setCtx e y).heatAt = x.heatAt := by
  unfold Croft.setCtx; split <;> rfl
@[simp] theorem Croft.setCtx_cstate (x : Croft) (e : Nat) (y : Ctx) : (x.setCtx e y).cstate = x.cstate := by
  unfold Croft.setCtx; split <;> rfl
@[simp] theorem Croft.setCtx_fused (x : Croft) (e : Nat) (y : Ctx) : (x.setCtx e y).fused = x.fused := by
  unfold Croft.setCtx; split <;> rfl
@[simp] theorem Croft.setCtx_testFail (x : Croft) (e : Nat) (y : Ctx) : (x.setCtx e y).testFail = x.testFail := by
  unfold Croft.setCtx; split <;> rfl
@[simp] theorem Croft.setCtx_svcFail (x : Croft) (e : Nat) (y : Ctx) : (x.setCtx e y).svcFail = x.svcFail := by
  unfold Croft.setCtx; split <;> rfl
@[simp] theorem Croft.setCtx_mig (x : Croft) (e : Nat) (y : Ctx) : (x.setCtx e y).mig = x.mig := by
  unfold Croft.setCtx; split <;> rfl
@[simp] theorem Croft.setCtx_inPart (x : Croft) (e : Nat) (y : Ctx) : (x.setCtx e y).inPart = x.inPart := by
  unfold Croft.setCtx; split <;> rfl
@[simp] theorem Croft.setCtx_part (x : Croft) (e : Nat) (y : Ctx) : (x.setCtx e y).part = x.part := by
  unfold Croft.setCtx; split <;> rfl
@[simp] theorem Croft.setCtx_pidx (x : Croft) (e : Nat) (y : Ctx) : (x.setCtx e y).pidx = x.pidx := by
  unfold Croft.setCtx; split <;> rfl
@[simp] theorem Croft.setCtx_partner (x : Croft) (e : Nat) (y : Ctx) : (x.setCtx e y).partner = x.partner := by
  unfold Croft.setCtx; split <;> rfl
@[simp] theorem Croft.setCtx_migRow (x : Croft) (e : Nat) (y : Ctx) : (x.setCtx e y).migRow = x.migRow := by
  unfold Croft.setCtx; split <;> rfl
@[simp] theorem Croft.setCtx_dirty (x : Croft) (e : Nat) (y : Ctx) : (x.setCtx e y).dirty = x.dirty := by
  unfold Croft.setCtx; split <;> rfl
@[simp] theorem Croft.setCtx_remote (x : Croft) (e : Nat) (y : Ctx) : (x.setCtx e y).remote = x.remote := by
  unfold Croft.setCtx; split <;> rfl
@[simp] theorem setCtx_pending (s : State) (c : CtxId) (y : Ctx) : (setCtx s c y).pending = s.pending := rfl
@[simp] theorem setCtx_now (s : State) (c : CtxId) (y : Ctx) : (setCtx s c y).now = s.now := rfl
@[simp] theorem setCtx_free (s : State) (c : CtxId) (y : Ctx) : (setCtx s c y).free = s.free := rfl
@[simp] theorem setCtx_boot (s : State) (c : CtxId) (y : Ctx) : (setCtx s c y).boot = s.boot := rfl
@[simp] theorem setCtx_fuses (s : State) (c : CtxId) (y : Ctx) : (setCtx s c y).fuses = s.fuses := rfl
@[simp] theorem setCtx_eeprom (s : State) (c : CtxId) (y : Ctx) : (setCtx s c y).eeprom = s.eeprom := rfl
@[simp] theorem setCtx_ls (s : State) (c : CtxId) (y : Ctx) : (setCtx s c y).ls = s.ls := rfl
@[simp] theorem setCtx_lsPoison (s : State) (c : CtxId) (y : Ctx) : (setCtx s c y).lsPoison = s.lsPoison := rfl
@[simp] theorem setCtx_lsTaint (s : State) (c : CtxId) (y : Ctx) : (setCtx s c y).lsTaint = s.lsTaint := rfl
@[simp] theorem setCtx_lsErr (s : State) (c : CtxId) (y : Ctx) : (setCtx s c y).lsErr = s.lsErr := rfl
@[simp] theorem setCtx_slices (s : State) (c : CtxId) (y : Ctx) : (setCtx s c y).slices = s.slices := rfl
@[simp] theorem setCtx_mem (s : State) (c : CtxId) (y : Ctx) : (setCtx s c y).mem = s.mem := rfl
@[simp] theorem setCtx_undef (s : State) (c : CtxId) (y : Ctx) : (setCtx s c y).undef = s.undef := rfl
@[simp] theorem setCtx_shards (s : State) (c : CtxId) (y : Ctx) : (setCtx s c y).shards = s.shards := rfl
@[simp] theorem setCtx_sess (s : State) (c : CtxId) (y : Ctx) : (setCtx s c y).sess = s.sess := rfl
@[simp] theorem setCtx_ptab (s : State) (c : CtxId) (y : Ctx) : (setCtx s c y).ptab = s.ptab := rfl
@[simp] theorem setCtx_parts (s : State) (c : CtxId) (y : Ctx) : (setCtx s c y).parts = s.parts := rfl
@[simp] theorem setCtx_sqc (s : State) (c : CtxId) (y : Ctx) : (setCtx s c y).sqc = s.sqc := rfl
@[simp] theorem setCtx_found (s : State) (c : CtxId) (y : Ctx) : (setCtx s c y).found = s.found := rfl
@[simp] theorem setCtx_brought (s : State) (c : CtxId) (y : Ctx) : (setCtx s c y).brought = s.brought := rfl
@[simp] theorem setCtx_uses (s : State) (c : CtxId) (y : Ctx) : (setCtx s c y).uses = s.uses := rfl
@[simp] theorem setCtx_sieves (s : State) (c : CtxId) (y : Ctx) : (setCtx s c y).sieves = s.sieves := rfl
@[simp] theorem setCtx_bells (s : State) (c : CtxId) (y : Ctx) : (setCtx s c y).bells = s.bells := rfl
@[simp] theorem setCtx_bellQ (s : State) (c : CtxId) (y : Ctx) : (setCtx s c y).bellQ = s.bellQ := rfl
@[simp] theorem setCtx_sems (s : State) (c : CtxId) (y : Ctx) : (setCtx s c y).sems = s.sems := rfl
@[simp] theorem setCtx_semQ (s : State) (c : CtxId) (y : Ctx) : (setCtx s c y).semQ = s.semQ := rfl
@[simp] theorem setCtx_ports (s : State) (c : CtxId) (y : Ctx) : (setCtx s c y).ports = s.ports := rfl
@[simp] theorem setCtx_reeves (s : State) (c : CtxId) (y : Ctx) : (setCtx s c y).reeves = s.reeves := rfl
@[simp] theorem setCtx_reeveMem (s : State) (c : CtxId) (y : Ctx) : (setCtx s c y).reeveMem = s.reeveMem := rfl
@[simp] theorem setCtx_reeveErr (s : State) (c : CtxId) (y : Ctx) : (setCtx s c y).reeveErr = s.reeveErr := rfl
@[simp] theorem setCtx_fwMem (s : State) (c : CtxId) (y : Ctx) : (setCtx s c y).fwMem = s.fwMem := rfl
@[simp] theorem setCtx_fwErr (s : State) (c : CtxId) (y : Ctx) : (setCtx s c y).fwErr = s.fwErr := rfl
@[simp] theorem setCtx_queues (s : State) (c : CtxId) (y : Ctx) : (setCtx s c y).queues = s.queues := rfl
@[simp] theorem setCtx_cmds (s : State) (c : CtxId) (y : Ctx) : (setCtx s c y).cmds = s.cmds := rfl
@[simp] theorem setCtx_nextCmd (s : State) (c : CtxId) (y : Ctx) : (setCtx s c y).nextCmd = s.nextCmd := rfl
@[simp] theorem setCtx_nextOrd (s : State) (c : CtxId) (y : Ctx) : (setCtx s c y).nextOrd = s.nextOrd := rfl
@[simp] theorem setCtx_twin (s : State) (c : CtxId) (y : Ctx) : (setCtx s c y).twin = s.twin := rfl
@[simp] theorem setCtx_dev (s : State) (c : CtxId) (y : Ctx) : (setCtx s c y).dev = s.dev := rfl
@[simp] theorem setCtx_ctr (s : State) (c : CtxId) (y : Ctx) : (setCtx s c y).ctr = s.ctr := rfl
@[simp] theorem setCtx_elog (s : State) (c : CtxId) (y : Ctx) : (setCtx s c y).elog = s.elog := rfl
@[simp] theorem setCtx_elogN (s : State) (c : CtxId) (y : Ctx) : (setCtx s c y).elogN = s.elogN := rfl
@[simp] theorem setCtx_sqBucket (s : State) (c : CtxId) (y : Ctx) : (setCtx s c y).sqBucket = s.sqBucket := rfl
@[simp] theorem setCtx_floor (s : State) (c : CtxId) (y : Ctx) : (setCtx s c y).floor = s.floor := rfl
@[simp] theorem setCtx_therm (s : State) (c : CtxId) (y : Ctx) : (setCtx s c y).therm = s.therm := rfl
@[simp] theorem setCtx_link (s : State) (c : CtxId) (y : Ctx) : (setCtx s c y).link = s.link := rfl
@[simp] theorem setCtx_i3c (s : State) (c : CtxId) (y : Ctx) : (setCtx s c y).i3c = s.i3c := rfl
@[simp] theorem setCtx_sec (s : State) (c : CtxId) (y : Ctx) : (setCtx s c y).sec = s.sec := rfl

end Sys2Proof.Machine
end

