-- ==== Sys2Proof/Laws/Issue.lean ====
section
/-! SUPPORT. Laws of issuing an instruction and of the program position. -/

namespace Sys2Proof.Machine

theorem canIssue_iff (s : State) (c : CtxId) :
    canIssue s c = true ↔ (s.ctx c).run = .running ∧ (s.ctx c).wait = .none ∧ (s.ctx c).held = none := by
  simp [canIssue, and_assoc]

theorem windowCauses_plain (s : State) (c : CtxId) (l : List Nat) : windowCauses s c (plainPlan l) = [] := by
  simp [windowCauses, plainPlan, failIf]

theorem interlocked_plain (s : State) (c : CtxId) (l : List Nat) (r w : List Range) : interlocked s c (plainPlan l) r w = false := by
  simp [interlocked, plainPlan]

theorem mustWait_plain (s : State) (c : CtxId) (l : List Nat) (r w : List Range) : mustWait s c (plainPlan l) r w = false := by
  simp [mustWait, interlocked, plainPlan]

/-- An instruction without engine, operands and failing checks takes effect. -/
theorem issue_plain (s : State) (c : CtxId) (i : Instr) (eff : Nat → State → State) (move : Bool) (h : canIssue s c = true) :
    issue s c i (plainPlan []) eff move =
      if move then moveOn (retire1 (eff (s.croft c.p).nextId s) c) c else eff (s.croft c.p).nextId s := by
  have hm := fun r w => mustWait_plain s c [] r w
  simp only [plainPlan] at hm
  simp [issue, h, plainPlan, windowCauses, failIf, lowest, hm, enter]

/-- An instruction whose checks pass takes effect; an engine instruction enters its engine first. -/
theorem issue_passes (s : State) (c : CtxId) (i : Instr) (pl : Plan) (eff : Nat → State → State) (move : Bool) (h : Passes s c pl) :
    issue s c i pl eff move =
      let t := eff (s.croft c.p).nextId (enter s c i pl (relocated s c pl.reads) (relocated s c pl.writes))
      if move then moveOn (if pl.engine.isSome then t else retire1 t c) c else t := by
  obtain ⟨h1, h2, h3⟩ := h
  simp [issue, h1, h2, h3]

/-- An instruction that fails checks stops its context on the lowest cause (R526). -/
theorem issue_stops (s : State) (c : CtxId) (i : Instr) (pl : Plan) (eff : Nat → State → State) (move : Bool) (k : Nat)
    (h : canIssue s c = true) (hk : lowest (pl.causes ++ windowCauses s c pl) = some k) :
    issue s c i pl eff move = failAt s c k (posOf s c) := by simp [issue, h, hk]

/-- An instruction that must wait is held (R51, R263). -/
theorem issue_holds (s : State) (c : CtxId) (i : Instr) (pl : Plan) (eff : Nat → State → State) (move : Bool)
    (h : canIssue s c = true) (hc : lowest (pl.causes ++ windowCauses s c pl) = none)
    (hw : mustWait s c pl (relocated s c pl.reads) (relocated s c pl.writes) = true) :
    issue s c i pl eff move = holdInstr s c i (interlocked s c pl (relocated s c pl.reads) (relocated s c pl.writes)) := by
  simp [issue, h, hc, hw]

theorem moveTo_in (s : State) (c : CtxId) (n : Nat) (h : n < (s.ctx c).count) :
    moveTo s c (n : Int) = setCtx s c ((s.ctx c).at n s.now) := by
  have h1 : ¬ ((n : Int) < 0) := by omega
  have h2 : ¬ (((s.ctx c).count : Int) ≤ n) := by omega
  simp [moveTo, h1, h2, Ctx.at]

theorem moveOn_in (s : State) (c : CtxId) (hr : (s.ctx c).run = .running) (h : (s.ctx c).pos + 1 < (s.ctx c).count) :
    moveOn s c = setCtx s c ((s.ctx c).at ((s.ctx c).pos + 1) s.now) := by
  rw [moveOn, if_pos hr]
  exact_mod_cast moveTo_in s c _ h

/-- The lowest cause is one of those that apply, and none that applies is lower. -/
theorem lowest_spec (l : List Nat) : match lowest l with
    | none => l = []
    | some k => k ∈ l ∧ ∀ j ∈ l, k ≤ j := by
  induction l with
  | nil => rfl
  | cons c cs ih =>
    simp only [lowest]
    cases h : lowest cs with
    | none => simp [h] at ih; simp [ih]
    | some d =>
      rw [h] at ih
      obtain ⟨h1, h2⟩ := ih
      refine ⟨?_, ?_⟩
      · rcases Nat.le_total c d with hd | hd
        · simp [Nat.min_eq_left hd]
        · simp [Nat.min_eq_right hd, h1]
      · intro j hj
        rcases List.mem_cons.1 hj with rfl | hj
        · exact Nat.min_le_left _ _
        · exact Nat.le_trans (Nat.min_le_right _ _) (h2 j hj)

end Sys2Proof.Machine
end

