-- ==== Sys2Proof/Laws/Keep.lean ====
section
/-! SUPPORT. What writes the stores and the fuses, and that each such write keeps what every step keeps. -/

namespace Sys2Proof.Machine

/-! ### The stores -/

theorem stores_of_eq {s t : State} (w : StoresWf s) (hm : t.mem = s.mem) (hl : t.ls = s.ls) : StoresWf t := by
  rw [StoresWf, hm, hl]
  exact w

theorem stores_reset : StoresWf State.reset := ⟨rfl, rfl⟩

theorem stores_of_nil {t : State} (hm : t.mem = []) (hl : t.ls = []) : StoresWf t := by
  rw [StoresWf, hm, hl]
  exact ⟨rfl, rfl⟩

theorem markDirty_mem (s : State) (p : Nat) (rs : List Range) : (markDirty s p rs).mem = s.mem := by
  unfold markDirty
  split <;> rfl

theorem markDirty_ls (s : State) (p : Nat) (rs : List Range) : (markDirty s p rs).ls = s.ls := by
  unfold markDirty
  split <;> rfl

theorem lsWrite_mem (s : State) (p a : Nat) (bs : List Byte) : (lsWrite s p a bs).mem = s.mem := by
  unfold lsWrite
  split
  · rfl
  · rw [markDirty_mem]

/-- A write of a local store writes its bytes at their keys and no others. -/
theorem lsWrite_ls (s : State) (p a : Nat) (bs : List Byte) : (lsWrite s p a bs).ls = tsetList zero8 s.ls (lsKey p a) bs := by
  unfold lsWrite
  split
  · rfl
  · rw [markDirty_ls]

theorem lsWrite_keeps (s : State) (p a : Nat) (bs : List Byte) (w : StoresWf s) : StoresWf (lsWrite s p a bs) := by
  refine ⟨?_, ?_⟩
  · rw [lsWrite_mem]
    exact w.1
  · rw [lsWrite_ls]
    exact tableWf_tsetList _ _ _ _ w.2

theorem putAt_keeps (s : State) (key : Nat) (c : BitVec 80) (w : StoresWf s) : StoresWf (putAt s key c) :=
  ⟨tableWf_tsetList _ _ _ _ w.1, w.2⟩

theorem setWord_keeps (s : State) (p : Nat) (l : Loc) (c : BitVec 80) (w : StoresWf s) : StoresWf (setWord s p l c) :=
  putAt_keeps s _ c w

theorem makeUndef_keeps (s : State) (p lo hi : Nat) (w : StoresWf s) : StoresWf (makeUndef s p lo hi) :=
  stores_of_eq w rfl rfl

/-- Dropping entries keeps a table canonical. -/
theorem tableWfFrom_filter {α : Type} [DecidableEq α] (d : Nat → α) (q : Nat × α → Bool) (t : Table α) (lo : Nat)
    (w : tableWfFrom d lo t = true) : tableWfFrom d lo (t.filter q) = true := by
  induction t generalizing lo with
  | nil => rfl
  | cons e r ih =>
    obtain ⟨k, v⟩ := e
    simp only [tableWfFrom, Bool.and_eq_true] at w
    have hr := ih _ w.2
    rw [List.filter_cons]
    split
    · simp only [tableWfFrom, Bool.and_eq_true]
      exact ⟨w.1, hr⟩
    · have hk := of_decide_eq_true w.1.1
      exact tableWfFrom_mono _ _ _ _ (by omega) hr

theorem eraseRows_keeps (s : State) (p : Nat) (t : Nat → Nat → Bool) (w : StoresWf s) : StoresWf (eraseRows s p t) :=
  ⟨tableWfFrom_filter _ _ _ _ w.1, w.2⟩

/-- A fold of operations that keep the stores keeps them. -/
theorem foldl_keeps {α : Type} (f : State → α → State) (hf : ∀ s a, StoresWf s → StoresWf (f s a)) (l : List α) (s : State)
    (w : StoresWf s) : StoresWf (l.foldl f s) := by
  induction l generalizing s with
  | nil => exact w
  | cons a r ih => exact ih _ (hf s a w)

theorem lsPoisonUnit_keeps (s : State) (p u : Nat) (w : StoresWf s) : StoresWf (lsPoisonUnit s p u) := w

/-! ### Storing code words -/

theorem modSlice_keeps (s : State) (p : Nat) (f : Slice → Slice) (w : StoresWf s) : StoresWf (modSlice s p f) := w

theorem sqc_keeps (s : State) (l : List SqLine) (w : StoresWf s) : StoresWf { s with sqc := l } := w

theorem dev_keeps (s : State) (d : Dev) (w : StoresWf s) : StoresWf { s with dev := d } := w

theorem bump_keeps (s : State) (k n : Nat) (w : StoresWf s) : StoresWf (bump s k n) := w

theorem ite_keeps (c : Prop) [Decidable c] (s t : State) (hs : StoresWf s) (ht : StoresWf t) : StoresWf (if c then s else t) := by
  split
  · exact hs
  · exact ht

theorem noteSent_keeps (s : State) (q u n m : Nat) (w : StoresWf s) : StoresWf (noteSent s q u n m) := w

theorem refreshBank_keeps (s : State) (q k n late : Nat) (w : StoresWf s) : StoresWf (refreshBank s q k n late) := by
  have h := bump_keeps _ (ctrSlice q 31) late (bump_keeps _ (ctrSlice q 30) n w)
  unfold refreshBank
  exact modSlice_keeps _ _ _ (noteSent_keeps _ _ _ _ _ (ite_keeps _ _ _ (bump_keeps _ _ _ h) h))

theorem refreshFirst_keeps (s : State) (q k : Nat) (w : StoresWf s) : StoresWf (refreshFirst s q k) := by
  unfold refreshFirst
  exact ite_keeps _ _ _ (refreshBank_keeps s q k 1 1 w) w

theorem countGran_keeps (s : State) (q k n : Nat) (w : StoresWf s) : StoresWf (countGran s q k n) := by
  unfold countGran
  exact noteSent_keeps _ _ _ _ _ (modSlice_keeps _ _ _ (bump_keeps _ _ _ (refreshFirst_keeps s q k w)))

theorem countAt_keeps (s : State) (p idx off n : Nat) (w : StoresWf s) : StoresWf (countAt s p idx off n) := by
  unfold countAt
  split
  · exact w
  · exact countGran_keeps s _ _ n w

theorem unnote_keeps (s : State) (q : Nat) (l : Loc) (w : StoresWf s) : StoresWf (unnote s q l) := by
  unfold unnote
  exact ite_keeps _ _ _ (modSlice_keeps _ _ _ w) w

theorem putWord_keeps (s : State) (p idx off : Nat) (d : BitVec 64) (poison : Bool) (w : StoresWf s) :
    StoresWf (putWord s p idx off d poison) := by
  unfold putWord
  split
  · exact w
  · exact setWord_keeps _ _ _ _ (unnote_keeps s _ _ w)

theorem putWords_keeps (s : State) (p idx off : Nat) (data : List Byte) (poison : Bool) (n : Nat) (w : StoresWf s) :
    StoresWf (putWords s p idx off data poison n) := by
  induction n with
  | zero => exact w
  | succ n ih => exact putWord_keeps _ _ _ _ _ _ ih

theorem putBuffered_keeps (s : State) (p idx off : Nat) (d : BitVec 64) (bad : Bool) (w : StoresWf s) :
    StoresWf (putBuffered s p idx off d bad) := by
  unfold putBuffered
  split
  · exact putWord_keeps (find s _) _ _ _ _ _ (stores_of_eq w rfl rfl)
  · exact putWord_keeps s _ _ _ _ _ w

theorem noteHeldWrite_keeps (s : State) (q : Nat) (e : QEntry) (w : StoresWf s) : StoresWf (noteHeldWrite s q e).2 := by
  unfold noteHeldWrite
  split
  · exact bump_keeps _ _ _ w
  · exact w

theorem enqueue_keeps (s : State) (q u : Nat) (e : QEntry) (w : StoresWf s) : StoresWf (enqueue s q u e) :=
  noteHeldWrite_keeps s q e w

theorem storeWords_keeps (s : State) (p : Nat) (ws : List (Nat × BitVec 64 × Bool)) (w : StoresWf s) : StoresWf (storeWords s p ws) := by
  unfold storeWords
  split
  · exact w
  · exact countAt_keeps _ _ _ _ _ (foldl_keeps _ (fun t _ h => putWord_keeps t _ _ _ _ _ h) _ _ w)

theorem giveBack_keeps (s : State) (p : Nat) (ws : List (Nat × BitVec 64 × Bool)) (src : Src) (own : Bool) (w : StoresWf s) :
    StoresWf (giveBack s p ws src own) := by
  unfold giveBack
  split
  · exact w
  · split
    · exact enqueue_keeps _ _ _ _ w
    · exact storeWords_keeps _ _ _ w

theorem drainLine_keeps (s : State) (p : Nat) (l : WcLine) (own : Bool) (w : StoresWf s) : StoresWf (drainLine s p l own) := by
  unfold drainLine
  exact giveBack_keeps _ _ _ _ _ (giveBack_keeps _ _ _ _ _ (modSlice_keeps _ _ _ (stores_of_eq w rfl rfl)))

theorem wcPut_keeps (s : State) (p off : Nat) (data : List Byte) (w : StoresWf s) : StoresWf (wcPut s p off data) := by
  unfold wcPut
  dsimp only
  split
  · split
    · exact drainLine_keeps _ _ _ _ (stores_of_eq w rfl rfl)
    · exact stores_of_eq w rfl rfl
  · have h : StoresWf (match oldestLine (s.slice p).wcb with
        | some l => drainLine s p l
        | none => s) := by
      split
      · exact drainLine_keeps s p _ _ w
      · exact w
    have h := ite_keeps (64 ≤ (s.slice p).wcb.length) _ _ h w
    exact ite_keeps _ _ _ (drainLine_keeps _ _ _ _ h) (modSlice_keeps _ _ _ h)

theorem scanSq_keeps (s : State) (p line i n : Nat) (w : StoresWf s) : StoresWf (scanSq s p line i n) := by
  unfold scanSq
  split
  · exact w
  · split
    · exact w
    · exact stores_of_eq w rfl rfl

theorem dropSq_keeps (s : State) (p line : Nat) (own : Option Nat) (w : StoresWf s) : StoresWf (dropSq s p line own) := by
  have h := scanSq_keeps s p line 0 16 w
  unfold dropSq
  dsimp only
  split
  · exact h
  · exact foldl_keeps _ (fun t _ g => giveBack_keeps t _ _ _ _ g) _ _ (sqc_keeps _ _ h)

theorem writeWords_keeps (s : State) (p idx off : Nat) (data : List Byte) (poison : Bool) (w : StoresWf s) :
    StoresWf (writeWords s p idx off data poison) := by
  have h := dropSq_keeps s p (off / 128) (some off) w
  unfold writeWords
  dsimp only
  split
  · exact countAt_keeps _ _ _ _ _ (putWords_keeps _ _ _ _ _ _ _ (stores_of_eq h rfl rfl))
  · exact wcPut_keeps _ _ _ _ (stores_of_eq h rfl rfl)

theorem biHold_keeps (s : State) (p line : Nat) (a : BiAct) (w : StoresWf s) : StoresWf (biHold s p line a) := by
  unfold biHold
  exact ite_keeps _ _ _ (bump_keeps _ _ _ (stores_of_eq w rfl rfl)) (stores_of_eq w rfl rfl)

theorem writeAligned_keeps (s : State) (p idx off : Nat) (data : List Byte) (poison : Bool) (src : Src) (who : Asker) (w : StoresWf s) :
    StoresWf (writeAligned s p idx off data poison src who) := by
  unfold writeAligned
  split
  · exact enqueue_keeps _ _ _ _ w
  · exact ite_keeps _ _ _ (biHold_keeps _ _ _ _ w) (writeWords_keeps s _ _ _ _ _ w)

/-! ### Events and the error log -/

theorem hostAccess_keeps (s : State) (peer : Bool) (a : Nat) (wr : Bool) (n : Nat) (d : List Byte) (poison : Bool) (why : Purpose)
    (w : StoresWf s) : StoresWf (hostAccess s peer a wr n d poison why) := w

theorem sendMsix_keeps (s : State) (v : Nat) (w : StoresWf s) : StoresWf (sendMsix s v) := by
  unfold sendMsix
  exact ite_keeps _ _ _ (dev_keeps _ _ w) (stores_of_eq w rfl rfl)

theorem evWritten_keeps (s : State) (w : StoresWf s) : StoresWf (evWritten s) := by
  unfold evWritten
  exact ite_keeps _ _ _ (sendMsix_keeps _ _ (bump_keeps _ _ _ (dev_keeps _ _ w))) (bump_keeps _ _ _ (dev_keeps _ _ w))

theorem evDrop_keeps (s : State) (r : BitVec 256) (w : StoresWf s) : StoresWf (evDrop s r) := by
  unfold evDrop
  exact bump_keeps _ _ _ (dev_keeps _ _ w)

theorem evPump_keeps (n : Nat) (s : State) (w : StoresWf s) : StoresWf (evPump n s) := by
  induction n generalizing s with
  | zero => exact w
  | succ n ih =>
    unfold evPump
    split
    · exact w
    · refine ite_keeps _ _ _ w (ite_keeps _ _ _ (ih _ (evWritten_keeps _ (dev_keeps _ _ w))) (ite_keeps _ _ _ ?_ (hostAccess_keeps _ _ _ _ _ _ _ _ w)))
      dsimp only
      split
      · exact ih _ (evDrop_keeps _ _ (dev_keeps _ _ w))
      · split
        · exact ih _ (evDrop_keeps _ _ (dev_keeps _ _ w))
        · exact ih _ (writeAligned_keeps _ _ _ _ _ _ _ _ (dev_keeps _ _ w))

theorem noteEvent_keeps (s : State) (code sev : Nat) (w : StoresWf s) : StoresWf (noteEvent s code sev) := by
  have h : ∀ t : State, StoresWf t → StoresWf (alertFor t code sev) := fun t ht => by
    unfold alertFor
    exact ite_keeps _ _ _ ht ht
  have h1 : StoresWf (match errBit code with
      | some i => setErr s i
      | none => s) := by
    split
    · exact stores_of_eq w rfl rfl
    · exact w
  unfold noteEvent
  exact ite_keeps _ _ _ (h _ (stores_of_eq h1 rfl rfl)) (stores_of_eq h1 rfl rfl)

theorem raiseOne_keeps (s : State) (code sev : Nat) (pl : BitVec 128) (w : StoresWf s) : StoresWf (raiseOne s code sev pl) := by
  have h := noteEvent_keeps s code sev w
  unfold raiseOne
  exact ite_keeps _ _ _ (evPump_keeps _ _ (dev_keeps _ _ (dev_keeps _ _ h))) (evDrop_keeps _ _ (dev_keeps _ _ h))

/-- Raising an event, whose record may go to device memory, keeps the stores canonical. -/
theorem raise_keeps (s : State) (code sev : Nat) (fs : List (Nat × Nat × Nat)) (w : StoresWf s) : StoresWf (raise s code sev fs) := by
  refine raiseOne_keeps _ _ _ _ ?_
  unfold flushLost
  exact ite_keeps _ _ _ (raiseOne_keeps _ _ _ _ (dev_keeps _ _ w)) w

theorem logError_keeps (s : State) (r : LogRec) (w : StoresWf s) : StoresWf (logError s r) := by
  unfold logError
  dsimp only
  split <;> exact stores_of_eq w rfl rfl

theorem therm_keeps (s : State) (h : Therm) (w : StoresWf s) : StoresWf { s with therm := h } := w

theorem canariesDue_keeps (s : State) (p : Nat) (w : StoresWf s) : StoresWf (canariesDue s p) := by
  unfold canariesDue
  exact therm_keeps _ _ w

theorem addBucket_keeps (s : State) (p : Nat) (w : StoresWf s) : StoresWf (addBucket s p) := by
  have h := modSlice_keeps s p (fun x => { x with bucket := (bucketAdd (s.slice p).bucket).1 }) w
  unfold addBucket
  exact ite_keeps _ _ _ (raise_keeps _ _ _ _ (canariesDue_keeps _ _ (bump_keeps _ _ _ h))) h

theorem addSqBucket_keeps (s : State) (w : StoresWf s) : StoresWf (addSqBucket s) := by
  unfold addSqBucket
  dsimp only
  split
  · exact raise_keeps _ _ _ _ (stores_of_eq w rfl rfl)
  · exact stores_of_eq w rfl rfl

theorem otherError_keeps (s : State) (p : Option Nat) (ue : Bool) (src : Src) (a : Nat) (w : StoresWf s) :
    StoresWf (otherError s p ue src a) := by
  unfold otherError
  dsimp only
  split
  · exact addBucket_keeps _ _ (logError_keeps _ _ (stores_of_eq w rfl rfl))
  · exact addSqBucket_keeps _ (logError_keeps _ _ (stores_of_eq w rfl rfl))

/-! ### Delivery into a local store -/

theorem lsScan_keeps (s : State) (p : Nat) (rs : List Range) (w : StoresWf s) : StoresWf (lsScan s p rs) := by
  refine foldl_keeps _ (fun t e h => ?_) _ s w
  unfold lsFind
  dsimp only
  split
  · exact h
  · exact otherError_keeps _ _ _ _ _ h
  · exact otherError_keeps _ _ _ _ _ (stores_of_eq h rfl rfl)

theorem lsStore_keeps (s : State) (p a : Nat) (bs : List Byte) (w : StoresWf s) : StoresWf (lsStore s p a bs) :=
  lsWrite_keeps _ p a bs (lsScan_keeps s p _ w)

theorem lsDeliver_keeps (s : State) (p a : Nat) (bs : List (Byte × Bool)) (w : StoresWf s) : StoresWf (lsDeliver s p a bs) :=
  foldl_keeps _ (fun s _ h => lsPoisonUnit_keeps s _ _ h) _ _ (lsStore_keeps s p a _ w)

/-! ### The fuses -/

theorem fuses_of_eq {s t : State} (h : t.fuses = s.fuses) : FusesOnlyBurn s t := by
  rw [FusesOnlyBurn, h]
  exact ⟨rfl, rfl, rfl, fun _ h => h⟩

theorem fuses_trans {s t u : State} (a : FusesOnlyBurn s t) (b : FusesOnlyBurn t u) : FusesOnlyBurn s u :=
  ⟨b.1.trans a.1, b.2.1.trans a.2.1, b.2.2.1.trans a.2.2.1, fun i h => b.2.2.2 i (a.2.2.2 i h)⟩

/-- A burn of tree key `n` sets its bit and mends none. -/
theorem burn_only (s : State) (n : Nat) :
    FusesOnlyBurn s { s with fuses := { s.fuses with treefuse := s.fuses.treefuse ||| BitVec.twoPow 1024 n } } := by
  refine ⟨rfl, rfl, rfl, fun i h => ?_⟩
  simp [BitVec.getLsbD_or, h]

end Sys2Proof.Machine
end

