-- ==== Sys2Proof/WellFormed.lean ====
section
/-! DEFINITION. Which commands describe something that can happen at the QH9's boundary. Meanings are given to every command, well
formed or not: what is checked here is what the sender of a command owes, not what the QH9 checks. -/

namespace Sys2Proof

/-- A span of a slice (R189). -/
def spanOk (off len : Nat) : Bool := decide (1 ≤ len ∧ off + len ≤ Config.sliceBytes)

/-- CXL.mem moves whole 64 B lines (R469). -/
def lineOk (hpa : BitVec 64) (len : Nat) : Bool := decide (hpa.toNat % 64 = 0 ∧ len = 64)

/-- Sensors of one sample, each at most once; powers of crofts and villages likewise. -/
def sampleOk (t : ThermIn) : Bool :=
  decide (t.temps.map (·.1)).Nodup && decide (t.pc.map (·.1)).Nodup

/-- Whether a command can be sent as it stands. -/
def Instr.wellFormed : Instr → Bool
  | .sliceRead _ off len _ _ _ => spanOk off len
  | .sliceWrite _ off data _ _ => spanOk off data.bytes.length
  | .commandFetch _ es => decide (es.length ≤ 4)
  | .cxlMemRead hpa len => lineOk hpa len
  | .cxlMemWrite hpa data _ => lineOk hpa data.length
  | .uioRequest _ write len data _ => if write then decide (data.length = len ∧ 1 ≤ len) else decide (1 ≤ len)
  | .sensorSample t => sampleOk t
  | .canaryCheck _ _ f => decide (f ≤ 65536)
  | .linkTrained width rate => decide ((width = 16 ∨ width = 8) ∧ (rate = 64 ∨ rate = 32 ∨ rate = 16))
  | .registerWrite off w => decide ((w.size = 1 ∨ w.size = 2 ∨ w.size = 4 ∨ w.size = 8) ∧ w.bits.toNat < 2 ^ (8 * w.size))
  | .regSel off => decide (off.toNat % 8 = 0)
  | .marchDone rows => decide rows.Nodup
  | .retentionStep _ _ rows => decide rows.Nodup
  | .croftSelftest _ lanes _ => decide lanes.Nodup
  | .overvoltage mv => decide (57500 < mv)
  | .inputLow mv => decide (mv.toNat < 46000)
  | .nop _ _ | .endStream _ _ | .scalarAdd _ _ | .scalarSub _ _ | .scalarAnd _ _ | .scalarOr _ _ | .scalarXor _ _ | .shl _ _
  | .shr _ _ | .scalarMul _ _ | .loadImmediate _ _ | .movFromSpecial _ _ | .branchAlways _ _ | .branchEqual _ _
  | .branchNotEqual _ _ | .branchLess _ _ | .branchGreaterEqual _ _ | .decrementAndBranch _ _ | .dmaRead _ _ | .dmaWrite _ _
  | .atomicAdd _ _ | .atomicMin _ _ | .atomicMax _ _ | .cas _ _ | .swap _ _ | .atomicAnd _ _ | .atomicOr _ _ | .atomicXor _ _
  | .setFlags _ _ | .clearFlags _ _ | .fwait _ _ | .bar _ _ | .ring _ _ | .bwait _ _ | .ssig _ _ | .swait _ _ | .allgather _ _
  | .allreduce _ _ | .mmaW _ _ | .mmaA _ _ | .mmaO _ _ | .vecAdd _ _ | .vecMul _ _ | .fma _ _ | .vecMax _ _ | .vecMin _ _
  | .relu _ _ | .cvt _ _ | .scale _ _ | .rsum _ _ | .rmax _ _ | .exp _ _ | .rcp _ _ | .gleanSum _ _ | .gleanMean _ _
  | .gleanGather _ _ | .sieveSelect _ _ | .sieveRoute _ _ | .interlockIssue _ | .laneBankLoad _ | .issueAfterLoad _
  | .accumulatorDrain _ | .instructionRetire _ _ | .clockStep _ | .droopStretch _ _ _ | .sieveBufferFree _ | .sieveRoundStart _ _
  | .sieveRoundDone _ _ | .sieveRoundTimeout _ _ | .gleanCommandReceive _ _ | .gleanSlotFree _ _ | .chainValueArrive _ _
  | .gleanerYield _ _ _ | .refreshDue _ _ _ | .regulatorRelease _ _ | .writeCombiningDrain _ _ | .readModifyWrite _ _
  | .squareCacheAtomic _ _ _ _ _ _ | .deferredContribution _ _ _ _ | .imbalanceWindow _ | .queueEntryFree _ _
  | .errorReturn _ _ _ _ _ | .linkTestDone _ _ _ | .recentringPass _ _ _ | .idleBeatInsert _ _ _ | .refreshNormalReturn _
  | .d2dFrame _ _ _ _ _ | .d2dNegativeAck _ _ _ _ | .groupRetrainDone _ _ _ _ | .d2dRecentring _ _ _ _
  | .portTrainingExchange _ _ _ | .waitTimeout _ | .barrierRelease _ _ _ | .barrierTimeout _ _ _ | .collectiveStart _ _
  | .collectiveDone _ _ | .reeveWatchdog _ | .reeveSelftestDone _ _ | .lockstepArm _ | .lockstepDisarm _ | .armTimeout
  | .twinArm _ | .twinCmd _ _ | .hashset _ _ _ | .crec _ _ | .twinFail _ _ | .probe _ _ _ _ _ | .terms _ _ | .twinDisarm
  | .twinMessageTimeout | .doorbell _ _ | .queueEnable _ | .queueDisable _ | .run _ | .runChained _ | .loadTable _ | .memFill _
  | .memCopy _ | .sessionOpen _ | .sessionAppend _ | .sessionClose _ | .fenceQueue _ | .fencePartition _ | .abortQueue _
  | .abortPartition _ | .abortSession _ | .setPartition _ | .setEnvelope _ | .queryFloorplan _ | .readTelemetry _
  | .timeSyncSet _ | .timeSyncStep _ | .timeSyncRead _ | .fwBegin _ _ | .fwChunk _ _ _ _ _ _ | .fwCommit _ | .attest _
  | .requestAdmit _ | .sessionWaitEnd _ _ | .croftStagesStart _ _ | .requestComplete _ _ | .timeLimit _ _ | .coalesceTimeout _
  | .abortBoundExceeded _ | .functionLevelReset | .bucketLeak | .trackingExpire _ _ | .sweeperRowRead _ | .sweepLate _ _
  | .rowSpare _ _ _ _ | .coldStart | .warmReset | .perstRelease | .romDone _ | .fwClaimTimeout | .trainDone _ | .selftestDone _
  | .retentionSettleTimeout _ _ _ _ | .fillDone | .scrubDone | .floorplanDone | .defectMapEepromWrite | .selftestOverdue _
  | .sequencerTimeout _ | .migrationPhase1Done | .rowExchange | .migrationDone | .dramTimingTrim _ _ | .subchannelRetrain _ _
  | .droopTuning _ _ | .sensorSilence _ | .sensorDisagree _ | .tileSensorDisagree _ _ | .limiterRaise | .limiterLower _
  | .capStep | .capTimeout | .coolingFault | .coolingRestored | .flowStop | .flowStopEnd | .thermtrip | .rotaPeriod
  | .thermalCycleSample | .lifeCounterWrite | .linkDown | .linkDownTimeout | .linkUp | .hotReset | .hdmDecoderCommit _ | .birsp _
  | .hostSnoop _ | .hostAccessCompletion _ _ _ _ | .hostAccessTimeout _ | .cxlIdeKm _ | .ideFail _ _ | .entdaa _ | .setdasa _
  | .rstdaa | .enec _ | .disec _ | .getpid | .getbcr | .getdcr | .getstatus | .getmwl | .setmwl _ | .getmrl | .setmrl _
  | .alertAck | .i3cPrivateRead | .hotJoin | .ibiRetry _ | .ppsEdge _ | .ppsLost | .twinLinkTrain | .twinLinkDown _
  | .inputOutOfRange | .errstatusClear _ | .devstatusClear _ | .eventRingEnable | .evheadWrite _ | .cxlMailboxKcp _ _
  | .attestTreeBuilt | .railsGood | .verifyDone | .hdmDecoderUncommit _ | .epochApplyDone _ _ | .reeveCommandDone _
  | .bellLaneFailure _ _ | .clockPairFailure _ _ | .twinMessageCrcFail _ => true

end Sys2Proof
end

