-- ==== Sys2Proof/Tests/Slice0.lean ====
section
/-! SUPPORT. Small states; worked examples of the specification; commands that cannot be sent as they stand; and, for each obligation
with hypotheses, states and operands that meet them together (witness_<obligation>_<clause>). -/

open Sys2Proof Sys2Proof.Machine

namespace Sys2Proof.Tests

set_option Elab.async false

/-! ### Small states -/

def w_c : CtxId := ⟨0, 0⟩

/-- A running context of an image of nine instructions, at its first. -/
def w_x : Ctx := { Ctx.reset with run := .running, inCroft := true, n := 1, count := 9 }

def w_req : Req where
  cid := 1
  imgs := []
  cur := 0
  n := 1
  gend := 0
  gwen := false
  gw0 := 0
  gw1 := 0
  gwlen := 0
  stage := .croft
  at0 := 0
  ord := 0
  gendAt := 0
  sess := none
  fallback := false
  waste := 0
  drop := 0
  orders := 0
  fail := none
  pairK := 0
  relaxed := false
  lose := false
  waits := false

/-- Croft 0 is index 0 of partition 0 and serves device slot 0; a request of one logical croft runs in execution slot 0. -/
def w_one (x : Ctx) : State := { State.reset with
  crofts := [(0, { Croft.reset with c0 := x, inPart := true })]
  parts := [(0, { Part.reset with s0 := { Slot.reset with req := some w_req } })]
  floor := { Floor.reset with home := [(0, 1)], comp := Tri.same [(0, 1)], data := [(0, 1)], slotMap := [(0, 1)] }
  boot := { Boot.reset with stage := .ready, rails := true } }

def w_s : State := w_one w_x

/-- Croft 0 changed. -/
def w_croft (f : Croft → Croft) : State := modCroft w_s 0 f

/-! ### Time, events and steps -/

theorem witness_TimePasses_idle : State.reset.pending = [] := by decide

theorem witness_TimePasses_stopped : State.reset.dev.timeOn = false := by decide

theorem witness_TimePasses_runs :
    let s := { State.reset with dev := { Dev.reset with timeOn := true, trimAcc := 7999999999 } }
    s.dev.timeOn = true ∧ s.dev.trim = 0 ∧ 0 ≤ s.dev.trimAcc ∧ s.dev.trimAcc < 8000000000 := by decide

theorem witness_StepKeepsStores : Memory.wf State.reset.mem = true ∧ LocalStore.wf State.reset.ls = true ∧
    ∃ t, step State.reset = .next t := ⟨by decide, by decide, _, rfl⟩

theorem witness_StepKeepsFuses : ∃ t, step State.reset = .next t := ⟨_, rfl⟩

theorem witness_EventsRaised_off : 0xFFFF ≠ 0x00FE ∧ 0xFFFF < 2 ^ 16 ∧ 3 ≤ 3 ∧ evEn State.reset.dev = false := by decide

/-- The event ring of 16 entries in host memory, enabled, with one entry free. -/
def w_ring : State := { State.reset with
  dev := { Dev.reset with evcfg := 1, evhead := 1, evtail := 15 }
  link := { Link.reset with up := true } }

theorem witness_EventsRaised_ring : evEn w_ring.dev = true ∧ evDevMem w_ring.dev = false ∧ w_ring.dev.evdrop = 0 ∧
    evRoom w_ring.dev = 1 ∧ w_ring.dev.evq = [] ∧ evBusy w_ring = false ∧ w_ring.dev.evSent = false ∧
    w_ring.link.up = true := by decide

/-! ### Croft instructions -/

theorem w_ready : Ready w_s w_c := by unfold Ready; decide

def w_sc (imm : BitVec 64) : ScalarF := ⟨1, 2, 3, imm, 0⟩

theorem witness_ScalarResults : Ready w_s w_c ∧ (w_sc 0).rsv = 0 ∧ (w_sc 0).imm = 0 ∧ (w_sc 1).imm = 1 := ⟨w_ready, by decide⟩

theorem witness_ScalarResults_args : Ready w_s w_c ∧ (w_sc 2).rsv = 0 ∧ (2 ≤ (w_sc 2).imm.toNat ∧ (w_sc 2).imm.toNat ≤ 5) ∧
    2 ≤ (w_sc 5).imm.toNat ∧ (w_sc 5).imm.toNat ≤ 5 := ⟨w_ready, by decide⟩

def w_br (o : BitVec 32) : BranchF := ⟨1, 2, o, 0⟩

theorem witness_BranchMoves : Ready w_s w_c ∧ (w_br 8).rsv = 0 ∧ 0 ≤ ((w_s.ctx w_c).pos : Int) + (w_br 8).offset.toInt ∧
    ((w_s.ctx w_c).pos : Int) + (w_br 8).offset.toInt < (w_s.ctx w_c).count := ⟨w_ready, by decide⟩

theorem witness_BranchMoves_back :
    let s := w_one { w_x with pos := 7 }
    canIssue s w_c = true ∧ (s.ctx w_c).pos + 1 < (s.ctx w_c).count ∧ (w_br (-7)).rsv = 0 ∧
      0 ≤ ((s.ctx w_c).pos : Int) + (w_br (-7)).offset.toInt ∧
      ((s.ctx w_c).pos : Int) + (w_br (-7)).offset.toInt < (s.ctx w_c).count := by decide

theorem witness_CroftsStop : (w_s.slot (partAt w_s w_c.p) w_c.e).req = some w_req ∧ w_req.fail = none := by decide +kernel

theorem witness_CroftsStop_branch : canIssue w_s w_c = true ∧ (w_br 9).rsv = 0 ∧
    ((w_s.ctx w_c).count : Int) ≤ ((w_s.ctx w_c).pos : Int) + (w_br 9).offset.toInt := by decide

theorem witness_FlagsAndEnd : Ready w_s w_c ∧ armedAt w_s w_c.p = false ∧ (⟨true, true, 1, 0⟩ : FlagF).rsv = 0 :=
  ⟨w_ready, by decide +kernel⟩

/-- A READ of 64 B from partition address 0 into unit 0. -/
def w_dma : DmaF := ⟨0, 0, false, 0, 1, 63, 0, false, 0⟩

theorem witness_EngineIssue_dma : Passes w_s w_c (dmaPlan w_s w_c w_dma .read) ∧
    (relocated w_s w_c (dmaPlan w_s w_c w_dma (.atomic .add)).reads).all (lsSound w_s w_c.p) = true := by
  unfold Passes; decide +kernel

/-- FP32 elements, 64 of them, from units 0 and 4 to unit 8. -/
def w_vec : VecF := ⟨12, 12, 0, 4, 8, 63, 0, false, 0⟩

theorem witness_EngineIssue_vec : Passes w_s w_c (vecPlan .add w_vec) ∧
    (relocated w_s w_c (vecPlan .add w_vec).reads).all (lsSound w_s w_c.p) = true := by
  unfold Passes; decide +kernel

/-- A matrix instruction on one 64 × 64 × 64 tile of INT8 operands. -/
def w_mma : MmaF where
  afmt := 0
  wfmt := 0
  sparse := 0
  blk := false
  zsoff := false
  acc := 0
  mt := 0
  nt := 0
  kt := 0
  aadr := 0
  wadr := 1024
  cadr := 2048
  badr := 4096
  flag := 0
  flagen := false
  hold := false
  rsv := 0

theorem witness_EngineIssue_mma : Passes w_s w_c (mmaPlan w_s w_c .w w_mma) ∧
    (relocated w_s w_c (mmaPlan w_s w_c .w w_mma).reads).all (lsSound w_s w_c.p) = true := by
  unfold Passes; decide +kernel

/-! ### Commands that cannot be sent as they stand -/

theorem test_wf_span : Instr.wellFormed (.sliceRead 0 1610612735 2 .host [] []) = false ∧
    Instr.wellFormed (.sliceRead 0 1610612735 1 .host [] []) = true := by decide

theorem test_wf_write : Instr.wellFormed (.sliceWrite 0 0 ⟨[], []⟩ false .host) = false := by decide

theorem test_wf_fetch : Instr.wellFormed (.commandFetch 0 (List.replicate 5 ⟨0, false, .data⟩)) = false := by decide

theorem test_wf_line : Instr.wellFormed (.cxlMemRead 32 64) = false ∧ Instr.wellFormed (.cxlMemRead 64 32) = false := by decide

theorem test_wf_lineWrite : Instr.wellFormed (.cxlMemWrite 64 [0] false) = false := by decide

theorem test_wf_uio : Instr.wellFormed (.uioRequest 0 true 2 [0] false) = false ∧
    Instr.wellFormed (.uioRequest 0 false 0 [] false) = false := by decide

theorem test_wf_sample : Instr.wellFormed (.sensorSample ⟨[(.diode 3, 0), (.diode 3, 8)], [], [], 0, 0, 0⟩) = false ∧
    Instr.wellFormed (.sensorSample ⟨[], [(3, 0), (3, 1)], [], 0, 0, 0⟩) = false := by decide

theorem test_wf_canary : Instr.wellFormed (.canaryCheck 0 0 65537) = false := by decide

theorem test_wf_link : Instr.wellFormed (.linkTrained 4 64) = false ∧ Instr.wellFormed (.linkTrained 8 8) = false := by decide

theorem test_wf_register : Instr.wellFormed (.registerWrite 4 ⟨0, 3⟩) = false ∧ Instr.wellFormed (.registerWrite 4 ⟨256, 1⟩) = false ∧ Instr.wellFormed (.regSel 4) = false := by decide

theorem test_wf_rows : Instr.wellFormed (.marchDone [(0, 0, 0), (0, 0, 0)]) = false ∧
    Instr.wellFormed (.retentionStep 0 0 [(0, 0, 0), (0, 0, 0)]) = false := by decide

theorem test_wf_lanes : Instr.wellFormed (.croftSelftest 0 [5, 5] false) = false := by decide

theorem test_wf_input : Instr.wellFormed (.overvoltage 57500) = false ∧ Instr.wellFormed (.inputLow 46000) = false := by decide

/-! ### The worked examples of the specification -/

/-- The example after R5: physical croft 300 is in village 2 and device hamlet 9. -/
theorem test_croft_300 : villageOf 300 = 2 ∧ hamletOf 300 = 9 := by decide

def w_salt : SliceMap := ⟨0xF, 0, 0, 0x3A5C⟩

/-- The example after R192: bank slot 22, row 97, column 11, code word 0. -/
theorem test_interleave : hashX 388 0x3A5C = 0x2BD4 ∧ interleave w_salt 0x01234567 = ⟨22, 97, 11, 0⟩ := by decide

/-- The example after R136: bank slots of rows 1,000, 7 and 50,000. -/
theorem test_row_slots : [1000, 7, 50000].map (rowSlot 0x3A5C) = [2, 67, 52] := by decide

/-- The example after R363: check bits 0x8377. -/
theorem test_check_bits : addrGuard ⟨22, 97, 11, 0⟩ = true ∧ encodeWord ⟨22, 97, 11, 0⟩ 1 = 0x83770000000000000001 := by decide +kernel

/-- The same example with d5 in error: syndrome 0x6D97, and the data corrected. -/
theorem test_syndrome : syndrome ⟨22, 97, 11, 0⟩ 0x83770000000000000021 = 0x6D97 ∧
    wordData ((classify ⟨22, 97, 11, 0⟩ 0x83770000000000000021).fix 0x83770000000000000021) = 1 := by decide +kernel

/-- The example after R81: FP32 500.0 and 460.0 in E4M3 at levels 2 and 1. -/
theorem test_e4m3 : encE4 false (dec32 0x43FA0000) = 0x7E ∧ encE4 true (dec32 0x43FA0000) = 0x7F ∧
    encE4 false (dec32 0x43E60000) = 0x7E ∧ encE4 true (dec32 0x43E60000) = 0x7E := by decide +kernel

/-- The same example: 3.0 and 0.3 in a block of MXFP4 whose largest magnitude is 3.0. -/
theorem test_mxfp4 : mxBlock .e2m1 [dec32 0x40400000, dec32 0x3E99999A] = (0x7E, [7, 1]) := by decide +kernel

/-- The example after R87: the exact group sum is 2. -/
theorem test_group : enc32 (groupSum [(0, some (intN 1)), (1, some (intN 1)), (2, some (intN 1)), (3, some (intN 1))]
    fun k => some (intN ([16777216, 1, 1, -16777216].getD k 0))) = 0x40000000 := by decide +kernel

/-- The table of R90. -/
theorem test_exp_table : [0, 16, 32].map (fun i => enc32 (expTab i)) = [0x3F800000, 0x3F9837F0, 0x3FB504F3] := by decide +kernel

/-- The example after R90: e^−1 is 0.3678794 to seven digits, between 0.36787935 and 0.36787945. -/
theorem test_exp : 0x3EBC5AAF ≤ (exp32 0xBF800000).toNat ∧ (exp32 0xBF800000).toNat ≤ 0x3EBC5AB2 := by decide +kernel

/-- The seed of R91: g[0] is 0x3F7E03F8. -/
theorem test_rcp_seed : enc32 (rcpSeed 0) = 0x3F7E03F8 := by decide +kernel

/-- The example after R277: an ALLREDUCE over four contributions gives 1.0, over three 2.0. -/
theorem test_reduce : reduceTree 0 9 [[0x4B800000], [0x3F800000], [0x3F800000], [0xCB800000]] = ([0x3F800000], false) ∧
    reduceTree 0 9 [[0x4B800000], [0x40000000], [0xCB800000]] = ([0x40000000], false) := by decide +kernel

/-- The example after R456, in parts per million: 60,000, 4,000, 1,000 and 200 whole cycles, held as half cycles. -/
theorem test_life : consumedLife { Life.reset with hc0 := 120000, hc1 := 8000, hc2 := 2000, hc3 := 400 } = 147717 := by decide

/-- The example of R255: rotation strap 0b10 without the mirror strap is village 2. -/
theorem test_straps : strapVillage 2 false = some 2 := by decide

/-! ### Single steps -/

theorem test_add_wraps : (match exec (.scalarAdd w_c ⟨3, 1, 2, 0, 0⟩) (w_one { w_x with regs := [(1, 0xFFFFFFFFFFFFFFFF), (2, 2)] }) with
    | .next t => some ((t.ctx w_c).reg 3, (t.ctx w_c).pos)
    | _ => none) = some (1, 1) := by decide +kernel

theorem test_add_same : (match exec (.scalarAdd w_c ⟨1, 1, 1, 0, 0⟩) (w_one { w_x with regs := [(1, 5)] }) with
    | .next t => some ((t.ctx w_c).reg 1)
    | _ => none) = some 10 := by decide +kernel

theorem test_reserved_bits_stop : (match exec (.scalarAdd w_c ⟨1, 1, 1, 0, 1⟩) (w_one { w_x with regs := [(1, 5)] }) with
    | .next t => some ((t.ctx w_c).reg 1, decide ((t.ctx w_c).run = .running))
    | _ => none) = some (5, false) := by decide +kernel

theorem test_idle : (match step State.reset with
    | .next t => some t.now
    | _ => none) = some 1 := by decide +kernel

theorem test_no_words (n w : Nat) : decodeTableWord n w = none := rfl

/-! ### The words of the crofts, field by field from their tables -/

/-- R45: NOP takes every other bit; END of class 0x01; class 0x02 is reserved. -/
theorem test_word_classes : decodeCroft w_c 0x300 = some (.nop w_c 0x300) ∧ decodeCroft w_c 0x001 = some (.endStream w_c 0) ∧
    decodeCroft w_c 0x002 = none := by decide +kernel

/-- R56: SUB of s1 and s2 to s3; DECREMENT AND BRANCH on s4, by −2; SOP 0x0A is reserved. -/
theorem test_word_scalar :
    decodeCroft w_c (0x08#128 ||| 1 <<< 8 ||| 3 <<< 14 ||| 1 <<< 19 ||| 2 <<< 24) = some (.scalarSub w_c ⟨3, 1, 2, 0, 0⟩) ∧
    decodeCroft w_c (0x09#128 ||| 5 <<< 8 ||| 4 <<< 12 ||| 0xFFFFFFFE#128 <<< 22) = some (.decrementAndBranch w_c ⟨4, 0, -2, 0⟩) ∧
    decodeCroft w_c (0x08#128 ||| 10 <<< 8) = none := by decide +kernel

/-- R201: an ATOMIC MIN of INT32 with FETCH at unit 7, the address in s5, 64 B, flag 9. -/
theorem test_word_dma :
    decodeCroft w_c (0x10#128 ||| 2 <<< 8 ||| 1 <<< 12 ||| 3 <<< 16 ||| 1 <<< 19 ||| 7 <<< 20 ||| 5 <<< 36 ||| 63 <<< 41 ||| 9 <<< 63 |||
      1#128 <<< 69) = some (.atomicMin w_c ⟨1, 3, true, 7, 5, 63, 9, true, 0⟩) := by decide +kernel

/-- R264: FWAIT for any of flags 1 and 63, which it clears. -/
theorem test_word_flags :
    decodeCroft w_c (0x18#128 ||| 2 <<< 8 ||| 1 <<< 10 ||| 1 <<< 11 ||| 2 <<< 12 ||| 1#128 <<< 75) =
      some (.fwait w_c ⟨true, true, 0x8000000000000002, 0⟩) := by decide +kernel

/-- R272, R273: RING of bell 1,023 of village 2 by 3; ALLREDUCE of INT32 from unit 1 to unit 2, 4 rows of 5 words, flag 6. -/
theorem test_word_bells :
    decodeCroft w_c (0x19#128 ||| 1 <<< 8 ||| 2 <<< 11 ||| 1023 <<< 13 ||| 3 <<< 25) = some (.ring w_c ⟨2, 1023, 3, 0⟩) ∧
    decodeCroft w_c (0x19#128 ||| 5 <<< 8 ||| 1 <<< 11 ||| 3 <<< 12 ||| 1 <<< 14 ||| 2 <<< 30 ||| 3 <<< 46 ||| 5 <<< 58 ||| 7 <<< 72 |||
      6#128 <<< 77 ||| 1#128 <<< 83) = some (.allreduce w_c ⟨3, 1, 2, 3, 5, 7, 6, true, 0⟩) := by decide +kernel

/-- R46: O-mode, 2:4, block bitmap, start from C, 32 × 48 × 64, operands at units 1, 2, 3 and 4, flag 5, HOLD. -/
theorem test_word_mma :
    decodeCroft w_c (0x20#128 ||| 2 <<< 8 ||| 10 <<< 10 ||| 11 <<< 14 ||| 1 <<< 18 ||| 1 <<< 20 ||| 2 <<< 22 ||| 1 <<< 24 ||| 2 <<< 33 |||
      3 <<< 42 ||| 1 <<< 51 ||| 2#128 <<< 67 ||| 3#128 <<< 83 ||| 4#128 <<< 99 ||| 5#128 <<< 115 ||| 1#128 <<< 122) =
      some (.mmaO w_c ⟨10, 11, 1, true, false, 2, 1, 2, 3, 1, 2, 3, 4, 5, false, true, 0⟩) := by decide +kernel

/-- R53, R54: EXP of FP32 to BF16 from unit 1 to unit 3, 128 elements. -/
theorem test_word_vec :
    decodeCroft w_c (0x28#128 ||| 10 <<< 8 ||| 12 <<< 14 ||| 1 <<< 18 ||| 1 <<< 22 ||| 2 <<< 38 ||| 3 <<< 54 ||| 1#128 <<< 70) =
      some (.exp w_c ⟨12, 1, 1, 2, 3, 1, 0, false, 0⟩) := by decide +kernel

/-- R127: a GATHER on table 200 of shard 300, 16 entries from unit 9, to the address in s6. -/
theorem test_word_glean :
    decodeCroft w_c (0x30#128 ||| 200 <<< 8 ||| 300 <<< 16 ||| 9 <<< 25 ||| 15 <<< 41 ||| 2 <<< 57 ||| 1 <<< 60 ||| 6#128 <<< 77) =
      some (.gleanGather w_c ⟨200, 300, 9, 15, false, true, 0, 6, 0, false, 0⟩) := by decide +kernel

/-- R100: SELECT of the first 8 above a threshold, 64 records from unit 1, no payload, at most 4 records at unit 2. -/
theorem test_word_sieve :
    decodeCroft w_c (0x38#128 ||| 1 <<< 10 ||| 8 <<< 12 ||| 1 <<< 25 ||| 64 <<< 41 ||| 2#128 <<< 80 ||| 4#128 <<< 96 ||| 3#128 <<< 112) =
      some (.sieveSelect w_c ⟨true, false, 8, 1, 64, 0, 0, 2, 4, 3, 0, false, 0⟩) := by decide +kernel

/-- An engine instruction in progress: a READ of croft 0 that writes units 0 to 3. -/
def w_eng : Engine where
  id := 0
  e := 0
  idx := 0
  kind := .dma
  instr := .dmaRead w_c w_dma
  reads := []
  writes := [⟨0, 256⟩]
  remote := none
  flag := some 63
  outside := false
  ready := false
  base := 0
  gate := none
  sent := none
  seq := 0
  stall := none
  issued := 0
  got := []

/-- Croft 0 with engine instructions in progress. -/
def w_busy (gs : List Engine) : State := w_croft fun x => { x with engines := gs, nextId := gs.length }

theorem witness_EngineIssue_waits :
    let s := w_busy [w_eng]
    canIssue s w_c = true ∧ lowest ((vecPlan .add w_vec).causes ++ windowCauses s w_c (vecPlan .add w_vec)) = none ∧
    mustWait s w_c (vecPlan .add w_vec) (relocated s w_c (vecPlan .add w_vec).reads)
      (relocated s w_c (vecPlan .add w_vec).writes) = true := by decide +kernel

theorem witness_EngineIssue_full :
    let s := w_busy (List.replicate 16 { w_eng with writes := [] })
    canIssue s w_c = true ∧ lowest ((dmaPlan s w_c w_dma .read).causes ++ windowCauses s w_c (dmaPlan s w_c w_dma .read)) = none ∧
    mustWait s w_c (dmaPlan s w_c w_dma .read) (relocated s w_c (dmaPlan s w_c w_dma .read).reads)
      (relocated s w_c (dmaPlan s w_c w_dma .read).writes) = true := by decide +kernel

/-- A reserved bit set and a range that leaves the local store: the lower cause stops the context. -/
theorem witness_EngineIssue_stops :
    let pl := vecPlan .add { w_vec with rsv := 1, zadr := 65535 }
    canIssue w_s w_c = true ∧ pl.causes ++ windowCauses w_s w_c pl ≠ [] ∧
    (lowest (pl.causes ++ windowCauses w_s w_c pl)).all (fun k => (pl.causes ++ windowCauses w_s w_c pl).contains k &&
      (pl.causes ++ windowCauses w_s w_c pl).all fun j => decide (k ≤ j)) = true := by decide +kernel

/-- A lookup list of one entry in unit 0; the output goes to unit 64. -/
def w_gl : GleanF := ⟨0, 0, 0, 0, false, false, 64, 0, 0, false, 0⟩

theorem witness_GatherIssue_glean : Passes w_s w_c (gleanPlan w_s w_c w_gl) ∧
    (relocated w_s w_c (gleanPlan w_s w_c w_gl).reads).all (lsSound w_s w_c.p) = true ∧
    scanCauses (enter w_s w_c (.gleanGather w_c w_gl) (gleanPlan w_s w_c w_gl) (relocated w_s w_c (gleanPlan w_s w_c w_gl).reads)
      (relocated w_s w_c (gleanPlan w_s w_c w_gl).writes)) w_c w_gl 2 = [] := by
  unfold Passes; decide +kernel

/-- One row of 64 B from unit 0 to unit 64. -/
def w_coll : CollF := ⟨0, 0, 64, 0, 16, 1, 0, false, 0⟩

theorem witness_GatherIssue_coll : Passes w_s w_c (collPlan false w_coll) ∧
    (relocated w_s w_c (collPlan false w_coll).reads).all (lsSound w_s w_c.p) = true ∧
    Passes w_s w_c (collPlan true w_coll) ∧
    (relocated w_s w_c (collPlan true w_coll).reads).all (lsSound w_s w_c.p) = true := by
  unfold Passes; decide +kernel

/-- Four records in unit 0, no payload, results from unit 64. -/
def w_sv : SieveF := ⟨false, false, 2, 0, 3, 32, 0, 64, 3, 1, 0, false, 0⟩

def w_entered (i : Instr) (pl : Plan) : State := enter w_s w_c i pl (relocated w_s w_c pl.reads) (relocated w_s w_c pl.writes)

theorem witness_GatherIssue_sieve : Passes w_s w_c (sievePlan w_s w_c false w_sv) ∧
    ((moveOn (startSieve (w_entered (.sieveSelect w_c w_sv) (sievePlan w_s w_c false w_sv)) w_c
      (w_s.croft w_c.p).nextId false w_sv) w_c).ctx w_c).run ≠ .stopped := by
  unfold Passes; decide +kernel

theorem witness_VecElementwise : isReduce .add = false ∧ w_vec.sfmt = 12 ∧ w_vec.dfmt = 12 ∧ VOp.add ≠ .scale ∧
    0 < vecLen w_vec ∧ ¬ (lsKey w_c.p (relocLo w_s w_c (unitRange w_vec.zadr (4 * vecLen w_vec))) ≤ 0) := by decide +kernel

/-! ### Atomics, adds and the lane pipeline -/

/-- Line 0 of slice 0 in the square cache. -/
def w_line : State := { w_s with sqc := [⟨0, 0, [], 0, 0, []⟩] }

theorem witness_AtomicsApply : isFloatAdd .add .int64 = false ∧ (w_line.ctx w_c).run ≠ .stopped ∧
    (match partAddr w_line (partAt w_line w_c.p) 120 with
      | .ok w => decide (w = ⟨0, 0, 120⟩)
      | .error _ => false) = true ∧
    addrCause w_line (partAddr w_line (partAt w_line w_c.p)) 120 = none ∧ biTracked w_line 0 120 .square = false ∧ lineWaits w_line 0 120 = none ∧ windowHeld w_line 0 120 = false ∧
    w_line.sqc.find? (fun l => l.p == 0 && l.line == 120 / 128) = some ⟨0, 0, [], 0, 0, []⟩ ∧
    (0#4).getLsbD (120 % 128 / 32) = false ∧ (⟨0, 0, [], 0, 0, []⟩ : SqLine).errs (120 % 128 / 8) 1 = [] ∧ w_line.found = [] := by
  decide +kernel

theorem witness_AddsStaged : (AtomTy.bf16 = .fp32 ∨ AtomTy.bf16 = .fp16 ∨ AtomTy.bf16 = .bf16) ∧
    relaxedAt w_s w_c = false ∧ addrCause w_s (partAddr w_s (partAt w_s w_c.p)) 62 = none ∧
    62 % atomSize .bf16 = 0 ∧ (w_s.ctx w_c).run ≠ .stopped ∧ stagedCount w_s (partAt w_s w_c.p) < stagingShare w_s := by
  decide +kernel

theorem witness_AddsStaged_applied : owed w_s (.epoch (7 : Fin 8) (1 : Fin 2)) = false ∧
    ((7 : Nat) ≠ (7 : Fin 8).val ∨ ((0 : Nat) = 0 ↔ (1 : Fin 2).val ≠ 0)) := by decide +kernel

def w_add (n : Nat) : Staged := ⟨0, 0, 0, n, 0, .fp32, 0⟩

theorem w_ended (l : List Staged) : stagedCount (modSlot w_s 0 0 fun x => { x with ended := l }) 0 = l.length := by
  simp [stagedCount, modSlot, modPart, setPart, State.part, Part.setSlot, Part.slot, w_s, w_one, tget, Slot.reset,
    Part.reset]

/-- The whole staging taken. -/
def w_full : State := modSlot w_s 0 0 fun x => { x with ended := List.replicate 1048576 (w_add 0) }

theorem witness_AddsStaged_full : relaxedAt w_full w_c = false ∧
    addrCause w_full (partAddr w_full (partAt w_full w_c.p)) 64 = none ∧ 64 % atomSize .fp32 = 0 ∧
    (w_full.ctx w_c).run ≠ .stopped ∧ stagingShare w_full ≤ stagedCount w_full (partAt w_full w_c.p) := by
  have hc : stagedCount w_full 0 = 1048576 := (w_ended _).trans List.length_replicate
  have hp : partAt w_full w_c.p = 0 := by decide +kernel
  have hs : stagingShare w_full = 1048576 := by decide +kernel
  exact ⟨by decide +kernel, by decide +kernel, by decide, by decide +kernel, Nat.le_of_eq (by rw [hp, hs, hc])⟩

/-- A matrix instruction of four chunks: one column pass of 16 columns and four blocks of 64 rows. -/
def w_run : MmaRun := ⟨0, .w, { w_mma with mt := 15 }, 0, 16384, 20480, 0, List.range 64, 0, 1, 0, 0, []⟩

/-- A bank that holds a chunk, or none. -/
def w_bank (chunk : Option Nat) : Bank := ⟨0, chunk, [], [], 0, 0, 0⟩

def w_mm (r : MmaRun) (front back : Bank) : State :=
  w_croft fun x => { x with mma := [r], front := front, back := back, engines := [{ w_eng with kind := .mma }] }

theorem witness_BanksAlternate_loads :
    let s := w_mm w_run (w_bank (some 0)) (w_bank none)
    nextLoad (s.croft 0) = some w_run ∧ bankPending (s.croft 0) (bankOf (s.croft 0) 1) = false ∧ w_run.lanes.Nodup ∧
      15 ∈ w_run.passLanes (w_run.pass (w_run.loaded / w_run.chunks)) ∧
      ∀ m ∈ w_run.passLanes (w_run.pass (w_run.loaded / w_run.chunks)),
        (w_run.laneBytes s 0 (w_run.loaded % w_run.chunks) (w_run.pass (w_run.loaded / w_run.chunks) * w_run.w + m)).length ≤ 1024 := by
  decide +kernel

theorem witness_BanksAlternate_waits :
    let r := { w_run with loaded := 2, issued := 0 }
    let s := w_mm r (w_bank (some 0)) (w_bank (some 1))
    nextLoad (s.croft 0) = some r ∧ bankPending (s.croft 0) (bankOf (s.croft 0) 2) = true := by decide +kernel

theorem witness_BanksAlternate_issues :
    let s := w_mm w_run (w_bank (some 0)) (w_bank none)
    nextIssue (s.croft 0) = some w_run ∧ (bankOf (s.croft 0) 0).chunk = some 0 ∧ setDraining (s.croft 0) w_run = false ∧
      laneParity (s.croft 0) w_run (w_bank (some 0)) w_run.issued = false := by decide +kernel

theorem witness_BanksAlternate_stalls :
    let r := { w_run with loaded := 0 }
    let s := w_mm r (w_bank none) (w_bank none)
    nextIssue (s.croft 0) = some r ∧ (bankOf (s.croft 0) 0).chunk ≠ some 0 := by decide +kernel

/-- The set of the third pair still holds the sums of the first. -/
theorem witness_BanksAlternate_drains :
    let r := { w_run with loaded := 3, issued := 2 }
    let s := w_mm r (w_bank (some 2)) (w_bank (some 1))
    nextIssue (s.croft 0) = some r ∧ (bankOf (s.croft 0) 2).chunk = some 2 ∧ setDraining (s.croft 0) r = true := by decide +kernel

theorem witness_BanksAlternate_parity :
    let b := { w_bank (some 0) with bad := [(1024 * 15 + 31, true)] }
    let s := w_mm w_run b (w_bank none)
    nextIssue (s.croft 0) = some w_run ∧ setDraining (s.croft 0) w_run = false ∧ laneParity (s.croft 0) w_run b w_run.issued = true ∧
      engineOf s 0 w_run.id = some { w_eng with kind := .mma } := by decide +kernel

theorem witness_SumsDrain :
    let r := { w_run with issued := 1 }
    let s := w_mm r (w_bank none) (w_bank none)
    (s.croft 0).mma.find? MmaRun.drainDue = some r ∧ drainParity (s.croft 0) r r.drained = false := by decide +kernel

theorem witness_EnginesRetire :
    let g := { w_eng with ready := true }
    let s := w_busy [g]
    engineOf s 0 0 = some g ∧ g.ready = true ∧ owed s (.engine (mkCtx 0 g.e) 0) = false ∧ armedAt s 0 = false ∧ (s.ctx (mkCtx 0 g.e)).wait = .none ∧
      g.e < 2 := by decide +kernel

/-- A context that holds an instruction, and the state in which an engine instruction of it, or another, issues again. -/
def w_held (i : Instr) : State := w_one { w_x with held := some i, since := 0 }

def w_freed (s : State) : State := setCtx s w_c { s.ctx w_c with held := none }

def w_waited (s : State) : State :=
  w_freed (bump s (ctrCroft w_c.p 5) (cyclesIn s w_c.p (s.now - (s.ctx w_c).since)))

theorem witness_EnginesRetire_held :
    let s := w_held (.dmaRead w_c w_dma)
    let u := w_waited s
    (s.ctx w_c).run = .running ∧ (s.ctx w_c).held = some (.dmaRead w_c w_dma) ∧ Passes u w_c (dmaPlan u w_c w_dma .read) ∧
      (w_s.ctx w_c).held = none := by unfold Passes; decide +kernel

theorem witness_EnginesRetire_runs :
    let a := w_waited (w_held (.atomicAdd w_c w_dma))
    let v := w_waited (w_held (.vecAdd w_c w_vec))
    let m := w_waited (w_held (.mmaA w_c w_mma))
    Passes a w_c (dmaPlan a w_c w_dma (.atomic .add)) ∧
      (relocated a w_c (dmaPlan a w_c w_dma (.atomic .add)).reads).all (lsSound a w_c.p) = true ∧
      Passes v w_c (vecPlan .add w_vec) ∧ (relocated v w_c (vecPlan .add w_vec).reads).all (lsSound v w_c.p) = true ∧
      Passes m w_c (mmaPlan m w_c .a w_mma) ∧ (relocated m w_c (mmaPlan m w_c .a w_mma).reads).all (lsSound m w_c.p) = true := by
  unfold Passes; decide +kernel

/-- A VEC that must still wait for an instruction in progress. -/
theorem witness_EnginesRetire_waits :
    let s := modCroft (w_held (.vecAdd w_c w_vec)) 0 fun x => { x with engines := [w_eng], nextId := 1 }
    let u := w_waited s
    (s.ctx w_c).held = some (.vecAdd w_c w_vec) ∧ canIssue u w_c = true ∧
      lowest ((vecPlan .add w_vec).causes ++ windowCauses u w_c (vecPlan .add w_vec)) = none ∧
      mustWait u w_c (vecPlan .add w_vec) (relocated u w_c (vecPlan .add w_vec).reads)
        (relocated u w_c (vecPlan .add w_vec).writes) = true := by decide +kernel

theorem witness_EnginesRetire_rings :
    let f : BellF := ⟨0, 255, 1, 0⟩
    let s := w_held (.ring w_c f)
    let u := w_freed s
    canIssue u w_c = true ∧ (u.ctx w_c).pos + 1 < (u.ctx w_c).count ∧ mustWait u w_c (syncPlan [] true) [] [] = false ∧ f.rsv = 0 ∧
      f.cnt ≠ 0 ∧ f.num.toNat ≤ 1023 ∧ bellOwner s f.vil.toNat f.num.toNat = some (partAt s w_c.p) ∧ s.bellQ = [] ∧
      tget zeroN s.bells (bellKey f.vil.toNat f.num.toNat) + f.cnt.toNat ≤ 0xFFFFFFFF := by decide +kernel

/-! ### Bells, semaphores, barriers and collectives -/

def w_bell (n : BitVec 12) : BellF := ⟨0, n, 1, 0⟩

theorem witness_CountsMove_rings : Ready w_s w_c ∧ (w_bell 255).rsv = 0 ∧ (w_bell 255).cnt ≠ 0 ∧ (w_bell 1023).num.toNat ≤ 1023 ∧
    bellOwner w_s (w_bell 1023).vil.toNat (w_bell 1023).num.toNat = some (partAt w_s w_c.p) ∧
    mustWait w_s w_c (syncPlan [] true) [] [] = false ∧ w_s.bellQ = [] ∧ tget zeroN w_s.bells 1023 + 1 ≤ 0xFFFFFFFF ∧ w_s.semQ = [] ∧
    (w_bell 511).vil = 0 ∧ (w_bell 511).num.toNat / 512 = partAt w_s w_c.p ∧ tget zeroN w_s.sems 511 + 1 ≤ 0xFFFFFFFF ∧
    (w_bell 1023).vil = 0 ∧ bellOwner w_s (villageOf w_c.p) 1023 = some (partAt w_s w_c.p) := ⟨w_ready, by decide +kernel⟩

theorem witness_CountsMove_held :
    let s := w_busy [{ w_eng with outside := true }]
    canIssue s w_c = true ∧ (s.ctx w_c).pos + 1 < (s.ctx w_c).count ∧ mustWait s w_c (syncPlan [] true) [] [] = true ∧
      bellOwner s 0 0 = some (partAt s w_c.p) := by decide +kernel

theorem witness_CountsMove_saturates :
    let s := { w_s with bells := [(0, 0xFFFFFFFF)] }
    canIssue s w_c = true ∧ ¬ tget zeroN s.bells (bellKey 0 0) + 1 ≤ 0xFFFFFFFF ∧ s.bellQ = [] ∧
      mustWait s w_c (syncPlan [] true) [] [] = false := by decide +kernel

/-- Contexts of croft 0 that wait. -/
def w_wait (w : Wait) : State := w_one { w_x with wait := w }

theorem witness_BarriersMeet_arrives : Passes w_s w_c (syncPlan [] true) ∧ armedAt w_s w_c.p = false ∧
    (⟨0, 3, 0, 0⟩ : BellF).rsv = 0 ∧ (⟨0, 3, 0, 0⟩ : BellF).num.toNat ≤ 3 := by unfold Passes; decide +kernel

theorem witness_BarriersMeet_releases :
    let s := setBar (w_wait (.barrier 3)) 0 0 3 ⟨0, 0, [0]⟩
    (s.slot 0 0).req = some w_req ∧ 0 < w_req.n ∧ w_req.n ≤ (barOf s 0 0 3).arrived.length ∧ s.twin.armed = none ∧
      (s.slot 0 0).staged = [] ∧ slotCtxs s 0 0 = [w_c] ∧ (s.ctx w_c).pos + 1 < (s.ctx w_c).count ∧ (s.ctx w_c).run = .running ∧
      (s.ctx w_c).wait = .barrier 3 := by decide +kernel

theorem witness_BarriersMeet_timeout : ((w_wait (.flags 1 true true)).ctx w_c).run = .running ∧
    ((w_wait (.flags 1 true true)).ctx w_c).wait = .flags 1 true true ∧ ((w_wait (.bell 0 1)).ctx w_c).wait = .bell 0 1 ∧
    ((w_wait (.sem 0 1)).ctx w_c).wait = .sem 0 1 ∧ (w_s.ctx w_c).wait = .none := by decide

/-- A request of two logical crofts in slot 0. -/
def w_two : State := modSlot w_s 0 0 fun x => { x with req := some { w_req with n := 2 } }

theorem witness_BarriersMeet_broken :
    let s := setBar w_two 0 0 3 ⟨0, 0, [0]⟩
    (barOf s 0 0 3).arrived ≠ [] ∧ (barOf s 0 0 3).arrived.length < reqN s 0 0 := by decide +kernel

def w_arr (p : Nat) : CollArr := ⟨p, p, 0, true, w_coll, 0, List.replicate 64 0⟩

def w_meet (running : Bool) (bytes : List Byte) (l : List CollArr) : State :=
  modSlot w_s 0 0 fun x => { x with coll := some ⟨0, 0, l, running, bytes, none⟩ }

theorem witness_BarriersMeet_collective :
    let s := modSlot w_two 0 0 fun x => { x with coll := some ⟨0, 0, [w_arr 0], false, [], none⟩ }
    (s.slot 0 0).coll = some ⟨0, 0, [w_arr 0], false, [], none⟩ ∧ [w_arr 0].length ≠ reqN s 0 0 := by decide +kernel

theorem witness_CollectivesMeet_forms :
    let s := w_meet false [] [w_arr 0]
    (s.slot 0 0).coll = some ⟨0, 0, [w_arr 0], false, [], none⟩ ∧ (s.slot 0 1).coll = none ∧ [w_arr 0].length = reqN s 0 0 ∧
      collMismatch (sortBy (·.lc) [w_arr 0]) = false ∧ (w_arr 0).reduce = true ∧
      shortOf (accrue s 0) 0 (collDemand [w_arr 0] (collResult [w_arr 0]).1.length) = none := by decide +kernel

theorem witness_CollectivesMeet_differs :
    let l := [w_arr 0, { w_arr 1 with reduce := false }]
    let s := modSlot w_two 0 0 fun x => { x with coll := some ⟨0, 0, l, false, [], none⟩ }
    (s.slot 0 0).coll = some ⟨0, 0, l, false, [], none⟩ ∧ (s.slot 0 1).coll = none ∧ l.length = reqN s 0 0 ∧
      collMismatch (sortBy (·.lc) l) = true := by decide +kernel

theorem witness_CollectivesMeet_delivers :
    let z : Coll := ⟨0, 0, [w_arr 0], true, List.replicate 64 1, none⟩
    let s := w_meet true (List.replicate 64 1) [w_arr 0]
    (s.slot 0 0).coll = some z ∧ z.running = true ∧ (z.arrs.map (·.p)).Nodup ∧ (∀ a ∈ z.arrs, a.p < 512) ∧
      z.bytes.length % 64 = 0 ∧ (∀ a ∈ z.arrs, (s.ctx (mkCtx a.p 0)).pos + 1 < (s.ctx (mkCtx a.p 0)).count) ∧
      ∀ a ∈ z.arrs, relocLo s (mkCtx a.p 0) (unitRange a.f.dadr z.bytes.length) + z.bytes.length ≤ Config.lsBytes := by decide +kernel

/-! ### Sieves -/

def w_rec (score : BitVec 32) (tag : BitVec 32) : BitVec 128 := score.zeroExtend 128 ||| (tag.zeroExtend 128 <<< 32)

def w_con (recs : List (BitVec 128)) (f : SieveF) : Contrib := ⟨0, 0, 0, false, f, 0, recs, [], []⟩

def w_round (l : List Contrib) : Round := ⟨0, 0, l, false, [], false, 0, 0, some 0, none⟩

def w_rounds (rs : List Round) : State := modSlot w_s 0 0 fun x => { x with rounds := rs }

def w_stall : Engine := { w_eng with kind := .sieve, instr := .sieveSelect w_c w_sv, stall := some 0 }

def w_stalled : State := w_croft fun x => { x with engines := [w_stall], c0 := { w_x with rounds := 1 } }

theorem witness_RankAndDeal : [(⟨w_rec 0x40000000 1, 0⟩ : Cand), ⟨w_rec 0x40000000 2, 0⟩][1]? = some ⟨w_rec 0x40000000 2, 0⟩ := by decide

theorem witness_SieveRoundsRun_free : sieveStalled w_stalled w_c = [w_stall] ∧ sieveOf w_stall.instr = some (w_sv, false) ∧
    canContribute w_stalled 0 0 0 ((w_stalled.ctx w_c).rounds - 1) = true ∧
    lsSound w_stalled w_c.p ⟨relocLo w_stalled w_c (recRange w_sv), (recRange w_sv).len⟩ = true ∧
    lsSound w_stalled w_c.p ⟨relocLo w_stalled w_c (payRange w_sv), (payRange w_sv).len⟩ = true := by decide +kernel

theorem witness_SieveRoundsRun_taken :
    let s := setSieve w_stalled 0 ⟨[(1, 0, 0), (2, 0, 0)]⟩
    sieveStalled s w_c = [w_stall] ∧ canContribute s 0 0 0 0 = false := by decide +kernel

/-- What every start of a round needs. -/
def w_starts (l : List Contrib) : Prop :=
  let s := w_rounds [w_round l]
  (s.slot 0 0).rounds.find? (fun r => !r.running) = some (w_round l) ∧ l.length = reqN s 0 0 ∧
    sieveBusy s (roundSieves s 0 (w_round l)) = false ∧
    comesFirst s 0 0 ((w_round l).doneAt.getD (w_round l).first) (roundSieves s 0 (w_round l)) = false ∧ sortBy (·.lc) l = l

theorem witness_SieveRoundsRun_lost :
    let a := { w_con [w_rec 0x40000000 1] w_sv with err := [(1, .double)] }
    w_starts [a] ∧ recordsLost [a] = true := by unfold w_starts; decide +kernel

theorem witness_SieveRoundsRun_executes :
    let a := w_con [w_rec 0x40000000 1, w_rec 0x3F800000 2] w_sv
    let s := w_rounds [w_round [a]]
    w_starts [a] ∧ a.err = [] ∧ roundMismatch [a] = false ∧ roundTooMany a.route (roundCands [a]) = false ∧
      roundInvalid a 1 [a] = false ∧
      shortOf (accrue s 0) 0 (sieveDemand (leadOf s 0) a [a] (roundCands [a]) (selectDeal a.f a.param 1 (roundCands [a]))
        (roundSieves s 0 (w_round [a]))) = none ∧
      ∀ i, i < 1 → ((selectDeal a.f a.param 1 (roundCands [a])).dealt.filter fun y => y.1 = i).length ≤ sieveCap a.f := by
  unfold w_starts; decide +kernel

theorem witness_SieveRoundsRun_overflows :
    let a := w_con [w_rec 0x40000000 1, w_rec 0x3F800000 2] { w_sv with dcap := 1 }
    w_starts [a] ∧ a.err = [] ∧ roundMismatch [a] = false ∧ roundTooMany a.route (roundCands [a]) = false ∧ roundInvalid a 1 [a] = false ∧
      ∃ i, i < 1 ∧ sieveCap a.f < ((selectDeal a.f a.param 1 (roundCands [a])).dealt.filter fun y => y.1 = i).length := by
  unfold w_starts; decide +kernel

theorem witness_SieveRoundsRun_repeats :
    let a := w_con [w_rec 0x40000000 1, w_rec 0x3F800000 1] w_sv
    w_starts [a] ∧ a.err = [] ∧ roundMismatch [a] = false ∧ roundTooMany a.route (roundCands [a]) = true := by
  unfold w_starts; decide +kernel

theorem witness_SieveRoundsRun_differs :
    let a := w_con [] w_sv
    let b := { w_con [] { w_sv with topk := 3 } with lc := 1, p := 1 }
    let s := modSlot w_two 0 0 fun x => { x with rounds := [w_round [a, b]] }
    (s.slot 0 0).rounds.find? (fun r => !r.running) = some (w_round [a, b]) ∧ [a, b].length = reqN s 0 0 ∧
      sieveBusy s (roundSieves s 0 (w_round [a, b])) = false ∧ comesFirst s 0 0 0 (roundSieves s 0 (w_round [a, b])) = false ∧
      sortBy (·.lc) [a, b] = [a, b] ∧ (∀ x ∈ [a, b], x.err = []) ∧ roundMismatch [a, b] = true := by
  decide +kernel

theorem witness_SieveRoundsEnd :
    let r := { w_round [] with running := true }
    ((w_rounds [r]).slot 0 0).rounds.find? (fun r => r.running) = some r ∧ ((w_rounds [r]).slot 0 0).req = some w_req ∧
      (∀ d ∈ r.deliver, ((w_rounds [r]).ctx (mkCtx d.p 0)).wait = .none) ∧ (w_rounds [r]).lsErr = [] := by decide

theorem witness_SieveRoundsEnd_timeout :
    let s := modCroft (w_rounds [w_round []]) 0 fun x => { x with engines := [{ w_stall with stall := none }] }
    (s.slot 0 0).rounds.find? (fun r => !r.running) = some (w_round []) ∧ (w_round []).contribs.length < reqN s 0 0 ∧
      slotCtxs s 0 0 = [w_c] ∧ (s.ctx w_c).run = .running ∧
      ((s.croft w_c.p).engines.any fun g => g.e == 0 && g.kind == .sieve) = true := by decide +kernel

/-! ### Gleaners -/

/-- Table 0 of slice 0: 65,536 rows of 32 FP32 elements. -/
def w_shard : Shard := { Shard.reset with valid := true, pitch := 3, rowsm1 := 65535 }

def w_table (s : State) : State := setShard s 0 0 w_shard

def w_glean : Engine := { w_eng with kind := .glean, instr := .gleanGather w_c w_gl }

/-- A GLEAN command of croft 0 with one NULL entry. -/
def w_cmd : GlCmd := ⟨0, 0, 0, 0, 0, [0x40000000], 2, false, false, w_shard, 4096, 0⟩

def w_gathers (g : Engine) (gl : List GlCmd) : State :=
  modSlice (w_table (w_busy [g])) 0 fun x => { x with gl := gl, glNext := gl.length }

theorem witness_GleansServed_takes :
    let s := w_gathers w_glean (List.replicate 31 { w_cmd with p := 1 })
    engineOf s w_c.p 0 = some w_glean ∧ gleanOf w_glean.instr = some (w_gl, 2) ∧ w_glean.e = w_c.e.val ∧ w_glean.ready = false ∧
      gleanShard s w_c w_gl = some (0, w_shard) ∧ heldBySlice s 0 w_c.p 0 = false ∧ (s.slice 0).gl.length < 32 ∧
      receiveCauses s w_c w_glean w_gl 2 (gleanList s w_c w_gl) = [] := by decide +kernel

theorem witness_GleansServed_stalled :
    let g := { w_glean with stall := some 0 }
    let s := w_gathers g []
    engineOf s w_c.p 0 = some g ∧ gleanShard s w_c w_gl = some (0, w_shard) ∧ heldBySlice s 0 w_c.p 0 = false ∧
      receiveCauses s w_c g w_gl 2 (gleanList s w_c w_gl) = [] ∧ g.stall.isSome = true := by decide +kernel

theorem witness_GleansServed_full :
    let s := w_gathers w_glean (List.replicate 32 { w_cmd with p := 1 })
    engineOf s w_c.p 0 = some w_glean ∧ gleanShard s w_c w_gl = some (0, w_shard) ∧ heldBySlice s 0 w_c.p 0 = false ∧
      32 ≤ (s.slice 0).gl.length ∧ w_glean.stall = none := by decide +kernel

/-- Unit 0 of slice 0 has a row of the interleaved region begun, and an access to its pair is queued. -/
def w_row (e : QEntry) (held : Bool) : State :=
  modSub (modSlice w_s 0 fun x => { x with glUnits := [(0, ⟨512, 0, some ⟨0, 0, 64⟩, none, []⟩)] }) 0 0 fun y =>
    { y with queue := [e], held := held }

def w_entry (off : Nat) (writes : Bool) : QEntry :=
  ⟨0, off, if writes then .write [5] false .source false else .read 32 0 .source [], .host, 0, false⟩

theorem witness_GleansServed_yields :
    let s := w_row (w_entry 0 true) false
    let r := w_row (w_entry 0 false) false
    let y := (s.slice 0).sub 0
    (tget glUnit0 (s.slice 0).glUnits 0).row = some ⟨0, 0, 64⟩ ∧ pairWaits s 0 0 0 = true ∧ pairWaits r 0 0 0 = true ∧
      y.stopped = false ∧ y.queue = [w_entry 0 true] ∧ (w_entry 0 true).pair s = some 0 ∧ (w_entry 0 true).writes = true ∧
      (w_entry 0 true).meets s ⟨0, 0, 64⟩ = true ∧ nextRow (s.slice 0) 0 = none ∧ s.queues = [] ∧ s.dev.evSent = false ∧
      (tget glUnit0 (w_s.slice 0).glUnits 47).row = none ∧ pairWaits w_s 0 3 47 = false ∧
      ((w_row (w_entry 0 true) true).slice 0).u0.stopped = true := by decide +kernel

theorem witness_BagsDelivered :
    let s := w_gathers w_glean [w_cmd]
    let v := accrue s (partAt s w_cmd.p)
    (s.slice 0).gl = w_cmd :: [] ∧ w_cmd.dsel = false ∧
      (∀ u, u < 48 → (tget glUnit0 (s.slice 0).glUnits u).part? w_cmd.k w_cmd.next = none) ∧ s.lsErr = [] ∧ shortOf v (partAt s w_cmd.p) (bagDemand v 0 w_cmd) = none ∧
      (bagsOf w_cmd.pool w_cmd.entries).getD w_cmd.next [] = [0x40000000] ∧ entNull 0x40000000 = true ∧ w_cmd.p < 512 ∧
      w_cmd.dest + w_cmd.next * outPitch w_cmd.shard + outPitch w_cmd.shard ≤ Config.lsBytes := by decide +kernel

/-- The activation bucket of slice 0 is empty. -/
def w_poor (s : State) : State := modPart s 0 fun x => { x with tokens := [(8, 49152000)] }

theorem witness_BagsDelivered_waits :
    let g := { w_cmd with entries := [0] }
    let s := w_poor (w_gathers w_glean [g])
    let u := accrue s (partAt s g.p)
    (s.slice 0).gl = g :: [] ∧ bagStopped s 0 g = false ∧ shortOf u (partAt s g.p) (bagDemand u 0 g) = some 8 := by
  decide +kernel

/-- Every sub-channel of the slice is held. -/
theorem witness_BagsDelivered_stopped :
    let g := { w_cmd with entries := [0] }
    let s := (List.range 4).foldl (fun s u => modSub s 0 u fun y => { y with held := true }) (w_gathers w_glean [g])
    (s.slice 0).gl = g :: [] ∧ bagStopped s 0 g = true ∧ g.k + 1 ≠ g.k := by decide +kernel

theorem witness_BagsDelivered_releases :
    let g := { w_eng with gate := some .d2d, stall := some 0 }
    let s := w_busy [g]
    let u := accrue s 0
    (match oldestWaiter (engineWaiters u 0 .d2d ++ (portWaiter u 0 .d2d).toList) with
      | some w => tokenWait u 0 w.demand == some 0
      | none => false) = true ∧
    (∀ q, q < 512 → partOf s q = some 0 → (s.croft q).engines.filter (fun h => h.gate = some .d2d) = if q = 0 then [g] else []) ∧
      partOf s 0 = some 0 ∧ s.link.portQ = [] ∧ g.instr = .dmaRead w_c w_dma ∧
      tokenWait u 0 (dmaDemand u w_c w_dma .read (BitVec.ofNat 64 g.base)) = some 0 := by decide +kernel

theorem witness_BagsDelivered_idle : (engineWaiters (accrue w_s 0) 0 .d2d).length = 0 ∧ (portWaiter (accrue w_s 0) 0 .d2d).isNone = true := by
  decide +kernel

/-! ### Slices -/

def w_after (i : Instr) (s : State) : State :=
  match exec i s with
  | .next t => t
  | _ => s

/-- A granule of fives at offset 0 of slice 0. -/
def w_fives : State := w_after (.sliceWrite 0 0 ⟨List.replicate 64 5, []⟩ false .croft) w_s

def w_loc : Loc := interleave SliceMap.reset 0

def w_at (s : State) (p off q : Nat) (l : Loc) : Bool :=
  match locate s p (sliceIndex s p) off with
  | .ok x => decide (x = (q, l))
  | .error _ => false

theorem witness_WordsCorrected_bits : 0 < 80 ∧ 79 < 80 := by decide

theorem witness_WordsCorrected_reads : (w_fives.slice 0).lost = false ∧ 0 % 32 = 0 ∧ w_at w_fives 0 0 0 w_loc = true ∧
    w_fives.sqc.find? (fun y => y.p == 0 && y.line == 0 / 128) = none ∧ (w_fives.slice 0).wcb = [] ∧ (w_fives.slice 0).mgb = [] ∧
    mustQueue w_fives 0 0 = none ∧ w_fives.found = [] ∧
    ∀ i, i < 4 → syndrome { w_loc with w := i }
      (wordAt w_fives (bankKey w_fives (routeRow w_fives 0 w_loc.k w_loc.row) { w_loc with w := i })) = 0 := by decide +kernel

theorem witness_SliceWrites_granule :
    let off := 1610612736 - 64
    (w_s.slice 0).lost = false ∧ (List.replicate 64 (5 : Byte)).length = 64 ∧ off % 64 = 0 ∧ off + 64 ≤ (w_s.slice 0).map.hc ∧
      w_at w_s 0 off 0 (interleave SliceMap.reset off) = true ∧
      w_s.sqc.find? (fun y => y.p == 0 && y.line == off / 128) = none ∧ biTracked w_s 0 off .croft = false ∧
      mustQueue w_s 0 off = none ∧ w_s.found = [] := by decide +kernel

theorem witness_SliceWrites_buffered : (w_s.slice 0).lost = false ∧ w_s.sqc.find? (fun y => y.p == 0 && y.line == 120 / 128) = none ∧
    biTracked w_s 0 120 .croft = false ∧ writeQueue w_s 0 120 = none ∧ w_s.found = [] ∧
    (w_s.slice 0).wcb = [] ∧ (w_s.slice 0).mgb = [] ∧ 120 % 8 = 0 ∧ (List.replicate 8 (1 : Byte)).length = 8 := by decide +kernel

theorem witness_SliceWrites_lost : ((modSlice w_s 0 fun x => { x with lost := true }).slice 0).lost = true := by decide

def w_wc : WcLine := ⟨0, 0x8001, [(0, 1), (127, 2)], 0, 0⟩

theorem witness_BuffersDrain_line :
    let s := modSlice w_s 0 fun x => { x with wcb := [w_wc] }
    (s.slice 0).wcb.find? (fun y => y.line == w_wc.line) = some w_wc ∧ 128 * w_wc.line + 128 ≤ (s.slice 0).map.hc ∧
      w_at s 0 (128 * w_wc.line) 0 w_loc = true ∧ w_wc.bad = 0 ∧ s.found = [] ∧
      (∀ w, w < 16 → mustQueue s 0 (128 * w_wc.line + 8 * w) = none) ∧ w_wc.valid.getLsbD 15 = true := by decide +kernel

def w_mg : MgWord := ⟨0, [(7, 1)], 0x80, 0, 0⟩

theorem witness_BuffersDrain_word :
    let s := modSlice w_fives 0 fun x => { x with mgb := [w_mg] }
    (s.slice 0).mgb.find? (fun y => y.word == w_mg.word) = some w_mg ∧ w_at s 0 (8 * w_mg.word) 0 w_loc = true ∧ w_mg.bad = 0 ∧
      classify w_loc (getWord s 0 w_loc) = .clean ∧ writeQueue s 0 (8 * w_mg.word) = none := by decide +kernel

def w_win (l : List (Nat × Nat)) (imbal : Nat) : Slice := { Slice.reset with gran := l, imbal := imbal }

theorem witness_BanksKept_windows :
    (let x := w_win [(0, 2), (1, 2)] 0
     ∀ u, u < 4 → 2 * tget zeroN x.gran u ≤ tget zeroN x.gran 0 + tget zeroN x.gran 1 + tget zeroN x.gran 2 + tget zeroN x.gran 3) ∧
    (let x := w_win [(0, 199999), (1, 1)] 98
     (∃ u, u < 4 ∧ tget zeroN x.gran 0 + tget zeroN x.gran 1 + tget zeroN x.gran 2 + tget zeroN x.gran 3 < 2 * tget zeroN x.gran u) ∧
     subPeak (x.sub 0) + subPeak (x.sub 1) + subPeak (x.sub 2) + subPeak (x.sub 3) ≤ 20 * (199999 + 1) ∧ x.imbal + 1 < 100) := by
  decide +kernel

/-- Sub-channel 0 of slice 0 with accesses queued. -/
def w_queued (l : List QEntry) : State := modSub w_s 0 0 fun y => { y with queue := l }

theorem witness_BanksKept_queue :
    let s := w_queued [w_entry 0 false]
    let y := (s.slice 0).sub 0
    (Slice.reset.sub 3).queue = [] ∧ ({ SubCh.reset with tries := 1 } : SubCh).stopped = true ∧ y.queue = w_entry 0 false :: [] ∧
      (w_entry 0 false).untold = false ∧ (w_entry 0 false).windowed s = false ∧ y.stopped = false ∧ (w_entry 0 false).fails s = false ∧
      awaitsResend y (w_entry 0 false).p (w_entry 0 false).off = false ∧
      ((w_entry 0 false).bank s).all (fun k => (openRow s 0 k).isNone) = true ∧
      (List.replicate 64 (w_entry 0 false))[63]? = some (w_entry 0 false) := by decide +kernel

/-- The first access waits for the row that the gleaner of its pair has open, and the one behind it goes to another pair. -/
theorem witness_BanksKept_passes :
    let s := modSub (w_row (w_entry 0 true) false) 0 0 fun y => { y with queue := [w_entry 0 true, w_entry 4096 false] }
    let y := (s.slice 0).sub 0
    y.queue = [w_entry 0 true] ++ w_entry 4096 false :: [] ∧ canServe s 0 0 [] false (w_entry 0 true) = false ∧
      canServe s 0 0 [w_entry 0 true] false (w_entry 4096 false) = true ∧ (w_entry 4096 false).fails s = false := by decide +kernel

theorem witness_BanksKept_refresh :
    let x := { Slice.reset with refPend := [(95, 3)] }
    logicRails { w_s with now := 8000000 } = true ∧ logicRails w_s = false ∧ (x.sub 3).width ≠ .retired ∧ tget zeroN x.refPend (8 * 11 + 7) < 4 ∧
    bankWaits (w_queued [w_entry 0 false]) 0 w_loc.k = true ∧ bankWaits w_s 0 95 = false ∧
    4 ≤ tget zeroN [(95, 4)] (8 * 11 + 7) ∧ ({ SubCh.reset with width := .retired } : SubCh).width = .retired := by decide +kernel

theorem witness_BanksKept_tile : tget zeroN w_s.therm.coolAt 191 = 0 ∧ tget zeroN [(191, 1)] 191 ≠ 0 := by decide

/-! ### Vertical links and ports -/

/-- A command of BANK_ACT to no address: its CRC-8, and the same word with one bit of it inverted. -/
theorem witness_LinksTested_errors :
    let y := { SubCh.reset with tries := 2, resend := [(0, 0, [], false)] }
    cmdGood 1 = false ∧ SubCh.reset.width ≠ .retired ∧ SubCh.reset.held = false ∧ SubCh.reset.tries < 2 ∧ 2 ≤ y.tries ∧
      y.resend = [(0, 0, [], false)] ∧ (∃ l ∈ (List.range 15).map (· + 320), l ∉ y.suspect) ∧ ∃ l ∈ linksOf y.width, l ∉ y.suspect := by
  decide +kernel

theorem witness_LinksTested_states : ({ SubCh.reset with width := .retired } : SubCh).width = .retired ∧ SubCh.reset.width ≠ .retired ∧
    (∃ l ∈ [(5 : Fin 336)], l.val ∉ SubCh.reset.suspect) ∧ SubCh.reset.held = false ∧ SubCh.reset.clkSp = false ∧
    ({ SubCh.reset with held := true } : SubCh).held = true ∧ SubCh.reset.resend = [] ∧ w_s.queues = [] ∧ w_s.dev.evSent = false ∧
    (w_s.croft 0).mig = false ∧ ((w_croft fun x => { x with mig := true }).croft 0).mig = true := by decide +kernel

theorem witness_LinksTested_spare : 319 < 320 ∧ inWidth SubCh.reset.width 319 = true ∧ 319 ∉ SubCh.reset.badLink ∧
    SubCh.reset.spUsed.getLsbD (linkGroup 319) = false := by decide

theorem witness_LinksTested_fold :
    let y := { SubCh.reset with spUsed := 1 }
    0 < 320 ∧ inWidth y.width 0 = true ∧ 0 ∉ y.badLink ∧ y.spUsed.getLsbD (linkGroup 0) = true ∧ y.width = .full ∧ y.badLink = [] := by
  decide

theorem witness_LinksTested_retire :
    let y := { SubCh.reset with spUsed := 1, width := .foldL }
    inWidth y.width 31 = true ∧ 31 ∉ y.badLink ∧ y.spUsed.getLsbD (linkGroup 31) = true ∧ y.width ≠ .full := by decide

theorem witness_LinksTested_eyes : ∀ x ∈ [((335 : Fin 336), (11 : Fin 12), (1 : Fin 2), 35, (-3 : Int))], 35 ≤ x.2.2.2.1 := by decide

theorem witness_LinksTested_clock : SubCh.reset.width ≠ .retired ∧ SubCh.reset.clkSp = false ∧ evEn State.reset.dev = false ∧
    SubCh.reset.held = false := by decide

/-- Port 3 has confirmed its village; one group of it is suspect. -/
def w_ports (g : Group) : State :=
  modGroup (setPort State.reset 3 { State.reset.port 3 with trained := true, idOk := true }) 3 1 15 fun _ => g

theorem witness_PortsCarry_open : groupOpen (w_ports Group.reset) 3 1 15 = true ∧ (w_ports Group.reset).dev.fatal = false ∧
    ({ Group.reset with nak := some 0 } : Group).nak = some 0 ∧ Group.reset.nak ≠ some 1 := by
  decide +kernel

/-- A frame of zeros under the check lane's bits `c`. -/
def w_frame (c : BitVec 32) : BitVec 2080 := c ++ (0 : BitVec 2048)

theorem w_frame_data (c : BitVec 32) : (w_frame c).extractLsb' 0 2048 = 0 := BitVec.extractLsb'_append_eq_right

theorem w_frame_check (c : BitVec 32) : (w_frame c).extractLsb' 2048 32 = c := BitVec.extractLsb'_append_eq_left

theorem witness_PortsCarry_frames :
    (let f := w_frame (crc32c (frameBytes 0)); crc32c (frameBytes (f.extractLsb' 0 2048)) = f.extractLsb' 2048 32) ∧
    (let f := w_frame (crc32c (frameBytes 0) + 1); crc32c (frameBytes (f.extractLsb' 0 2048)) ≠ f.extractLsb' 2048 32) := by
  constructor
  · intro f
    rw [w_frame_data, w_frame_check]
  · intro f h
    rw [w_frame_data, w_frame_check] at h
    bv_omega

theorem witness_PortsCarry_retrains :
    let s := w_ports { Group.reset with train := true }
    (s.port 3).lost = false ∧ ((s.port 3).group 1 15).retired = false ∧ ((s.port 3).group 1 15).train = true ∧
      groupFree s 3 1 14 = false ∧ ((w_ports Group.reset).port 3).lost = false ∧
      ∀ h, h < 16 → (((w_ports Group.reset).port 3).group 1 h).train = false := by decide +kernel

theorem witness_PortsCarry_trains :
    let s := { State.reset with boot := { Boot.reset with stage := .train } }
    s.boot.stage = .train ∧ (s.port 3).trained = false ∧ strapVillage 2 true = some 3 := by decide

theorem witness_PortsCarry_bells : evEn State.reset.dev = false ∧ tget zeroN (State.reset.port 0).bellBad 0 = 0 ∧
    tget zeroN [(1, 1)] 1 < 2 := by decide

theorem witness_PortsCarry_reeves : State.reset.dev.fatal = false ∧ evEn State.reset.dev = false ∧ (15 : Fin 16) ≠ 0 ∧
    State.reset.reeve 15 = .healthy ∧ State.reset.cmds = [] ∧ (setReeve State.reset 15 .halted).reeve 15 = .halted := by decide

/-! ### Commands and lock-step -/

def w_pkt (op part rest : Nat) : BitVec 512 := BitVec.ofNat 512 (op + part * 2 ^ 64 + rest)

/-- A checked command, the first of its partition's order, with its packet's fields beyond opcode and partition. -/
def w_k (op rest : Nat) : Cmd := ⟨1, 0, w_pkt op 0 rest, [], .checked, 0, 0, none, [], 0, 0, [], none, none, none, 0, 0, false, false⟩

/-- Partition 0 with no request, and commands. -/
def w_cmds (cs : List Cmd) : State := { w_s with
  cmds := cs
  nextCmd := 2
  parts := [(0, { Part.reset with adm := [1] })] }

def w_linked (t : Twin) (s : State) : State := { s with twin := { t with linkUp := true } }

theorem witness_LockstepArms_arms :
    let s := w_linked Twin.reset (w_cmds [w_k 0x0901 0])
    deviceTurn s 1 0x0901 = some (w_k 0x0901 0) ∧ (tget ptabReset s.ptab (pktPart (w_k 0x0901 0).pkt)).clean = true ∧
      pentRelaxed (s.pent (pktPart (w_k 0x0901 0).pkt)) = false ∧ admitted s (pktPart (w_k 0x0901 0).pkt) = [] ∧ s.twin.linkUp = true ∧
      s.twin.arming = none ∧ s.twin.armed = none ∧ s.twin.level = none := by decide +kernel

theorem witness_LockstepArms_unlinked : deviceTurn (w_cmds [w_k 0x0901 0]) 1 0x0901 = some (w_k 0x0901 0) ∧
    (w_cmds [w_k 0x0901 0]).twin.linkUp = false := by decide +kernel

theorem witness_LockstepArms_relaxed :
    let s := { w_cmds [w_k 0x0901 0] with ptab := [(0, Tri.same (ptabRates ||| 0xFFFF03#256))] }
    deviceTurn s 1 0x0901 = some (w_k 0x0901 0) ∧ (tget ptabReset s.ptab 0).clean = true ∧ pentRelaxed (s.pent 0) = true := by
  decide +kernel

theorem witness_LockstepArms_disarms :
    let s := w_linked { Twin.reset with armed := some 0 } (w_cmds [w_k 0x0902 0])
    deviceTurn s 1 0x0902 = some (w_k 0x0902 0) ∧ s.twin.armed = some (pktPart (w_k 0x0902 0).pkt) := by decide +kernel

theorem witness_LockstepArms_answered :
    let s := w_linked { Twin.reset with arming := some (1, 0, 0) } (w_cmds [w_k 0x0901 0])
    s.twin.arming = some (1, 0, 0) ∧ (1 : BitVec 64) ≠ (if pentLevel (s.pent 0) then 1 else 2) ∧ computeOf s 0 0 = some 0 ∧
      s.now ≤ 0 + 1000000000 ∧ armBarred s 0 = false := by decide +kernel

theorem witness_LockstepArms_late :
    let s := { w_linked { Twin.reset with arming := some (1, 0, 0) } (w_cmds [w_k 0x0901 0]) with now := 1000000001 }
    s.twin.arming = some (1, 0, 0) ∧ 0 + 1000000000 < s.now ∧ armBarred { s with twin := { s.twin with linkUp := false } } 0 = true := by
  decide +kernel

/-- Partition 0 armed, its request paired with number 0. -/
def w_pair (t : Twin) : State := { w_s with
  twin := { t with linkUp := true, armed := some 0, cmds := [(0, 1, 0x0101)], nextK := 1 }
  cmds := [{ w_k 0x0101 0 with stage := .inSlot }] }

theorem witness_TwinsCompare_unarmed : w_s.twin.armed = none := by decide

theorem witness_TwinsCompare_opcodes :
    let s := w_pair Twin.reset
    s.twin.armed = some 0 ∧ s.twin.cmds.find? (fun x => x.1 == (0#32).toNat) = some ((0#32).toNat, 1, 0x0101) ∧
      (0x0101 : BitVec 16) = (0x0101#64).extractLsb' 0 16 ∧ (0x0101 : BitVec 16) ≠ (0x0102#64).extractLsb' 0 16 := by decide

theorem witness_TwinsCompare_hashes :
    let s := w_pair { Twin.reset with hashes := [(0, 5, [7])] }
    s.twin.armed = some 0 ∧ slotOfPair s 0 (0#32).toNat = some 0 ∧ s.twin.probing = none ∧
      hashesOf s.twin.hashes (0#32).toNat 5 = some [7] ∧ hashesOf s.twin.theirs (0#32).toNat 5 = none ∧ [(8 : BitVec 64)] ≠ [7] := by
  decide +kernel

theorem witness_TwinsCompare_fields :
    ourCrec (w_pair Twin.reset) (0#32).toNat = none ∧ (w_pair Twin.reset).twin.armed = some 0 ∧
      ourCrec (w_pair { Twin.reset with crecs := [(0, 1)] }) (0#32).toNat = some 1 ∧ (1 : BitVec 128) ≠ 2 := by decide

theorem witness_TwinsCompare_terms :
    let s := w_pair { Twin.reset with probing := some ⟨0, 0, 0, 0, 1, 0⟩ }
    s.twin.armed = some 0 ∧ s.twin.probing = some ⟨0, 0, 0, 0, 1, 0⟩ ∧ pairedCtx s 0 0 0 = some w_c ∧
      firstDiff (inRange (termsOf s w_c 1) 0 lastIndex) [(3, 0)] = some 3 := by decide +kernel

theorem witness_TwinsFail_paired :
    let s := w_pair Twin.reset
    s.twin.armed = some 0 ∧ (w_pair { Twin.reset with heldAt := some (0, 0) }).twin.heldAt = some (0, 0) ∧
      s.twin.heldAt = none ∧ pairCmd s (0#32).toNat = some 1 ∧ pairCmd s (1#32).toNat = none ∧ s.twin.nextK ≤ (1#32).toNat ∧
      pairedCtx s 0 (0#32).toNat (0#16).toNat = some w_c := by decide +kernel

theorem witness_TwinsFail_silent :
    let s := w_linked { Twin.reset with armed := some 0, waiting := some (0, 0), buffer := [twinMsg 8 0 []] } (w_cmds [])
    s.twin.armed = some 0 ∧ s.twin.waiting = some (0, 0) ∧ pairCmd s 0 = none ∧ 1 ≤ s.twin.buffer.length ∧
      pairCmd (w_pair { Twin.reset with waiting := some (0, 0) }) 0 = some 1 := by decide +kernel

theorem witness_TwinsFail_link : w_s.boot.rails = true ∧ (w_linked Twin.reset w_s).twin.linkUp = true ∧
    (w_linked Twin.reset w_s).twin.armed = none ∧ (w_pair Twin.reset).twin.armed.isSome = true := by decide

/-! ### Queue pairs -/

/-- Pair 0, enabled in host memory, with its configuration bits. -/
def w_q (cfg : BitVec 64) (en : Bool) : Queue := { Queue.reset with base := Tri.same ⟨en, 0, 0⟩, cfg := cfg }

def w_pairs (x : Queue) (s : State) : State := setQueue s 0 x

theorem witness_QueuePairsServe_doorbell :
    let s := w_pairs { w_q 0 true with cqtail := 15 } w_s
    (s.queue 0).base.clean = true ∧ (0x1000F#64).getLsbD 16 = true ∧ (0x1000F#64).getLsbD 48 = false ∧ qEn (s.queue 0) = true ∧
      ((0x1000F#64).extractLsb' 0 16).toNat < qSqSize (s.queue 0) ∧ (s.queue 0).hold = [] ∧ s.brought = [] ∧
      (0x1000F00000000#64).getLsbD 16 = false ∧ (0x1000F00000000#64).getLsbD 48 = true ∧
      ((0x1000F00000000#64).extractLsb' 32 16).toNat < qCqSize (s.queue 0) ∧
      (((0x1000F00000000#64).extractLsb' 32 16).toNat + qCqSize (s.queue 0) - (s.queue 0).cqhead) % qCqSize (s.queue 0) ≤
        cqUsed (s.queue 0) := by decide +kernel

theorem witness_QueuePairsServe_fault : (w_s.queue 4095).base.clean = true ∧ w_s.brought = [] ∧ (0#64).getLsbD 16 = false ∧ (0#64).getLsbD 48 = false ∧ (0x10000#64).getLsbD 16 = true ∧
    qEn (w_s.queue 4095) = false ∧ (0x10010#64).getLsbD 16 = true ∧
    qSqSize ((w_pairs (w_q 0 true) w_s).queue 0) ≤ ((0x10010#64).extractLsb' 0 16).toNat ∧
    (let x := (w_pairs (w_q 0 true) w_s).queue 0
     (0x1000100000000#64).getLsbD 48 = true ∧
       cqUsed x < (((0x1000100000000#64).extractLsb' 32 16).toNat + qCqSize x - x.cqhead) % qCqSize x ∧
       qCqSize x ≤ ((0x1001000000000#64).extractLsb' 32 16).toNat) := by decide +kernel

/-- Partition 1 exists, at contract level 1, and holds no hamlet. -/
def w_level1 (s : State) : State := { s with ptab := [(1, Tri.same (ptabRates ||| 5))] }

theorem witness_QueuePairsServe_enable :
    let s := w_pairs (w_q 0xCC00 false) w_s
    (s.queue 0).base = Tri.same ⟨false, 0, 0⟩ ∧ ((s.queue 0).cfg.extractLsb' 8 4).toNat ≤ 12 ∧
      ((s.queue 0).cfg.extractLsb' 12 4).toNat ≤ 12 ∧ (∀ k, k < 8 → (tget ptabReset s.ptab k).clean = true) ∧ s.brought = [] ∧ mixedLevels s (s.queue 0) = false ∧ qSqDev (s.queue 0) = false ∧
      qCqDev (s.queue 0) = false := by decide +kernel

theorem witness_QueuePairsServe_mixed :
    let s := w_level1 (w_pairs (w_q 0x30000 false) w_s)
    mixedLevels s (s.queue 0) = true ∧ s.brought = [] ∧ (∀ k, k < 8 → (tget ptabReset s.ptab k).clean = true) ∧ ((s.queue 0).cfg.extractLsb' 8 4).toNat ≤ 12 ∧
      ((s.queue 0).cfg.extractLsb' 12 4).toNat ≤ 12 := by decide +kernel

theorem witness_QueuePairsServe_disable :
    let s := w_pairs (w_q 0 true) w_s
    (s.queue 0).base = Tri.same ⟨true, 0, 0⟩ ∧ (s.queue 0).closing = false ∧ (s.queue 0).faulted = false ∧ (s.queue 0).hold = [] ∧
      (s.queue 0).stallAt = none ∧ s.cmds = [] := by decide

theorem witness_QueuePairsServe_coalesce : 0 < ({ w_q (1 <<< 48) true with unsig := 1 } : Queue).unsig ∧
    0 < qCoalUs (w_q (1 <<< 48) true) ∧ linkHeld { w_s with link := { Link.reset with up := true } } = false ∧
    linkHeld { w_s with link := { Link.reset with width := 16 } } = true := by decide

theorem witness_PairsTakeOneLevel :
    let s := w_level1 (w_pairs (w_q 0x30000 false) w_s)
    (s.queue 0).base = Tri.same ⟨false, 0, 0⟩ ∧ ((s.queue 0).cfg.extractLsb' 8 4).toNat ≤ 12 ∧
      ((s.queue 0).cfg.extractLsb' 12 4).toNat ≤ 12 ∧ (qMask (s.queue 0)).getLsbD 1 = true ∧ (qMask (s.queue 0)).getLsbD 0 = true ∧
      pentLevel (s.pent 1) = true ∧ pentLevel (s.pent 0) = false := by decide +kernel

theorem witness_PairsTakeOneLevel_lengths :
    let s := w_level1 w_s
    qMask (w_q 0 true) = 0 ∧ (∀ k, k < 8 → (qMask (w_q 0x10000 true)).getLsbD k = true → pentLevel (s.pent k) = false) ∧
      qMask (w_q 0x20000 true) ≠ 0 ∧
      (∀ k, k < 8 → (qMask (w_q 0x20000 true)).getLsbD k = true → pentValid (s.pent k) = true ∧ pentLevel (s.pent k) = true) := by
  decide +kernel

def w_crec (status : BitVec 16) (noirq : Bool) : CRec := ⟨1, 0, status, 0, false, false, 0, 0, 0, noirq⟩

theorem witness_PairsSignal :
    let x := { w_q (1 <<< 35 ||| 1 <<< 40 ||| 1 <<< 48) true with unsig := 1 }
    qIen x = true ∧ (w_crec 1 false).status ≠ 0 ∧ (w_crec 0 true).status = 0 ∧ (w_crec 0 true).noirq = true ∧
      (w_crec 0 false).noirq = false ∧ qCoalCnt x + 1 ≤ x.unsig + 1 ∧ 0 < x.unsig ∧ 0 < qCoalUs x ∧
      ({ x with unsig := 0 } : Queue).unsig + 1 < qCoalCnt x + 1 := by decide

/-! ### Commands -/

theorem witness_CommandsTaken_stall :
    let s := { w_pairs { w_q 0x10000 true with sqtail := 1, cqtail := 15 } w_s with link := { Link.reset with up := true } }
    mayFetch s 0 = true ∧ (s.queue 0).base.clean = true ∧ hasEntry s 0 = false := by decide +kernel

/-- A MEM_FILL of 64 B at partition address 0. -/
def w_fill : BitVec 512 := w_pkt 0x0202 0 (64 * 2 ^ 192 + 5 * 2 ^ 256)

theorem witness_CommandsTaken_fetch :
    let s := { w_pairs { w_q 0x10000 true with sqtail := 1 } w_s with link := { Link.reset with up := true } }
    mayFetch s 0 = true ∧ hasEntry s 0 = true ∧ qSqDev (s.queue 0) = false ∧ s.link.ide ≠ .insecure ∧ pktField w_fill 9 1 % 4 = 0 ∧
      (s.queue 0).base.clean = true ∧ checkCmd s (s.queue 0) w_fill [] = none ∧ reeveErrs s (servedBy s 0) = [] ∧ s.fwErr = [] ∧
      (tget ptabReset s.ptab (pktPart w_fill)).clean = true ∧ s.sqc = [] := by decide +kernel

theorem witness_CommandsTaken_runs : waitingCmd (w_cmds [w_k 0x0101 0]) 1 0x0101 = some (w_k 0x0101 0) ∧
    waitingCmd (w_cmds [w_k 0x0102 0]) 1 0x0102 = some (w_k 0x0102 0) := by decide +kernel

/-- Partition 0 with a table region of 64 KiB a bank and a session pool of 16 units, slice 0 mapped so, 64 B of fives at offset 0. -/
def w_room (cs : List Cmd) : State :=
  let s := { w_cmds cs with ptab := [(0, Tri.same (ptabRates ||| 0xFFFF01#256 ||| (1#256 <<< 64) ||| (16#256 <<< 96)))] }
  let s := modSlice s 0 fun x => { x with map := ⟨0xF, 1, 16, 0⟩ }
  w_after (.sliceWrite 0 0 ⟨List.replicate 64 5, []⟩ false .reeve) s

/-- Command `c` begins in a state. -/
def w_may (s : State) (c : Cmd) (op : Nat) : Bool :=
  (tget ptabReset s.ptab (pktPart c.pkt)).clean && !c.waits && !appendWaits s c && (waitingCmd s c.id op == some c) && mayBegin s c && pentValid (s.pent (pktPart c.pkt)) && !(s.part (pktPart c.pkt)).clearDue &&
    (s.twin.armed != some (pktPart c.pkt)) && (List.range 4).all fun v => !tget zeroB s.therm.warmhold v

theorem w_beginsAt (s : State) (c : Cmd) (op : Nat) (h : w_may s c op = true) : Begins s c op := by
  simp only [w_may, Bool.and_eq_true, Bool.not_eq_true', beq_iff_eq, bne_iff_ne, List.all_eq_true, List.mem_range] at h
  obtain ⟨⟨⟨⟨⟨⟨⟨⟨h1, h2⟩, h3⟩, h4⟩, h5⟩, h6⟩, h7⟩, h8⟩, h9⟩ := h
  exact ⟨h1, h2, h3, h4, h5, h6, h7, h8, h9⟩

theorem w_begins (c : Cmd) (op : Nat) (h : w_may (w_room [c]) c op = true) : Begins (w_room [c]) c op := w_beginsAt _ c op h

def w_filling : Cmd := { w_k 0x0202 0 with pkt := w_fill }

theorem witness_DataCommands_fill : Begins (w_room [w_filling]) w_filling 0x0202 ∧
    reachable (begun (w_room [w_filling]) w_filling) 0 (pktField w_fill 16 8) (pktField w_fill 24 8) = pktField w_fill 24 8 :=
  ⟨w_begins _ _ (by decide +kernel), by decide +kernel⟩

/-- A MEM_COPY of 64 B from partition address 0 to 4,096. -/
def w_copying : Cmd := w_k 0x0203 (4096 * 2 ^ 192 + 64 * 2 ^ 256)

theorem witness_DataCommands_copy : Begins (w_room [w_copying]) w_copying 0x0203 ∧ w_copying.data = none ∧
    0 < pktField w_copying.pkt 32 8 ∧ spaceOf (BitVec.ofNat 64 (pktField w_copying.pkt 16 8)) = 0 ∧
    spaceOf (BitVec.ofNat 64 (pktField w_copying.pkt 24 8)) = 0 ∧ rangesMeet 0 4096 64 true = false ∧
    readWaits (begun (w_room [w_copying]) w_copying) (viaPart 0) 0 64 (.command 1) = [] ∧
    (let r := fetchVia (begun (w_room [w_copying]) w_copying) (viaPart 0) 0 64 0 (.command 1)
     let v := dropBrought r.2 (.command 1)
     (r.1.map List.length) = some 64 ∧ reachable v 0 4096 64 = 64) :=
  ⟨w_begins _ _ (by decide +kernel), by decide +kernel⟩

/-- The sub-channels of slice 0 are held, so a reeve's read of it waits. -/
def w_stuck (s : State) : State := (List.range 4).foldl (fun s u => modSub s 0 u fun y => { y with held := true }) s

theorem witness_DataCommands_waits :
    let s := w_stuck (w_room [w_copying])
    Begins s w_copying 0x0203 ∧ (fetchVia (begun s w_copying) (viaPart 0) 0 64 0 (.command 1)).1 = none :=
  ⟨w_beginsAt _ _ _ (by decide +kernel), by decide +kernel⟩

/-- A LOAD_TABLE of one row of 32 elements of a row format as table 0, its window at the start of the table region, from partition address 0. -/
def w_load (rfmt : Nat) : Cmd := w_k 0x0201 (1604321280 * 2 ^ 192 + rfmt * 2 ^ 296 + 522240 * 2 ^ 320)

theorem witness_DataCommands_noTable : Begins (w_room [w_load 0]) (w_load 0) 0x0201 ∧ (w_load 0).data = none ∧
    loadTarget (begun (w_room [w_load 0]) (w_load 0)) 0 0 (newShard (begun (w_room [w_load 0]) (w_load 0)) 0 (w_load 0).pkt 0) = none :=
  ⟨w_begins _ _ (by decide +kernel), by decide +kernel⟩

theorem witness_DataCommands_table :
    let c := w_load 3
    let u := begun (w_room [c]) c
    let r := fetchVia u (viaPart 0) 0 (tableBytes c.pkt) 0 (.command 1)
    let w := dropBrought r.2 (.command 1)
    let d := newShard w 0 c.pkt 0
    Begins (w_room [c]) c 0x0201 ∧ c.data = none ∧ loadTarget u 0 0 (newShard u 0 c.pkt 0) = some 0 ∧ pktField c.pkt 37 1 % 16 ≠ 15 ∧
      0 < tableBytes c.pkt ∧ spaceOf (BitVec.ofNat 64 (pktField c.pkt 16 8)) = 0 ∧
      (match r.1 with
        | some bs => (bs.all fun b => !b.2) && reachable (dropLost (setShard w 0 0 d) fun w => lostKind w == 0 && lostPart w == 0 && lostTid w == 0)
            0 d.wbase.toNat bs.length == bs.length
        | none => false) = true := ⟨w_begins _ _ (by decide +kernel), by decide +kernel⟩

theorem witness_DataCommands_tableWaits :
    let c := w_load 3
    let s := w_stuck (w_room [c])
    let u := begun s c
    Begins s c 0x0201 ∧ loadTarget u 0 0 (newShard u 0 c.pkt 0) = some 0 ∧
      (fetchVia u (viaPart 0) 0 (tableBytes c.pkt) 0 (.command 1)).1 = none := ⟨w_beginsAt _ _ _ (by decide +kernel), by decide +kernel⟩

/-- SESSION_OPEN of slot 0 with one layer and one head, Dh 64, E4M3, one block. -/
def w_open (caps : Nat) : Cmd := w_k 0x0301 (2 ^ 16 + caps * 2 ^ 160)

theorem witness_SessionsServed_opens : Begins (w_room [w_open 0]) (w_open 0) 0x0301 ∧
    slotTaken (begun (w_room [w_open 0]) (w_open 0)) 0 = false ∧ sessFits (geomOf 0 (w_open 0).pkt) = true ∧
    poolAlloc (begun (w_room [w_open 0]) (w_open 0)) 0 (sessExt (begun (w_room [w_open 0]) (w_open 0)) 0 (geomOf 0 (w_open 0).pkt)) = some 1 :=
  ⟨w_begins _ _ (by decide +kernel), by decide +kernel⟩

theorem witness_SessionsServed_full : Begins (w_room [w_open 7]) (w_open 7) 0x0301 ∧
    slotTaken (begun (w_room [w_open 7]) (w_open 7)) 0 = false ∧ sessFits (geomOf 0 (w_open 7).pkt) = true ∧
    poolAlloc (begun (w_room [w_open 7]) (w_open 7)) 0 (sessExt (begun (w_room [w_open 7]) (w_open 7)) 0 (geomOf 0 (w_open 7).pkt)) = none :=
  ⟨w_begins _ _ (by decide +kernel), by decide +kernel⟩

/-- A state in which a command begins, beside the room of `w_room`. -/
def w_with (c : Cmd) (x : Sess) : State := setSes (w_room [c]) 0 x

theorem w_beginsWith (c : Cmd) (x : Sess) (op : Nat) (h : w_may (w_with c x) c op = true) : Begins (w_with c x) c op :=
  w_beginsAt _ c op h

def w_ses : Sess := { Sess.reset with state := 1, poff := 1, ext := 2 }

theorem witness_SessionsServed_taken : Begins (w_with (w_open 0) w_ses) (w_open 0) 0x0301 ∧
    slotTaken (begun (w_with (w_open 0) w_ses) (w_open 0)) 0 = true := ⟨w_beginsWith _ _ _ (by decide +kernel), by decide +kernel⟩

/-- A SESSION_OPEN whose pages are zero and whose record is next. -/
theorem witness_SessionsServed_opened :
    let c := { w_open 0 with stage := .finished, post := some (0, w_ses) }
    let s := { w_pairs (w_q 0x10000 true) (w_cmds [c]) with
      link := { Link.reset with reqs := [⟨3, false, .itoMWr, 4096, true, 32, [], false, .record 0, 0, false⟩] } }
    cmdBy s c.id = some c ∧ c.stage = .finished ∧ c.status = 0 ∧ c.done = none ∧ c.post = some (0, w_ses) ∧ pktSession c.pkt = 0 ∧
      cmdQuiet s c = true ∧ pairOf s c.id = none ∧ (s.queue c.q).base.clean = true ∧ (s.queue c.q).faulted = false ∧
      recBusy s c.q = true := by decide +kernel

/-- SESSION_APPEND of one position to slot 0 from partition address 0. -/
def w_append : Cmd := w_k 0x0302 (2 ^ 16)

theorem witness_SessionsServed_noSlot : Begins (w_room [w_append]) w_append 0x0302 ∧
    sessOpen ((begun (w_room [w_append]) w_append).ses 0) = false := ⟨w_begins _ _ (by decide +kernel), by decide +kernel⟩

def w_appending : State := begun (w_with w_append w_ses) w_append

theorem witness_SessionsServed_appends : Begins (w_with w_append w_ses) w_append 0x0302 ∧ sessOpen (w_appending.ses 0) = true ∧
    (w_appending.ses 0).part.toNat = 0 ∧ w_append.data = none ∧ commitKind (w_appending.ses 0) (0 + 1) (max 64 1) = .plain ∧
    spaceOf (BitVec.ofNat 64 (pktField w_append.pkt 16 8)) = 0 ∧ rangeOk w_appending 0 0 (appendBytes (w_appending.ses 0) 1) = true ∧
    0 < appendBytes (w_appending.ses 0) 1 ∧
    (fetchVia w_appending (viaPart 0) 0 (appendBytes (w_appending.ses 0) 1) 0 (.command 1)).1.isSome = true :=
  ⟨w_beginsWith w_append w_ses 0x0302 (by decide +kernel), by decide +kernel⟩

theorem witness_SessionsServed_appendWaits :
    let s := w_stuck (w_with w_append w_ses)
    Begins s w_append 0x0302 ∧ sessOpen ((begun s w_append).ses 0) = true ∧
      (fetchVia (begun s w_append) (viaPart 0) 0 (appendBytes ((begun s w_append).ses 0) 1) 0 (.command 1)).1 = none :=
  ⟨w_beginsAt _ _ _ (by decide +kernel), by decide +kernel⟩

theorem witness_SessionsServed_closes : Begins (w_with (w_k 0x0303 (2 ^ 16)) { w_ses with state := 2 }) (w_k 0x0303 (2 ^ 16)) 0x0303 ∧
    ({ w_ses with state := 2 } : Sess).state = 2 ∧ ({ w_ses with state := 2 } : Sess).part.toNat = 0 :=
  ⟨w_beginsWith _ _ _ (by decide +kernel), by decide⟩

/-- An earlier command of pair `q` beside command 1. -/
def w_early (op q : Nat) : Cmd := { w_k op 0 with id := 0, q := q }

theorem witness_CommandsEnd_fences :
    waitingCmd (w_cmds [w_early 0x0101 1, w_k 0x0401 0]) 1 0x0401 = some (w_k 0x0401 0) ∧ pktField (w_k 0x0401 0).pkt 16 1 = 0 ∧
    (∀ d ∈ [w_early 0x0101 1, w_k 0x0401 0], d.id < 1 → d.q ≠ (w_k 0x0401 0).q) ∧
    pktField (w_k 0x0401 (2 ^ 128)).pkt 16 1 = 1 ∧
    (∀ d ∈ [w_early 0x0701 0, w_k 0x0401 (2 ^ 128)], d.id < 1 → isPartOp (pktOp d.pkt) = true → pktPart d.pkt ≠ 0) := by decide +kernel

theorem witness_CommandsEnd_waits : (w_early 0x0101 0).id < 1 ∧ (w_early 0x0101 0).q = (w_k 0x0401 0).q ∧
    isPartOp (pktOp (w_early 0x0101 0).pkt) = true ∧ pktPart (w_early 0x0101 0).pkt = pktPart (w_k 0x0401 0).pkt ∧
    waitingCmd (w_cmds [w_early 0x0101 0, w_k 0x0401 0]) 1 0x0401 = some (w_k 0x0401 0) := by decide +kernel

/-- An ABORT of kind `a` with its number, in a state where a checked MEM_FILL came before it. -/
def w_abort (a n : Nat) : Cmd := w_k 0x0501 (a * 2 ^ 128 + n * 2 ^ 144)

/-- The completion ring lies in device memory, so a record is written at once. -/
def w_aborts (c d : Cmd) : State := w_pairs (w_q 0x10004 true) (w_cmds [d, c])

theorem witness_CommandsEnd_aborts :
    let s := w_aborts (w_abort 0 0) (w_early 0x0202 0)
    waitingCmd s 1 0x0501 = some (w_abort 0 0) ∧ pktField (w_abort 0 0).pkt 16 1 = 0 ∧ (mayFetch s 0 && hasEntry s 0) = false ∧
      fetchBlocked s 0 = false ∧ [0, 1] = (s.cmds.filter fun d => d.q = 0).map (·.id) ∧
      [0] = ((w_aborts (w_abort 1 0) (w_early 0x0202 0)).cmds.filter fun d => isPartOp (pktOp d.pkt) ∧ pktPart d.pkt = 0).map (·.id) ∧
      (qMask (s.queue 0)).getLsbD 0 = true ∧ pktField (w_abort 1 0).pkt 16 1 = 1 := by decide +kernel

theorem witness_CommandsEnd_session :
    let d := w_early 0x0303 0
    let s := w_aborts (w_abort 2 0) d
    waitingCmd s 1 0x0501 = some (w_abort 2 0) ∧ pktField (w_abort 2 0).pkt 16 1 = 2 ∧
      [0] = (s.cmds.filter fun d => cmdSlot d = some 0).map (·.id) := by decide +kernel

/-- The pair has an entry to fetch, and the machine may fetch no more. -/
theorem witness_CommandsEnd_blocked :
    let s := { w_pairs { w_q 0x10000 true with sqtail := 1, cqtail := 15 } (w_aborts (w_abort 0 0) (w_early 0x0202 0)) with
      link := { Link.reset with up := true } }
    waitingCmd s 1 0x0501 = some (w_abort 0 0) ∧ (mayFetch s 0 && hasEntry s 0) = false ∧ fetchBlocked s 0 = true := by decide +kernel

theorem witness_CommandsEnd_bound :
    let s := { w_aborts (w_abort 0 0) (w_early 0x0202 0) with link := { Link.reset with up := true } }
    let c := { w_abort 0 0 with atOnce := true }
    waitingCmd s 1 0x0501 = some (w_abort 0 0) ∧ (w_abort 0 0).atOnce = false ∧ s.link.up = true ∧ s.dev.fatal = false ∧
      waitingCmd (w_cmds [c]) 1 0x0501 = some c ∧ c.atOnce = true := by decide +kernel

/-! ### Device commands -/

/-- SET_PARTITION of partition 0 to an entry. -/
def w_set (w : BitVec 256) : Cmd := w_k 0x0601 (w.toNat * 2 ^ 128)

theorem witness_PartitionsSet_sets :
    let c := w_set (ptabRates ||| 0xFFFF01#256 ||| (16#256 <<< 96))
    let w := if (pktEntry c.pkt).getLsbD 0 then pktEntry c.pkt else ptabRates
    let u := voteMap (votePart (w_cmds [c]) 0)
    deviceTurn (w_cmds [c]) 1 0x0601 = some c ∧ setConflict u 0 w = false ∧ spoolOver u 0 w = 0 ∧ w.getLsbD 0 = true := by decide +kernel

theorem witness_PartitionsSet_over :
    let c := w_set (ptabRates ||| 0xFFFF01#256 ||| (393217#256 <<< 96))
    let u := voteMap (votePart (w_cmds [c]) 0)
    deviceTurn (w_cmds [c]) 1 0x0601 = some c ∧ setConflict u 0 (pktEntry c.pkt) = false ∧ (pktEntry c.pkt).getLsbD 0 = true ∧
      0 < spoolOver u 0 (pktEntry c.pkt) := by decide +kernel

theorem witness_PartitionsSet_conflict :
    let c := w_set (ptabRates ||| 0xFFFF01#256 ||| (1#256 <<< 32))
    let s := { w_s with cmds := [c, { w_k 0x0101 0 with stage := .inSlot }] }
    let u := voteMap (votePart s 0)
    deviceTurn s 1 0x0601 = some c ∧ setConflict u 0 (pktEntry c.pkt) = true ∧ (pktEntry c.pkt).getLsbD 0 = true := by decide +kernel

theorem witness_PartitionsSet_envelope :
    deviceTurn (w_cmds [w_k 0x0602 (3 * 2 ^ 128)]) 1 0x0602 = some (w_k 0x0602 (3 * 2 ^ 128)) ∧
    (w_cmds [w_k 0x0602 (3 * 2 ^ 128)]).dev.lic = Tri.same none ∧
    pktField (w_k 0x0602 (3 * 2 ^ 128)).pkt 32 4 = 0 ∧ permits none 3 = true ∧ pktField (w_k 0x0602 (3 * 2 ^ 128)).pkt 16 1 = 3 ∧
    permits none 1 = false ∧ permits (some ⟨1, 0, []⟩) 1 = true := by decide +kernel

/-- A licence of 8 B is too short to be one. -/
theorem witness_PartitionsSet_licence :
    let c := w_k 0x0602 (3 * 2 ^ 128 + 8 * 2 ^ 256)
    let r := fetchVia (w_room [c]) (viaPart 0) 0 8 0 (.command 1)
    deviceTurn (w_room [c]) 1 0x0602 = some c ∧ 0 < pktField c.pkt 32 4 ∧ c.data = none ∧
      spaceOf (BitVec.ofNat 64 (pktField c.pkt 24 8)) = 0 ∧ r.1 = some (List.replicate 8 (5, false)) ∧
      readLicence (dropBrought r.2 (.command 1)) (List.replicate 8 5) = none := by
  refine ⟨by decide +kernel, by decide +kernel, by decide +kernel, by decide +kernel, by decide +kernel, ?_⟩
  unfold readLicence
  exact if_neg fun x => absurd x.1 (by decide)

theorem witness_PartitionsSet_waits :
    let c := w_k 0x0602 (3 * 2 ^ 128 + 8 * 2 ^ 256)
    deviceTurn (w_stuck (w_room [c])) 1 0x0602 = some c ∧
      (fetchVia (w_stuck (w_room [c])) (viaPart 0) 0 8 0 (.command 1)).1 = none := by decide +kernel

theorem witness_EnvelopesTakeEffect : ((3, 2600) : Nat × Nat) = (3, 2600) ∧ w_s.dev.env = 3 ∧ croftTheta w_s 511 = 0 ∧
    tget zeroB w_s.therm.cap50 511 = false ∧ (w_s.croft 511).mhz ≤ 2600 ∧
    ({ w_s with dev := { Dev.reset with env := 1 } } : State).dev.env = 1 ∧
    ({ w_s with dev := { Dev.reset with env := 2 } } : State).dev.env = 2 ∧ fwRuns w_s = true := by decide +kernel

/-- A device command with a host destination. -/
def w_dst (op rest : Nat) : Cmd := w_k op (2 ^ 190 + rest)

theorem witness_DeviceReports : PlanClean (w_cmds [w_dst 0x0701 (2 ^ 192)]) ∧
    (w_cmds [w_dst 0x0702 (8 * 2 ^ 256)]).therm.life.clean = true ∧ spaceOf (BitVec.ofNat 64 (pktField (w_dst 0x0701 (2 ^ 192)).pkt 16 8)) = 1 ∧
    deviceTurn (w_cmds [w_dst 0x0701 (2 ^ 192)]) 1 0x0701 = some (w_dst 0x0701 (2 ^ 192)) ∧
    0 < pktField (w_dst 0x0701 (2 ^ 192)).pkt 24 4 ∧
    deviceTurn (w_cmds [w_dst 0x0702 (8 * 2 ^ 256)]) 1 0x0702 = some (w_dst 0x0702 (8 * 2 ^ 256)) ∧
    8 ≤ pktField (w_dst 0x0702 (8 * 2 ^ 256)).pkt 32 4 := by unfold PlanClean; decide +kernel

/-- TIME_SYNC with a mode and a value. -/
def w_time (m v : Nat) : Cmd := w_k 0x0801 (m * 2 ^ 128 + v * 2 ^ 192)

theorem witness_DeviceReports_set : deviceTurn (w_cmds [w_time 0 (2 ^ 63 - 1)]) 1 0x0801 = some (w_time 0 (2 ^ 63 - 1)) ∧
    pktField (w_time 0 (2 ^ 63 - 1)).pkt 16 1 = 0 ∧ pktField (w_time 0 (2 ^ 63 - 1)).pkt 24 8 < 2 ^ 63 ∧
    2 ^ 63 ≤ pktField (w_time 0 (2 ^ 63)).pkt 24 8 ∧ pktField (w_time 2 0).pkt 16 1 = 2 := by decide +kernel

theorem witness_DeviceReports_step : deviceTurn (w_cmds [w_time 1 (2 ^ 64 - 5)]) 1 0x0801 = some (w_time 1 (2 ^ 64 - 5)) ∧
    pktField (w_time 1 (2 ^ 64 - 5)).pkt 16 1 = 1 ∧ 0 ≤ (5 : Int) + (BitVec.ofNat 64 (pktField (w_time 1 (2 ^ 64 - 5)).pkt 24 8)).toInt ∧
    (4 : Int) + (BitVec.ofNat 64 (pktField (w_time 1 (2 ^ 64 - 5)).pkt 24 8)).toInt < 0 := by decide +kernel

/-- ATTEST with a MAXLEN and a host destination. -/
def w_att (n : Nat) : Cmd := w_k 0x0A04 (2 ^ 446 + n * 2 ^ 448)

def w_sec (x : Sec) (c : Cmd) : State := { w_cmds [c] with
  sec := x
  eeprom := { Eeprom.reset with leaf := Tri.same ⟨0, 256⟩ } }

theorem witness_AttestsAnswered : deviceTurn (w_cmds [w_att 11267]) 1 0x0A04 = some (w_att 11267) ∧ pktField (w_att 11267).pkt 56 4 < 11268 ∧
    11268 ≤ pktField (w_att 11268).pkt 56 4 ∧
    (let s := w_sec { Sec.reset with ready := true, built := true, leaf := 255 } (w_att 11268)
     deviceTurn s 1 0x0A04 = some (w_att 11268) ∧ s.sec.dead = false ∧ s.sec.ready = true ∧ s.sec.leaf < 32768 ∧
       s.eeprom.leaf = Tri.same ⟨0, 256⟩ ∧ s.sec.tree = 0 ∧ s.sec.leaf < 256 ∧ s.sec.built = true ∧ PlanClean s ∧
       s.dev.lic.clean = true ∧ spaceOf (BitVec.ofNat 64 (pktField (w_att 11268).pkt 48 8)) = 1) ∧
    (w_sec { Sec.reset with dead := true } (w_att 11268)).sec.dead = true := by unfold PlanClean; decide +kernel

theorem witness_AttestsAnswered_waits :
    let s := w_sec { Sec.reset with ready := true } (w_att 11268)
    deviceTurn s 1 0x0A04 = some (w_att 11268) ∧ 11268 ≤ pktField (w_att 11268).pkt 56 4 ∧ s.sec.dead = false ∧ s.sec.ready = true ∧
      s.sec.leaf < 256 ∧ s.eeprom.leaf = Tri.same ⟨0, 256⟩ ∧ s.sec.tree = 0 ∧ PlanClean s ∧ s.dev.lic.clean = true ∧ s.sec.built = false ∧
      s.boot.stage = .ready ∧ s.sec.waiting = [] := by unfold PlanClean; decide +kernel

theorem witness_AttestsAnswered_built :
    let c := { w_att 11268 with stage := .begun }
    let s := w_sec { Sec.reset with ready := true, waiting := [(1, [])] } c
    s.boot.stage = .ready ∧ s.sec.built = false ∧ s.sec.dead = false ∧ s.sec.waiting = [(c.id, [])] ∧ cmdBy s c.id = some c ∧
      c.stage = .begun := by decide +kernel

theorem witness_AttestsAnswered_spent :
    let s := { w_sec { Sec.reset with ready := true, leaf := 32768 } (w_att 11268) with
      fuses := { Fuses.reset with treefuse := BitVec.twoPow 1024 1023 } }
    deviceTurn s 1 0x0A04 = some (w_att 11268) ∧ s.sec.dead = false ∧ s.sec.ready = true ∧ s.eeprom.leaf = Tri.same ⟨0, 256⟩ ∧ 32768 ≤ s.sec.leaf ∧
      s.fuses.treefuse.getLsbD 1023 = true := by decide +kernel

/-! ### Requests -/

/-- The image of w_room: header at 0, stream table at 128; one stream of one instruction at 192. -/
def w_image (s : State) : State :=
  let h := leBytes 64 (0x3149505A + 1 * 2 ^ 32 + 2 * 2 ^ 64 + 128 * 2 ^ 192)
  w_after (.sliceWrite 0 128 ⟨leBytes 64 (192 + 2 ^ 64), []⟩ false .reeve)
    (w_after (.sliceWrite 0 64 ⟨List.replicate 64 0, []⟩ false .reeve) (w_after (.sliceWrite 0 0 ⟨h, []⟩ false .reeve) s))

def w_ordered : Cmd := { w_k 0x0101 0 with stage := .ordered }

theorem witness_RequestsRun_admits :
    let s := w_image (w_room [w_ordered])
    let r := readImages (clearIfDue (votePart s 0) 0) 0 (cmdSlot w_ordered).isSome 1 [] (imagesOf w_ordered)
    (s.part 0).adm.head? = some 1 ∧ cmdBy s 1 = some w_ordered ∧ w_ordered.stage = .ordered ∧ freeSlot s 0 = some 0 ∧ admits s 0 = true ∧
      orderOk s w_ordered = true ∧ (cmdSlot w_ordered).isSome = false ∧
      (r.1.map fun l => (runFault r.2 0 (cmdSlot w_ordered) l).isNone) = some true ∧ s.twin.armed ≠ some 0 := by decide +kernel

/-- A RUN whose image's bytes wait for held sub-channels, and one whose session's zeros are owed. -/
theorem witness_RequestsRun_reads :
    let s := w_stuck (w_room [w_ordered])
    let c := { w_k 0x0101 (2 ^ 16) with stage := .ordered }
    let z := modSub (w_room [c]) 0 0 fun y => { y with queue := [⟨0, 0, .write [0] false .zeros false, .reeve, 0, false⟩] }
    (s.part 0).adm.head? = some 1 ∧ cmdBy s 1 = some w_ordered ∧ freeSlot s 0 = some 0 ∧ admits s 0 = true ∧ orderOk s w_ordered = true ∧
      (readImages (clearIfDue (votePart s 0) 0) 0 (cmdSlot w_ordered).isSome 1 [] (imagesOf w_ordered)).1.isNone = true ∧
      (z.part 0).adm.head? = some 1 ∧ cmdBy z 1 = some c ∧ c.stage = .ordered ∧ freeSlot z 0 = some 0 ∧ admits z 0 = true ∧
      orderOk z c = true ∧ (cmdSlot c).isSome = true ∧ owed (clearIfDue (votePart z 0) 0) .zeros = true := by decide +kernel

theorem witness_RequestsRun_faults :
    let s := { w_room [w_ordered] with therm := { Therm.reset with coolfault := true } }
    let r := readImages (clearIfDue (votePart s 0) 0) 0 (cmdSlot w_ordered).isSome 1 [] (imagesOf w_ordered)
    (s.part 0).adm.head? = some 1 ∧ cmdBy s 1 = some w_ordered ∧ freeSlot s 0 = some 0 ∧ admits s 0 = true ∧
      orderOk s w_ordered = true ∧ (r.1.map fun l => (runFault r.2 0 (cmdSlot w_ordered) l).isSome) = some true := by decide +kernel

theorem witness_RequestsRun_none : (w_s.part 0).adm = [] ∧
    freeSlot (modSlot w_s 0 1 fun x => { x with req := some w_req }) 0 = none := by decide

/-- A request in a stage, with its command in its slot. -/
def w_reqIn (q : Req) (x : Ctx) (tlim : Nat) : State :=
  { modSlot (w_one x) 0 0 fun y => { y with req := some q } with cmds := [{ w_k 0x0101 (tlim * 2 ^ 448) with stage := .inSlot }] }

theorem witness_RequestsRun_waits :
    let q := { w_req with stage := .sessWait, ord := 1 }
    let s := modSlot (w_reqIn q w_x 0) 0 1 fun y => { y with req := some w_req }
    let a := { s with twin := { Twin.reset with armed := some 0 } }
    (s.slot 0 0).req = some q ∧ q.stage = .sessWait ∧ q.sess = none ∧ ({ q with sess := some (0, 0) } : Req).sess.isSome = true ∧
      mustWaitTurn s 0 0 q = false ∧ mustWaitTurn a 0 0 q = true := by decide +kernel

theorem witness_RequestsRun_starts :
    let q := { w_req with stage := .gather }
    let s := w_reqIn q { w_x with inCroft := false, wait := .gend } 0
    (s.slot 0 0).req = some q ∧ q.stage = .gather ∧ q.fail = none ∧ gathered s 0 0 = true ∧ mayRank s 0 0 q = true ∧
      (s.part 0).holdStart = [] ∧
      ((modPart s 0 fun x => { x with holdStart := [511] }).part 0).holdStart = 511 :: [] ∧ (s.slot 0 0).staged = [] ∧ slotCtxs s 0 0 = [w_c] ∧ (s.ctx w_c).wait = .gend := by decide +kernel

def w_img : Img := ⟨0, [], 0, none, [(192, 1)]⟩

theorem witness_RequestsRun_completes :
    let q := { w_req with imgs := [w_img, w_img] }
    let s := w_reqIn q { w_x with run := .idle, ended := true } 0
    (s.slot 0 0).req = some q ∧ q.fail = none ∧ q.stage = .croft ∧ allDone s 0 0 = true ∧ reqQuiet s q = true ∧
      s.twin.armed ≠ some 0 ∧ q.cur + 1 < q.imgs.length ∧ ({ q with cur := 1 } : Req).imgs.length ≤ ({ q with cur := 1 } : Req).cur + 1 ∧
      ({ q with fail := some (8, 0) } : Req).fail = some (8, 0) := by decide +kernel

theorem witness_RequestsRun_limit : cmdBy (w_reqIn w_req w_x 0) w_req.cid = some { w_k 0x0101 0 with stage := .inSlot } ∧
    w_req.stage ≠ .done ∧ pktField (w_k 0x0101 0).pkt 56 4 = 0 ∧
    cmdBy (w_reqIn w_req w_x 1) 1 = some { w_k 0x0101 (2 ^ 448) with stage := .inSlot } ∧ 0 < pktField (w_k 0x0101 (2 ^ 448)).pkt 56 4 ∧
    leftCroft (w_reqIn w_req w_x 1) 0 0 w_req = false ∧
    leftCroft (w_reqIn w_req { w_x with run := .idle, ended := true } 1) 0 0 w_req = true := by decide +kernel

theorem witness_RequestsRun_record :
    let c := { w_k 0x0202 0 with stage := .finished }
    cmdBy (w_cmds [c]) 1 = some c ∧ c.stage = .finished ∧ cmdQuiet (w_cmds [c]) c = true ∧ pairOf (w_cmds [c]) 1 = none := by
  decide +kernel

/-! ### Power, firmware and bring-up -/

/-- The reset machine with a bring-up. -/
def w_boot (b : Boot) : State := { State.reset with boot := b }

theorem witness_PowerAndResets : 57500 < 57501 ∧ ¬ 57500 < 57500 ∧ (w_boot { Boot.reset with rails := true }).boot.rails = true ∧
    (45999#16).toNat < 46000 ∧ ¬ (46000#16).toNat < 46000 ∧ State.reset.boot.inRange = true ∧ State.reset.boot.rails = false ∧
    State.reset.boot.thermtrip = false := by decide

/-- The EEPROM's last write began a nanosecond ago. -/
theorem witness_PowerAndResets_writes :
    let s := { w_s with now := 1, eeprom := { Eeprom.reset with old := some (.leaf ⟨0, 0⟩, 0) } }
    s.eeprom.old = some (.leaf ⟨0, 0⟩, 0) ∧ 0 ≠ s.now ∧ w_s.eeprom.old = none := by decide

theorem witness_PowerAndResets_resets :
    let s := { w_s with link := { Link.reset with perst := false, up := true } }
    s.boot.rails = true ∧ s.link.perst = false ∧ s.link.up = true ∧ State.reset.link.up = false := by decide

def w_fw (b : Boot) : State := w_boot { b with stage := .waitFw }

theorem witness_FirmwareTaken_begins : portAnswers State.reset = false ∧ (w_fw Boot.reset).boot.stage = .waitFw ∧
    (w_fw { Boot.reset with rails := true }).boot.rails = true ∧ (w_fw Boot.reset).boot.claim = none ∧
    (BitVec.ofNat 32 (24 * 2 ^ 20)).toNat ≤ 24 * 2 ^ 20 ∧
    (w_fw { Boot.reset with claim := some .i3c }).boot.claim.isSome = true ∧
    (w_fw { Boot.reset with claim := some .i3c }).boot.claim ≠ some .mailbox := by decide

theorem witness_FirmwareTaken_chunks :
    let s := w_fw { Boot.reset with rails := true, claim := some .i3c, fwSize := some 3, image := [1, 2] }
    s.boot.claim = some .i3c ∧ s.boot.fwSize = some 3 ∧ (2#32).toNat = s.boot.image.length ∧ ([3] : List Byte).length = (1#32).toNat ∧
      1 ≤ (1#32).toNat ∧ (1#32).toNat ≤ 1048576 ∧ (2#32).toNat + (1#32).toNat ≤ 3 ∧
      ((1#32).toNat % 4096 = 0 ∨ (2#32).toNat + (1#32).toNat = 3) ∧ s.boot.image.length < 3 ∧
      3 ≤ ({ s.boot with image := [1, 2, 3] } : Boot).image.length := by decide

theorem witness_FirmwareTaken_verifies :
    let s := w_boot { Boot.reset with stage := .verify, verifyBy := some .mailbox }
    s.boot.stage = .verify ∧ s.boot.verifyBy = some .mailbox ∧ evEn s.dev = false := by decide

theorem witness_FirmwareTaken_mailbox : (⟨0xC000, w_pkt 0x0A01 0 (4096 * 2 ^ 128)⟩ : MailIn).opcode = 0xC000 ∧
    (⟨0, 0⟩ : MailIn).opcode ≠ 0xC000 ∧ pktOp (w_pkt 0x0A04 0 0) ≠ 0x0A01 ∧ pktOp (w_pkt 0x0A04 0 0) ≠ 0x0A02 ∧
    pktOp (w_pkt 0x0A04 0 0) ≠ 0x0A03 ∧ pktOp (w_pkt 0x0A01 0 (4096 * 2 ^ 128)) = 0x0A01 ∧
    headBad 0x0A01 (w_pkt 0x0A01 0 (4096 * 2 ^ 128)) ++ paramBad 0x0A01 (w_pkt 0x0A01 0 (4096 * 2 ^ 128)) = [] := by decide +kernel

theorem witness_BringUpFollows_stages : State.reset.boot.stage = .rom ∧ (w_boot { Boot.reset with rails := true }).boot.rails = true ∧
    (w_boot { Boot.reset with stage := .train }).boot.stage = .train ∧
    (w_boot { Boot.reset with stage := .selftest }).boot.stage = .selftest ∧
    (w_boot { Boot.reset with stage := .selftest }).boot.warm = false ∧
    (w_boot { Boot.reset with stage := .selftest, warm := true }).boot.warm = true ∧
    (w_boot { Boot.reset with stage := .march }).boot.stage = .march ∧
    (w_boot { Boot.reset with stage := .march }).boot.badRows = [] := by decide

theorem witness_BringUpFollows_fill :
    let r := w_boot { Boot.reset with stage := .retention, retStep := 2 }
    let f := w_boot { Boot.reset with stage := .fill }
    let g := w_boot { Boot.reset with stage := .fill, warm := true }
    r.boot.stage = .retention ∧ r.boot.retStep = (2 : Fin 3).val ∧ f.boot.stage = .fill ∧ f.boot.warm = false ∧ g.boot.stage = .fill ∧
      g.boot.warm = true ∧ g.mem = [] ∧ g.undef = [] ∧ (w_boot { Boot.reset with stage := .floorplan }).boot.stage = .floorplan ∧
      ({ w_boot { Boot.reset with stage := .floorplan } with sec := { Sec.reset with ready := true } } : State).sec.ready = true := by
  decide

theorem witness_BringUpFollows_saves :
    let s := { State.reset with floor := { Floor.reset with unsaved := true, defects := Tri.same [.croft 511] } }
    s.floor.unsaved = true ∧ s.floor.defects = Tri.same [.croft 511] ∧ s.floor.rows = Tri.same [] := by decide

theorem witness_BringUpFollows_villages :
    let s := (List.range 4).foldl (fun s v => setPort s v { s.port v with idOk := true }) (w_boot { Boot.reset with stage := .train })
    s.boot.stage = .train ∧ ∀ v, v < 4 → (s.port v).idOk = true ∨ (s.port v).lost = true := by decide +kernel

/-- The machine in READY with no request and every rail settled. -/
def w_idle : State := { State.reset with boot := { Boot.reset with stage := .ready, rails := true } }

theorem witness_CroftsServiced : (w_idle.croft 511).cstate = .active ∧ w_idle.boot.stage = .ready ∧ testGap w_idle 511 = true ∧
    (w_idle.croft 511).mig = false ∧ (w_idle.croft 511).badLanes.length + (w_idle.croft 511).pendBad.length ≤ 1 ∧
    ¬ (63 : Fin 64).val ∈ (w_idle.croft 511).badLanes ∧ ¬ (63 : Fin 64).val ∈ (w_idle.croft 511).pendBad ∧
    (w_idle.croft 511).overdue = false ∧ partOf w_idle 511 = some 0 := by decide +kernel

def w_mig (m : Migration) : State := { w_s with floor := { Floor.reset with migs := [m] } }

def w_m : Migration := ⟨0, 0, 1, 0, 1, false, 0, 0⟩

/-- The last row of phase 2. -/
def w_m2 : Migration := { w_m with phase2 := true, row := 786431 }

theorem witness_CroftsServiced_migrates :
    let s := w_mig w_m2
    (w_mig w_m).floor.migs = w_m :: [] ∧ w_m.failed ≠ w_m.subst ∧ w_m.phase2 = false ∧ restWaits (w_mig w_m) w_m = false ∧
      96 * (phaseRows (w_mig w_m) w_m).1 ≤ w_m.row ∧
      s.floor.migs = w_m2 :: [] ∧ w_m2.row < 96 * (phaseRows s w_m2).1 ∧ rowOnWay s w_m2 = false ∧
      rowQueue s 0 (phaseRow s w_m2 w_m2.row).1 = false ∧ rowQueue s 1 (phaseRow s w_m2 w_m2.row).1 = false := by decide +kernel

theorem witness_CroftsServiced_ends :
    let s := w_mig w_m2
    let v := moveRest s w_m2
    let u := flushSlice (flushSlice { v with floor := { v.floor with migs := [{ w_m2 with row := 96 * (phaseRows v w_m2).1 }] } } 0) 1
    w_m2.phase2 = true ∧ restWaits s w_m2 = false ∧ w_m2.i ≠ w_m2.j ∧ (s.croft w_m2.subst).svcFail = false ∧ accessWaits u 0 1 = false := by
  decide +kernel

/-- The move of a row waits in a queue. -/
theorem witness_CroftsServiced_waits :
    let s := modSub (w_mig w_m2) 0 0 fun y => { y with queue := [⟨0, 0, .row 0 1 0 0 true, .rowCopy, 0, false⟩] }
    rowOnWay s w_m2 = true ∧ restWaits s w_m2 = true := by decide +kernel

theorem witness_CroftsServiced_calibrates : mayCalibrate w_s 511 3 = true ∧
    mayCalibrate (modSub w_s 511 3 fun y => { y with held := true }) 511 3 = false ∧ (w_s.croft 511).mig = false ∧
    ((modCroft w_s 511 fun x => { x with mig := true }).croft 511).mig = true := by decide

theorem witness_UpkeepRuns :
    let s := modSlice w_s 511 fun x => { x with track := [⟨7, 1, 0⟩], sweep := 787966 }
    (s.slice 511).track.find? (fun t => t.loc == (⟨7, 1, 0⟩ : Track).loc) = some ⟨7, 1, 0⟩ ∧ s.mem = [] ∧ s.undef = [] ∧
      (s.slice 511).sweep + 1 < 787968 ∧ isRetired s 511 (slotSub ((s.slice 511).sweep / 8208)) = false ∧ (s.slice 511).lost = false ∧
      rowQueue s 511 ((s.slice 511).sweep / 8208) = false := by decide +kernel

theorem witness_UpkeepRuns_passed :
    let s := modSlice w_s 511 fun x => { x with lost := true }
    let h := modSub w_s 511 0 fun y => { y with held := true }
    (s.slice 511).lost = true ∧ (s.slice 511).sweep + 1 < 787968 ∧ isRetired h 511 0 = false ∧ (h.slice 511).lost = false ∧
      rowQueue h 511 ((h.slice 511).sweep / 8208) = true := by decide +kernel

theorem witness_UpkeepRuns_spares :
    let s := modSlice w_s 511 fun x => { x with spCount := [(95, 15)] }
    let f := modSlice w_s 511 fun x => { x with spCount := [(95, 16)], spExh := [(95, true)] }
    physRow s 511 95 (rowServed s 511 95 8191) = 8191 ∧ rowServed s 511 95 8191 < 8192 ∧ evEn s.dev = false ∧
      goodSpare s.floor.rows.use 511 95 15 = some 15 ∧ tget zeroN (s.slice 511).spCount 95 = 15 ∧
      goodSpare [(511, 95, 8192 + 15)] 511 95 15 = none ∧ goodSpare f.floor.rows.use 511 95 (tget zeroN (f.slice 511).spCount 95) = none ∧ tget zeroB (f.slice 511).spExh 95 = true ∧
      tget zeroB (s.slice 511).spExh 95 = false ∧ physRow f 511 95 (rowServed f 511 95 8191) = 8191 := by decide +kernel

/-! ### Heat -/

def w_hot (t : Therm) : State := { w_s with therm := t }

theorem witness_SensorsRead_sample :
    let t : ThermIn := ⟨[(.diode 511, -161)], [], [⟨0, 0, 0, 0, 0, 0⟩], 0, 0, 0⟩
    t.powers ≠ [] ∧ t.temps = [] ++ [(.diode 511, -161)] ∧ corrected w_s (.diode 511) (-161) < -160 ∧ 1200 < corrected w_s (.diode 511) 1201 := by decide

theorem witness_SensorsRead_disagree :
    let s := w_hot { Therm.reset with disAt := [(511, 1)], tdisAt := [(767, 1)], last := [(511, 100)] }
    0 < tget zeroN s.therm.disAt 511 ∧ tget zeroN w_s.therm.disAt 511 = 0 ∧ 0 < tget zeroN s.therm.tdisAt (4 * 191 + 3) ∧
      (reading s (.ringOsc 511) - modelTemp s 511).natAbs < (reading s (.diode 511) - modelTemp s 511).natAbs := by decide +kernel

theorem witness_SensorsRead_agree :
    let s := w_hot { Therm.reset with disAt := [(0, 1)] }
    0 < tget zeroN s.therm.disAt 0 ∧
      (reading s (.diode 0) - modelTemp s 0).natAbs ≤ (reading s (.ringOsc 0) - modelTemp s 0).natAbs := by decide +kernel

theorem witness_LimitsHold_theta :
    let s := w_hot { Therm.reset with theta := [(0, 63)] }
    raises w_s 0 0 = 0 ∧ raises (w_hot { Therm.reset with modIn := 700001 }) 0 0 ≠ 0 ∧ mayLower s 0 = true ∧ topPortion s 0 = some 0 ∧
      topPortion w_s 0 = none ∧ mayLower w_s 0 = true ∧ mayLower (w_hot { Therm.reset with raised := [(0, true)] }) 0 = false := by
  decide +kernel

theorem witness_LimitsHold_caps : fwRuns State.reset = false ∧ fwRuns w_s = true := by decide

theorem witness_LimitsHold_cooling :
    let b := w_hot { Therm.reset with badFlowAt := some 0 }
    let f := w_hot { Therm.reset with coolfault := true, goodAt := some 0 }
    b.therm.coolfault = false ∧ badSince b = some (0, 0) ∧ f.therm.coolfault = true ∧ f.therm.goodAt = some 0 ∧ f.therm.flowstop = false ∧
      (w_hot { Therm.reset with coolfault := true, goodAt := some 0, flowstop := true }).therm.flowstop = true := by decide

theorem witness_LimitsHold_flow :
    let e := w_hot { Therm.reset with flowstop := true, flowOk := some 0, coolSince := some 0 }
    w_s.therm.flowstop = false ∧ w_s.therm.lowFlow < 5 ∧ 5 ≤ (w_hot { Therm.reset with lowFlow := 5 }).therm.lowFlow ∧
      e.therm.flowstop = true ∧ e.therm.flowOk = some 0 ∧ e.therm.coolSince = some 0 := by decide

theorem witness_LimitsHold_trip : (w_hot { Therm.reset with tripHit := true }).therm.tripHit = true ∧ w_s.therm.tripHit = false ∧
    firmwareTrip w_s = false ∧ fwRuns State.reset = false := by decide +kernel

theorem witness_RotaAndLife : w_s.therm.life = Tri.same ⟨[], 0⟩ := by decide

/-! ### Host link, management port, registers -/

def w_link (l : Link) : State := { w_s with link := l }

theorem witness_HostLinkFollows_trains :
    let s := w_link { Link.reset with perst := false }
    s.link.perst = false ∧ s.boot.rails = true ∧ s.boot.stage ≠ .rom ∧ (8 = 16 ∨ 8 = 8) ∧ (16 = 64 ∨ 16 = 32 ∨ 16 = 16) := by decide

theorem witness_HostLinkFollows_down :
    let d := w_link { Link.reset with perst := false, width := 16 }
    (w_link { Link.reset with up := true }).link.up = true ∧ d.link.up = false ∧ d.link.width ≠ 0 ∧ d.link.perst = false ∧
      d.link.downDone = false ∧ d.link.back = none ∧
      (w_link { Link.reset with up := true, back := some (5, 0, []) }).link.back = some (5, 0, []) ∧
      (let p := w_pairs (w_q 0 true) d
       (p.queues.map (·.1)).Nodup ∧ (∀ e ∈ p.queues, e.2.hold = []) ∧ (p.queue 0).base = Tri.same ⟨true, 0, 0⟩ ∧ p.dev.evq = []) ∧ (w_link { Link.reset with downDone := true }).link.downDone = true := by decide

theorem witness_HostLinkFollows_ide : (w_link { Link.reset with ide := .secure }).link.ide = .secure ∧ w_s.link.ide ≠ .secure ∧
    (w_link { Link.reset with bisn := [⟨0, 0, .bytes 0 [] false .source, 0⟩] }).link.bisn =
      [⟨0, 0, .bytes 0 [] false .source, 0⟩] := by decide

/-- The write of command 1's result to the host. -/
def w_hreq : HostReq := ⟨3, false, .wrCur, 4096, true, 8, [], false, .cmdWrite 1, 0, false⟩

theorem witness_HostLinkFollows_write :
    let s := { w_cmds [w_k 0x0701 0] with link := { Link.reset with reqs := [w_hreq] } }
    let i := { w_cmds [w_k 0x0701 0] with link := { Link.reset with reqs := [w_hreq], ide := .insecure } }
    s.link.reqs.find? (fun x => x.id == 3 && !x.held) = some w_hreq ∧ w_hreq.why = .cmdWrite 1 ∧ cmdBy s 1 = some (w_k 0x0701 0) ∧
      s.link.ide ≠ .insecure ∧ (w_k 0x0701 0).status = 0 ∧ i.link.ide = .insecure ∧ w_hreq.peer = false ∧
      i.link.reqs.find? (fun x => x.id == 3 && !x.held) = some w_hreq := by decide +kernel

/-- Decoder 0 covers all of device memory. -/
def w_dec : Decoder := { Decoder.reset with base := 2 ^ 28, size := 0xC000000000 }

theorem witness_HostMemoryServed_commits :
    let s := w_link { Link.reset with decoders := [(0, w_dec)] }
    (decoderAt s 0).commit = false ∧ commitOk s 0 (dpaAfter s 0 + (decoderAt s 0).skip) = true ∧
      commitOk w_s 1 (dpaAfter w_s 1 + (decoderAt w_s 1).skip) = false ∧ (decoderAt w_s 1).commit = false ∧
      (decoderAt (w_link { Link.reset with decoders := [(0, { w_dec with commit := true })] }) 0).commit = true := by decide +kernel

/-- The link is up and decoder 0 is committed. -/
def w_mapped (q : List PortWait) : State :=
  w_link { Link.reset with up := true, decoders := [(0, { w_dec with commit := true })], portQ := q }

def w_outside : PortWait := ⟨0, false, 2 ^ 28, 64, [], false, .host, 0⟩

theorem witness_HostMemoryServed_port :
    let s := w_mapped []
    let u := accrue s 0
    portPart s (2 ^ 28) = some 0 ∧ s.link.portQ = [] ∧ shortOf u 0 (portDemand u w_outside) = none ∧
      (∃ y ∈ (w_mapped [w_outside]).link.portQ, y.part = 0) ∧ portPart (w_mapped [w_outside]) (2 ^ 28) = some 0 ∧
      ∀ x ∈ piecesOf 64 (2 ^ 28) 64, outsideWaits (trackPages (countUnbacked s (2 ^ 28) 64) (2 ^ 28) 64) x.1 = none := by decide +kernel

theorem witness_HostMemoryServed_unmapped :
    let s := w_link { Link.reset with up := true }
    s.link.up = true ∧ s.boot.stage ≠ .halt ∧ s.link.ide ≠ .insecure ∧ 0 < 64 ∧ owed s (.port s.link.nextReq) = false ∧ (w_link { Link.reset with ide := .insecure }).link.ide = .insecure ∧
      ∀ a, (64#64).toNat ≤ a → a < (64#64).toNat + 64 → decoderOf s a = none := by
  refine ⟨by decide, by decide, by decide, by decide, by decide +kernel, by decide, fun a _ _ => ?_⟩
  simp [decoderOf, decoderAt, w_link, Link.reset, tget, decoder0, Decoder.reset]

def w_port (p : I3c) : State := { w_s with i3c := p }

theorem witness_PortAnswers : portAnswers w_s = true ∧ portAnswers State.reset = false ∧
    (w_port { I3c.reset with resp := .fw }).i3c.resp = .fw ∧ (w_port { I3c.reset with resp := .ack true }).i3c.resp = .ack true ∧
    w_s.i3c.dyn = none ∧ (w_port { I3c.reset with dyn := some 8 }).i3c.dyn.isSome = true ∧
    w_s.i3c.resp = .none ∧ (w_port { I3c.reset with resp := .reg 8 }).i3c.resp = .reg 8 ∧ w_s.i3c.hjEn = true ∧ w_s.boot.stage ≠ .rom ∧
    w_s.i3c.hjSent = false ∧ (w_port { I3c.reset with hjSent := true }).i3c.hjSent = true ∧
    (w_port { I3c.reset with ibis := [(1, 7, 0)] }).i3c.ibis = (1, 7, 0) :: [] ∧ 7 < 8 ∧ 8 ≤ 8 := by decide

def w_dev (d : Dev) : State := { w_s with dev := d }

theorem witness_TimeAndRegisters_edges :
    let s := w_dev { Dev.reset with time := 1000050000 }
    let b := w_dev { Dev.reset with ppsAt := some 0, locked := true }
    999 < 1000 ∧ 1000 ≤ 1000 ∧ b.dev.ppsAt = some 0 ∧ b.now < 0 + 500000000 ∧ s.dev.ppsAt = none ∧
      s.dev.time ≤ 1 * 1000000000 + 50000 ∧ 1 * 1000000000 ≤ s.dev.time + 50000 ∧ b.dev.locked = true ∧ s.dev.locked = false := by decide

theorem witness_TimeAndRegisters_ring :
    let s := w_dev { Dev.reset with evcfg := 1, evtail := 15 }
    let n := evSize s.dev
    n ≤ ((16#64).extractLsb' 0 12).toNat ∧ ((15#64).extractLsb' 0 12).toNat < n ∧
      (((15#64).extractLsb' 0 12).toNat + n - s.dev.evhead) % n ≤ (s.dev.evtail + n - s.dev.evhead) % n ∧ s.dev.evdrop = 0 ∧
      evEn s.dev = true ∧ evEn w_s.dev = false ∧ (w_s.dev.evcfg.extractLsb' 8 4).toNat ≤ 8 ∧ evDevMem w_s.dev = false ∧
      w_s.dev.evdrop = 0 ∧ s.dev.evq = [] := by decide +kernel

theorem witness_TimeAndRegisters_leak : 1 ≤ ((3600#64).extractLsb' 0 12).toNat ∧ ((3600#64).extractLsb' 0 12).toNat ≤ 3600 ∧
    accessOk (4#18).toNat 8 = false ∧ accessOk (0x18#18).toNat 4 = false ∧ accessOk 0 8 = true := by decide +kernel

end Sys2Proof.Tests
end

section
/-! The passing of time (R7, R482), and the machine after reset: the statements of chapter 0 of the specification. -/

open Sys2Proof Sys2Proof.Machine

namespace Sys2Proof.Machine

/-! ### Operations that change counters alone -/

/-- `t` is `s` with other counters. -/
def OnlyCounters (s t : State) : Prop := t = { s with ctr := t.ctr }

theorem OnlyCounters.refl (s : State) : OnlyCounters s s := rfl

theorem OnlyCounters.trans {s t u : State} (hst : OnlyCounters s t) (htu : OnlyCounters t u) : OnlyCounters s u := by
  unfold OnlyCounters at *
  rw [htu, hst]

theorem OnlyCounters.bump (s : State) (k n : Nat) : OnlyCounters s (bump s k n) := rfl

theorem OnlyCounters.bumpIf {s t : State} (b : Bool) (k n : Nat) (h : OnlyCounters s t) : OnlyCounters s (bumpIf b t k n) := by
  cases b with
  | false => exact h
  | true => exact h.trans (.bump t k n)

theorem OnlyCounters.foldl {α : Type} {f : State → α → State} (hf : ∀ s a, OnlyCounters s (f s a)) (l : List α) (s : State) :
    OnlyCounters s (l.foldl f s) := by
  induction l generalizing s with
  | nil => exact .refl s
  | cons a l ih => exact (hf s a).trans (ih (f s a))

theorem countTime_onlyCounters (s : State) (dt : Nat) : OnlyCounters s (countTime s dt) :=
  (OnlyCounters.foldl (fun r _ => .bumpIf _ _ _ (.bumpIf _ _ _ (.bumpIf _ _ _ (.refl r)))) _ s).trans
    (OnlyCounters.foldl (fun r _ => OnlyCounters.foldl (fun r _ => .bump r _ _) _ r) _ _)

/-! ### The passing of time -/

/-- The device registers `dt` nanoseconds later: device time and the trim accumulated move, while device time runs (R482, R487). -/
def Dev.after (d : Dev) (dt : Nat) : Dev :=
  let acc := d.trimAcc + d.trim * dt
  if d.timeOn then { d with time := ((d.time : Int) + dt + acc / 8000000000).toNat, trimAcc := acc % 8000000000 } else d

theorem Dev.after_stopped (d : Dev) (dt : Nat) (h : d.timeOn = false) : d.after dt = d := by simp [Dev.after, h]

theorem Dev.after_frame (d : Dev) (dt : Nat) : { d.after dt with time := d.time, trimAcc := d.trimAcc } = d := by
  unfold Dev.after
  split <;> rfl

/-- Untrimmed device time follows the clock: what was accumulated stays less than a nanosecond. -/
theorem Dev.after_time_untrimmed (d : Dev) (dt : Nat) (hon : d.timeOn = true) (htrim : d.trim = 0) (h0 : 0 ≤ d.trimAcc)
    (h1 : d.trimAcc < 8000000000) : (d.after dt).time = d.time + dt := by
  have hacc : d.trimAcc / 8000000000 = 0 := Int.ediv_eq_zero_of_lt h0 h1
  simp only [Dev.after, hon, htrim, if_true, Int.zero_mul, Int.add_zero, hacc]
  omega

theorem advance_eq (s : State) (dt : Nat) :
    advance s dt = { s with now := s.now + dt, dev := s.dev.after dt, ctr := (countTime s dt).ctr } := by
  have hc : countTime s dt = { s with ctr := (countTime s dt).ctr } := countTime_onlyCounters s dt
  rw [advance, hc]
  cases hon : s.dev.timeOn <;> simp [Dev.after, hon]

theorem notBefore_of_lt (s : State) (n : Nat) (h : s.now < n) : notBefore s n = advance s (n - s.now) := if_pos h

theorem notBefore_of_le (s : State) (n : Nat) (h : n ≤ s.now) : notBefore s n = s := if_neg (by omega)

theorem step_of_empty (s : State) (h : s.pending = []) : step s = .next (advance s 1) := by simp [step, h, idle]

/-! ### The machine after reset -/

@[simp] theorem Tri.same_use {α : Type} [DecidableEq α] (x : α) : (Tri.same x).use = x := by simp [Tri.same, Copy.sound, Tri.use, Tri.vote]

theorem reset_pent (k : Nat) : State.reset.pent k = if k = 0 then ptabRates ||| 0xFFFF01#256 else ptabRates := Tri.same_use _

theorem reset_pentValid (k : Nat) : pentValid (State.reset.pent k) = decide (k = 0) := by
  rw [reset_pent]
  by_cases hk : k = 0
  · subst hk
    decide
  · rw [if_neg hk, decide_eq_false hk]
    decide

theorem reset_pentMask : pentMask (State.reset.pent 0) = 0xFFFF := by
  rw [reset_pent]
  decide

theorem reset_queueDisabled (q : Nat) : (State.reset.queue q).base.use.en = false :=
  congrArg QBase.en (Tri.same_use (⟨false, 0, 0⟩ : QBase))

end Sys2Proof.Machine

/-- Settles O2. An idle step and a wait both come to `advance`, which changes the clock, the device registers as `Dev.after` says, and
counters. -/
theorem timePasses : Obligations.TimePasses := by
  refine ⟨fun s hq => ⟨advance s 1, step_of_empty s hq, ?_, ?_⟩, fun s n => ?_⟩
  · rw [advance_eq]
  · rw [advance_eq]
  · by_cases h : s.now < n
    · rw [notBefore_of_lt s n h, advance_eq]
      refine ⟨?_, rfl, s.dev.after_frame _, s.dev.after_stopped _, s.dev.after_time_untrimmed _⟩
      change s.now + (n - s.now) = max s.now n
      omega
    · have hn : n ≤ s.now := Nat.le_of_not_lt h
      rw [notBefore_of_le s n hn]
      refine ⟨(Nat.max_eq_left hn).symm, rfl, rfl, fun _ => rfl, fun _ _ _ _ => ?_⟩
      rw [Nat.sub_eq_zero_of_le hn, Nat.add_zero]

/-- Settles O3. Every table of the reset machine is empty, so a key reads as unlisted; the votes of the critical words agree. -/
theorem resetHolds : Obligations.ResetHolds := by
  refine ⟨⟨rfl, rfl, rfl, rfl, rfl, rfl, fun _ => ⟨rfl, rfl, rfl⟩, fun _ _ => rfl, fun _ => rfl, reset_queueDisabled, rfl, reset_pentValid,
    reset_pentMask, fun _ _ => tget_nil _ _, fun _ => ⟨tget_nil _ _, tget_nil _ _, tget_nil _ _⟩, rfl, fun _ => tget_nil _ _⟩,
    stores_reset, rfl⟩
end

section
/-! The vector operations of R88 on FP32 operands: what an elementwise instruction writes at z, and what it leaves alone. -/

open Sys2Proof Sys2Proof.Machine

namespace Sys2Proof

/-! ### Little-endian bytes (R8) -/

@[simp] theorem leBytes_length (k x : Nat) : (leBytes k x).length = k := by
  induction k generalizing x with
  | zero => rfl
  | succ k ih => simp [leBytes, ih]

theorem leNat_leBytes (k x : Nat) : leNat (leBytes k x) = x % 256 ^ k := by
  induction k generalizing x with
  | zero => simp [leBytes, leNat, Nat.mod_one]
  | succ k ih => rw [leBytes, leNat, ih, Nat.pow_succ', Nat.mod_mul, BitVec.toNat_ofNat]

/-- The bytes of a number whose low `b` bytes are those of `e` and whose rest is `r`. -/
theorem leBytes_digit (b m e r : Nat) :
    leBytes (b + m) (e % 256 ^ b + 256 ^ b * r) = leBytes b e ++ leBytes m r := by
  induction b generalizing e with
  | zero => simp [leBytes, Nat.mod_one]
  | succ b ih =>
    have hx : e % 256 ^ (b + 1) + 256 ^ (b + 1) * r = e % 256 + 256 * (e / 256 % 256 ^ b + 256 ^ b * r) := by
      rw [Nat.pow_succ', Nat.mod_mul, Nat.mul_add, Nat.mul_assoc, Nat.add_assoc]
    have hlo : BitVec.ofNat 8 (e % 256 + 256 * (e / 256 % 256 ^ b + 256 ^ b * r)) = BitVec.ofNat 8 e :=
      BitVec.eq_of_toNat_eq (by simp)
    have hhi : (e % 256 + 256 * (e / 256 % 256 ^ b + 256 ^ b * r)) / 256 = e / 256 % 256 ^ b + 256 ^ b * r := by omega
    rw [Nat.succ_add, leBytes, hx, hlo, hhi, ih, leBytes, List.cons_append]

end Sys2Proof

namespace Sys2Proof.Machine

/-! ### Packing of elements that fill whole bytes (R70) -/

/-- The number whose digits, of `w` bits each, are the elements, the first the least. -/
def packedNat (w : Nat) : List Nat → Nat
  | [] => 0
  | e :: es => e % 2 ^ w + 2 ^ w * packedNat w es

theorem packFold_eq_packedNat (w : Nat) (es : List Nat) (j a : Nat) :
    (es.zipIdx j).foldl (fun a e => a + e.1 % 2 ^ w * 2 ^ (w * e.2)) a = a + 2 ^ (w * j) * packedNat w es := by
  induction es generalizing j a with
  | nil => rfl
  | cons e es ih =>
    rw [List.zipIdx_cons, List.foldl_cons, ih, packedNat, Nat.mul_succ, Nat.pow_add, Nat.mul_add, Nat.mul_comm (e % 2 ^ w),
      Nat.mul_assoc, Nat.add_assoc]

/-- `packBits` writes out the number that its elements form. -/
theorem packBits_eq_packedNat (w : Nat) (es : List Nat) : packBits w es = leBytes (cdiv (es.length * w) 8) (packedNat w es) := by
  rw [packBits, packFold_eq_packedNat, Nat.mul_zero, Nat.pow_zero, Nat.one_mul, Nat.zero_add]

theorem leBytes_packedNat (b : Nat) (es : List Nat) :
    leBytes (es.length * b) (packedNat (8 * b) es) = es.flatMap (leBytes b) := by
  induction es with
  | nil => rw [List.length_nil, Nat.zero_mul, List.flatMap_nil, leBytes]
  | cons e es ih =>
    have hbase : 2 ^ (8 * b) = 256 ^ b := Nat.pow_mul 2 8 b
    rw [packedNat, hbase, List.length_cons, Nat.succ_mul, Nat.add_comm (es.length * b), leBytes_digit, ih, List.flatMap_cons]

/-- Elements of `b` bytes are packed one after the other. -/
theorem packBits_bytes (b : Nat) (es : List Nat) : packBits (8 * b) es = es.flatMap (leBytes b) := by
  have hlen : cdiv (es.length * (8 * b)) 8 = es.length * b := by
    rw [cdiv, Nat.mul_left_comm]
    omega
  rw [packBits_eq_packedNat, hlen, leBytes_packedNat]

theorem packRuns_bytes (b n : Nat) (es : List Nat) (h : es.length ≤ n) : packRuns (8 * b) n es = es.flatMap (leBytes b) := by
  induction n generalizing es with
  | zero => simp [List.eq_nil_of_length_eq_zero (Nat.le_zero.1 h), packRuns]
  | succ n ih =>
    cases es with
    | nil => rfl
    | cons e es =>
      have hrest : ((e :: es).drop 8).length ≤ n := by
        simp only [List.length_drop, List.length_cons] at h ⊢
        omega
      rw [packRuns, packBits_bytes, ih _ hrest, List.isEmpty_cons, if_neg Bool.false_ne_true, ← List.flatMap_append,
        List.take_append_drop]

theorem length_flatMap_same {α β : Type} (g : α → List β) (b : Nat) (hg : ∀ x, (g x).length = b) (l : List α) :
    (l.flatMap g).length = b * l.length := by
  induction l with
  | nil => rfl
  | cons x l ih => rw [List.flatMap_cons, List.length_append, hg, ih, List.length_cons, Nat.mul_succ, Nat.add_comm]

/-- Element `i` among pieces of one length laid end to end. -/
theorem take_drop_flatMap {α β : Type} (g : α → List β) (b : Nat) (hg : ∀ x, (g x).length = b) (l : List α) (i : Nat)
    (h : i < l.length) : ((l.flatMap g).drop (b * i)).take b = g l[i] := by
  induction l generalizing i with
  | nil => exact absurd h (Nat.not_lt_zero i)
  | cons x l ih =>
    cases i with
    | zero => simp [← hg x]
    | succ i =>
      rw [List.flatMap_cons, Nat.mul_succ, Nat.add_comm, ← List.drop_drop, List.drop_left' (hg x)]
      exact ih i (Nat.lt_of_succ_lt_succ h)

/-! ### FP32 (R65) -/

/-- FP32 encodings have 32 bits. -/
theorem fmt32_enc_lt (x : Num) : fmt32.enc x < 2 ^ 32 := by
  cases x with
  | nan => decide
  | inf n =>
    have := Bool.toNat_le n
    simp only [Ieee.enc, fmt32]
    omega
  | fin n m e =>
    have := Bool.toNat_le n
    simp only [Ieee.enc, fmt32]
    omega

theorem vecBytes_fp32 (n : Nat) : vecBytes 12 n = 4 * n := by
  have hmx : fmtMx 12 = false := by decide
  have hw : fmtWidth 12 = 32 := rfl
  rw [vecBytes, hmx, if_neg Bool.false_ne_true, packed, hw, cdiv]
  omega

theorem VVal.enc_fp32 (level1 : Bool) : (fun v : VVal => (v.enc 12 level1).1) = fun v => fmt32.enc (dec32 v.toF) := rfl

/-- An FP32 vector is one piece, of four bytes an element. -/
theorem encVector_fp32 (vs : List VVal) (level1 : Bool) :
    (encVector vs 12 level1).1 = [(0, vs.flatMap fun v => leBytes 4 (fmt32.enc (dec32 v.toF)))] := by
  have hmx : fmtMx 12 = false := by decide
  have hw : fmtWidth 12 = 8 * 4 := rfl
  rw [encVector, hmx, if_neg Bool.false_ne_true, hw]
  dsimp only
  rw [List.map_map, Function.comp_def, VVal.enc_fp32, packRuns_bytes _ _ _ (Nat.le_of_eq (List.length_map _)), List.flatMap_map]

/-! ### The local store: a read within what was written -/

theorem lsKey_add (p a i : Nat) : lsKey p (a + i) = lsKey p a + i := (Nat.add_assoc _ a i).symm

/-- A read of consecutive keys within consecutive writes. -/
theorem tgetList_tsetList {α : Type} [DecidableEq α] (d : Nat → α) (t : Table α) (k a n : Nat) (vs : List α)
    (h : a + n ≤ vs.length) : tgetList d (tsetList d t k vs) (k + a) n = (vs.drop a).take n := by
  refine List.ext_getElem (by rw [tgetList_length, List.length_take, List.length_drop]; omega) fun i hi _ => ?_
  have hin : i < n := by rwa [tgetList_length] at hi
  have hget := tgetList_getElem? d (tsetList d t k vs) (k + a) n i hin
  rw [List.getElem?_eq_getElem hi, Option.some_inj] at hget
  have hkey : k ≤ k + a + i ∧ k + a + i - k < vs.length := ⟨by omega, by omega⟩
  have hidx : k + a + i - k = a + i := by omega
  rw [hget, tget_tsetList, dif_pos hkey]
  simp only [hidx, List.getElem_take, List.getElem_drop]

/-! ### The vector operation -/

@[simp] theorem engineReady_ls (s : State) (p id : Nat) : (engineReady s p id).ls = s.ls := rfl
@[simp] theorem engineReady_mem (s : State) (p id : Nat) : (engineReady s p id).mem = s.mem := rfl

@[simp] theorem satIf_ls (s : State) (c : CtxId) (b : Bool) : (satIf s c b).ls = s.ls := by cases b <;> rfl
@[simp] theorem satIf_mem (s : State) (c : CtxId) (b : Bool) : (satIf s c b).mem = s.mem := by cases b <;> rfl

/-- Writes of pieces of a local store leave the banks. -/
theorem foldl_lsWrite_mem (s : State) (p a : Nat) (l : List (Nat × List Byte)) :
    (l.foldl (fun s x => lsWrite s p (a + x.1) x.2) s).mem = s.mem := by
  induction l generalizing s with
  | nil => rfl
  | cons x l ih => rw [List.foldl_cons, ih, lsWrite_mem]

/-- No vector operation writes the banks. -/
theorem runVec_mem (s : State) (c : CtxId) (id : Nat) (o : VOp) (f : VecF) : (runVec s c id o f).mem = s.mem := by
  simp only [runVec, engineReady_mem, satIf_mem, foldl_lsWrite_mem]

/-- An FP32 element needs no conversion (R76). -/
theorem vecElem_fp32_toF (s : State) (p base n i : Nat) : VVal.f (vecElem s p base 12 n i).toF = vecElem s p base 12 n i := rfl

/-- Element `i` of the FP32 operand at unit `a` of an instruction. -/
def fp32Elem (s : State) (c : CtxId) (f : VecF) (a : BitVec 16) (i : Nat) : VVal :=
  vecElem s c.p (relocLo s c (unitRange a (4 * vecLen f))) 12 (vecLen f) i

/-- What an elementwise operation on FP32 operands forms at element `i` (R88). -/
def fp32Result (s : State) (c : CtxId) (o : VOp) (f : VecF) (i : Nat) : VVal :=
  (vecEval o (fp32Elem s c f f.xadr i) (if o.usesY then fp32Elem s c f f.yadr i else fp32Elem s c f f.xadr i)
    (if o = .fma then fp32Elem s c f f.zadr i else fp32Elem s c f f.xadr i)).1

/-- The bytes that an elementwise operation on FP32 operands writes at z. -/
def fp32Bytes (s : State) (c : CtxId) (o : VOp) (f : VecF) : List Byte :=
  ((List.range (vecLen f)).map (fp32Result s c o f)).flatMap fun v => leBytes 4 (fmt32.enc (dec32 v.toF))

@[simp] theorem fp32Bytes_length (s : State) (c : CtxId) (o : VOp) (f : VecF) : (fp32Bytes s c o f).length = 4 * vecLen f := by
  rw [fp32Bytes, length_flatMap_same _ 4 (fun _ => leBytes_length 4 _), List.length_map, List.length_range]

theorem fp32Bytes_elem (s : State) (c : CtxId) (o : VOp) (f : VecF) (i : Nat) (h : i < vecLen f) :
    ((fp32Bytes s c o f).drop (4 * i)).take 4 = leBytes 4 (fmt32.enc (dec32 (fp32Result s c o f i).toF)) := by
  rw [fp32Bytes, take_drop_flatMap _ 4 (fun _ => leBytes_length 4 _) _ i (by rwa [List.length_map, List.length_range]),
    List.getElem_map, List.getElem_range]

/-- The values of an elementwise operation whose operands are FP32, element by element: z enters an FMA as it stands. -/
theorem vecValues_fp32 (s : State) (c : CtxId) (o : VOp) (f : VecF) (hr : isReduce o = false) (hs : f.sfmt = 12) (hd : f.dfmt = 12)
    (ho : o ≠ .scale) :
    let base := fun a => relocLo s c (unitRange a (4 * vecLen f))
    (vecValues s c.p o f (base f.xadr) (base f.yadr) (base f.zadr)).1 = (List.range (vecLen f)).map (fp32Result s c o f) := by
  have hint : fmtInt 12 = false := by decide
  simp only [vecValues, hr, hs, hd, hint, yFmt, if_neg ho, Bool.false_eq_true, if_false, List.map_map]
  refine List.map_congr_left fun i _ => ?_
  by_cases hf : o = .fma
  · simp only [Function.comp_apply, fp32Result, fp32Elem, if_pos hf, vecElem_fp32_toF]
  · simp only [Function.comp_apply, fp32Result, fp32Elem, if_neg hf]

/-- An elementwise operation on FP32 operands writes the bytes of its results at z, and nothing else of the local stores. -/
theorem runVec_ls_fp32 (s : State) (c : CtxId) (id : Nat) (o : VOp) (f : VecF) (hr : isReduce o = false) (hs : f.sfmt = 12)
    (hd : f.dfmt = 12) (ho : o ≠ .scale) :
    (runVec s c id o f).ls =
      tsetList zero8 s.ls (lsKey c.p (relocLo s c (unitRange f.zadr (4 * vecLen f)))) (fp32Bytes s c o f) := by
  have hval := vecValues_fp32 s c o f hr hs hd ho
  have hy : yFmt o f = 12 := by rw [yFmt, if_neg ho, hs]
  have hwr : vecWrites o f = [unitRange f.zadr (4 * vecLen f)] := by
    rw [vecWrites, hr, if_neg Bool.false_ne_true, hd, vecBytes_fp32]
  dsimp only at hval
  simp only [runVec, engineReady_ls, satIf_ls, vecPieces, hr, hs, hd, hy, hwr, vecBytes_fp32, List.headD_cons, hval,
    encVector_fp32, Bool.false_eq_true, if_false, List.foldl_cons, List.foldl_nil, lsWrite_ls, Nat.add_zero, fp32Bytes]

end Sys2Proof.Machine

/-- Settles O13. The operation writes at z the packed bytes of its results (`runVec_ls_fp32`): each element is read back out of them,
and every other key of the local stores, and the banks, stay. -/
theorem vecElementwise : Obligations.VecElementwise := by
  unfold Obligations.VecElementwise
  intro s c id o f hr hs hd ho n base elem t
  have hls : t.ls = tsetList zero8 s.ls (lsKey c.p (base f.zadr)) (fp32Bytes s c o f) := runVec_ls_fp32 s c id o f hr hs hd ho
  refine ⟨fun i hi => ?_, fun k hk => ?_, runVec_mem s c id o f⟩
  · have hread : lsRead t c.p (base f.zadr + 4 * i) 4 = leBytes 4 (fmt32.enc (dec32 (fp32Result s c o f i).toF)) := by
      have hfit : 4 * i + 4 ≤ (fp32Bytes s c o f).length := by
        rw [fp32Bytes_length]
        change i < vecLen f at hi
        omega
      rw [lsRead, hls, lsKey_add, tgetList_tsetList _ _ _ _ _ _ hfit, fp32Bytes_elem s c o f i hi]
    dsimp only
    rw [hread, leNat_leBytes]
    exact Nat.mod_eq_of_lt (fmt32_enc_lt _)
  · have hout : ¬ (lsKey c.p (base f.zadr) ≤ k ∧ k - lsKey c.p (base f.zadr) < (fp32Bytes s c o f).length) := by
      rw [fp32Bytes_length]
      change ¬ (lsKey c.p (base f.zadr) ≤ k ∧ k < lsKey c.p (base f.zadr) + 4 * vecLen f) at hk
      omega
    rw [hls, tget_tsetList, dif_neg hout]
end

section
/-! The issue of GLEAN, COLL and SIEVE (R98, R131, R276): an instruction whose checks pass and whose operands are sound. -/

open Sys2Proof Sys2Proof.Machine

namespace Sys2Proof.Machine

/-! ### Sound operands (R52) -/

theorem lsSound_iff (s : State) (p : Nat) (r : Range) : lsSound s p r = true ↔ poisonedIn s p r = false ∧ lsErrs s p r = [] := by
  simp [lsSound]

/-- Whether a range is sound rests on the poison bits and the errors of the local stores alone. -/
theorem lsSound_congr {s t : State} (hp : t.lsPoison = s.lsPoison) (he : t.lsErr = s.lsErr) (p : Nat) : lsSound t p = lsSound s p := by
  funext r
  simp only [lsSound, poisonedIn, lsErrs, hp, he]

/-- Reading sound ranges finds nothing. -/
theorem lsScan_sound (s : State) (p : Nat) (rs : List Range) (h : rs.all (lsSound s p) = true) : lsScan s p rs = s := by
  have hnone : rs.flatMap (lsErrs s p) = [] :=
    List.flatMap_eq_nil_iff.2 fun r hr => ((lsSound_iff s p r).1 (List.all_eq_true.1 h r hr)).2
  rw [lsScan, hnone]
  rfl

/-- An instruction whose operands are sound goes on. -/
theorem orPoison_sound (s : State) (c : CtxId) (rs : List Range) (f : State → State) (h : rs.all (lsSound s c.p) = true) :
    orPoison s c rs f = f s := by
  have hclean : rs.any (poisonedIn s c.p) = false :=
    List.any_eq_false.2 fun r hr => by simp [((lsSound_iff s c.p r).1 (List.all_eq_true.1 h r hr)).1]
  simp [orPoison, lsScan_sound s c.p rs h, hclean]

/-! ### Relocation (R325) -/

/-- Which partition holds a croft rests on the partition table alone. -/
theorem partAt_congr {s t : State} (h : t.ptab = s.ptab) (p : Nat) : partAt t p = partAt s p := by
  have hpent : t.pent = s.pent := by
    funext k
    rw [State.pent, h]
    rfl
  have hfrom : ∀ n k, partFrom t p k n = partFrom s p k n := by
    intro n
    induction n with
    | zero => intro k; rfl
    | succ n ih => intro k; rw [partFrom, hpent, ih]; rfl
  rw [partAt, partOf, hfrom]
  rfl

/-- Where a range relocates to rests on the partition table and the requests. -/
theorem relocate_congr {s t : State} (h : t.ptab = s.ptab) (hreq : ∀ k e, (t.slot k e).req = (s.slot k e).req) (c : CtxId) :
    relocate t c = relocate s c := by
  funext r
  simp only [relocate, reqOf, hreq, partAt_congr h]

theorem relocLo_congr {s t : State} (h : t.ptab = s.ptab) (hreq : ∀ k e, (t.slot k e).req = (s.slot k e).req) (c : CtxId) :
    relocLo t c = relocLo s c := by
  funext r
  simp only [relocLo, relocate_congr h hreq]

/-! ### Updates of a croft that leave its contexts -/

theorem modCroft_ctx_of (s : State) (p : Nat) (f : Croft → Croft) (hf : ∀ x e, (f x).ctx e = x.ctx e) (c : CtxId) :
    (modCroft s p f).ctx c = s.ctx c := by
  simp only [State.ctx, modCroft, setCroft_croft]
  split
  · rename_i hp
    rw [hf, hp]
  · rfl

/-! ### An engine instruction enters its engine -/

@[simp] theorem enter_ctx (s : State) (c c' : CtxId) (i : Instr) (pl : Plan) (rs ws : List Range) : (enter s c i pl rs ws).ctx c' = s.ctx c' := by
  unfold enter
  split
  · exact modCroft_ctx_of _ _ _ (by intros; rfl) _
  · rfl

@[simp] theorem enter_lsPoison (s : State) (c : CtxId) (i : Instr) (pl : Plan) (rs ws : List Range) :
    (enter s c i pl rs ws).lsPoison = s.lsPoison := by
  unfold enter
  split <;> rfl

@[simp] theorem enter_lsErr (s : State) (c : CtxId) (i : Instr) (pl : Plan) (rs ws : List Range) :
    (enter s c i pl rs ws).lsErr = s.lsErr := by
  unfold enter
  split <;> rfl

theorem enter_relocated (s : State) (c : CtxId) (i : Instr) (pl : Plan) (rs ws : List Range) :
    relocated (enter s c i pl rs ws) c = relocated s c := by
  have hreq : ∀ k e, ((enter s c i pl rs ws).slot k e).req = (s.slot k e).req := by
    intros
    unfold enter
    split <;> rfl
  have hptab : (enter s c i pl rs ws).ptab = s.ptab := by
    unfold enter
    split <;> rfl
  funext l
  simp only [relocated, relocate_congr hptab hreq]

/-- Its operands are where they were and as sound as they were. -/
theorem enter_orPoison (s : State) (c : CtxId) (i : Instr) (pl : Plan) (rs ws : List Range) (f : State → State)
    (h : (relocated s c pl.reads).all (lsSound s c.p) = true) :
    orPoison (enter s c i pl rs ws) c (relocated (enter s c i pl rs ws) c pl.reads) f = f (enter s c i pl rs ws) :=
  orPoison_sound _ _ _ _ (by rwa [enter_relocated, lsSound_congr (enter_lsPoison ..) (enter_lsErr ..)])

/-! ### The three instructions -/

/-- A GLEAN whose list is sound and passes its scan waits in its engine (R131). -/
theorem issueGlean_scanned (s : State) (c : CtxId) (i : Instr) (f : GleanF) (pool : Nat)
    (hp : Passes s c (gleanPlan s c f)) (hs : (relocated s c (gleanPlan s c f).reads).all (lsSound s c.p) = true)
    (hscan : scanCauses (enter s c i (gleanPlan s c f) (relocated s c (gleanPlan s c f).reads)
      (relocated s c (gleanPlan s c f).writes)) c f pool = []) :
    issueGlean s c i f pool = moveOn (enter s c i (gleanPlan s c f) (relocated s c (gleanPlan s c f).reads)
      (relocated s c (gleanPlan s c f).writes)) c := by
  have hengine : (gleanPlan s c f).engine.isSome = true := rfl
  simp only [issueGlean, issue_passes _ _ _ _ _ _ hp, hengine, if_true]
  rw [enter_orPoison _ _ _ _ _ _ _ hs, hscan]
  rfl

/-- A COLL whose contribution is sound arrives at its collective (R276). -/
theorem issueColl_sound (s : State) (c : CtxId) (i : Instr) (reduce : Bool) (f : CollF) (hp : Passes s c (collPlan reduce f))
    (hs : (relocated s c (collPlan reduce f).reads).all (lsSound s c.p) = true) :
    issueColl s c i reduce f = collArrive (enter s c i (collPlan reduce f) (relocated s c (collPlan reduce f).reads)
      (relocated s c (collPlan reduce f).writes)) c (s.croft c.p).nextId reduce f := by
  simp only [issueColl, issue_passes _ _ _ _ _ _ hp, Bool.false_eq_true, if_false]
  exact enter_orPoison _ _ _ _ _ _ _ hs

/-- The context of an arrival waits for its collective, and has taken part in one more. -/
theorem collArrive_ctx (s : State) (c : CtxId) (id : Nat) (reduce : Bool) (f : CollF) :
    (collArrive s c id reduce f).ctx c = { s.ctx c with wait := .coll, since := s.now, colls := (s.ctx c).colls + 1 } :=
  setCtx_ctx _ _ _

/-- A SIEVE that leaves its context running has started its contribution, and nothing has failed its round (R98, R112). -/
theorem issueSieve_runs (s : State) (c : CtxId) (i : Instr) (route : Bool) (f : SieveF) (hp : Passes s c (sievePlan s c route f)) :
    let t := moveOn (startSieve (enter s c i (sievePlan s c route f) (relocated s c (sievePlan s c route f).reads)
      (relocated s c (sievePlan s c route f).writes)) c (s.croft c.p).nextId route f) c
    (t.ctx c).run ≠ .stopped → issueSieve s c i route f = t := by
  intro t hrun
  have hissue : issue s c i (sievePlan s c route f) (fun id s => startSieve s c id route f) true = t := by
    rw [issue_passes _ _ _ _ _ _ hp]
    rfl
  have hgoes : stoppedAtIssue s t c = false := by simp [stoppedAtIssue, hrun]
  simp only [issueSieve, hissue, hgoes, Bool.false_eq_true, if_false]

end Sys2Proof.Machine

/-- Settles O12. Each of the instructions passes its checks and enters its engine (`issue_passes`); sound operands let the scan of a GLEAN
and the contribution of a COLL go on, and a SIEVE that leaves its context running fails no round. -/
theorem gatherIssue : Obligations.GatherIssue := by
  unfold Obligations.GatherIssue
  intro s c
  refine ⟨fun f => ⟨?_, ?_, ?_⟩, fun f => ⟨?_, ?_⟩, fun f => ⟨?_, ?_⟩⟩
  · exact fun hp hs hscan => congrArg Host.Outcome.next (issueGlean_scanned s c _ f 0 hp hs hscan)
  · exact fun hp hs hscan => congrArg Host.Outcome.next (issueGlean_scanned s c _ f 1 hp hs hscan)
  · exact fun hp hs hscan => congrArg Host.Outcome.next (issueGlean_scanned s c _ f 2 hp hs hscan)
  · intro hp hs
    refine ⟨_, congrArg Host.Outcome.next (issueColl_sound s c _ false f hp hs), rfl, ?_, ?_⟩ <;> rw [collArrive_ctx, enter_ctx]
  · intro hp hs
    refine ⟨_, congrArg Host.Outcome.next (issueColl_sound s c _ true f hp hs), rfl, ?_, ?_⟩ <;> rw [collArrive_ctx, enter_ctx]
  · exact fun hp hrun => congrArg Host.Outcome.next (issueSieve_runs s c _ false f hp hrun)
  · exact fun hp hrun => congrArg Host.Outcome.next (issueSieve_runs s c _ true f hp hrun)
end

section
/-! Rank order and the deal of a sieve round (R102, R104). -/

open Sys2Proof Sys2Proof.Machine

namespace Sys2Proof.Machine

/-! ### The stable sort -/

section
variable {α : Type} (key : α → Nat)

theorem insertBy_perm (x : α) (l : List α) : (insertBy key x l).Perm (x :: l) := by
  induction l with
  | nil => exact .refl _
  | cons y l ih =>
    by_cases h : key y < key x
    · simpa only [insertBy, if_pos h] using (ih.cons y).trans (.swap x y l)
    · simp only [insertBy, if_neg h, List.Perm.refl]

theorem sortBy_perm (l : List α) : (sortBy key l).Perm l := by
  induction l with
  | nil => exact .refl _
  | cons x l ih => exact (insertBy_perm key x _).trans (ih.cons x)

/-- `a` stands before `b` in a stable sort by a key, of a list in which `R` orders what stands before what. -/
def KeyThen (R : α → α → Prop) (a b : α) : Prop := key a < key b ∨ (key a = key b ∧ R a b)

theorem insertBy_pairwise (R : α → α → Prop) (x : α) (l : List α) (hx : ∀ y ∈ l, R x y) (hl : l.Pairwise (KeyThen key R)) :
    (insertBy key x l).Pairwise (KeyThen key R) := by
  induction l with
  | nil => exact List.pairwise_singleton ..
  | cons y l ih =>
    obtain ⟨hy, hl'⟩ := List.pairwise_cons.1 hl
    by_cases h : key y < key x
    · rw [insertBy, if_pos h]
      refine List.pairwise_cons.2 ⟨fun z hz => ?_, ih (fun z hz => hx z (.tail y hz)) hl'⟩
      rcases List.mem_cons.1 ((insertBy_perm key x l).mem_iff.1 hz) with rfl | hz
      · exact .inl h
      · exact hy z hz
    · rw [insertBy, if_neg h]
      refine List.pairwise_cons.2 ⟨fun z hz => ?_, hl⟩
      have hle : key y ≤ key z := by
        rcases List.mem_cons.1 hz with rfl | hz
        · exact Nat.le_refl _
        · rcases hy z hz with hlt | ⟨heq, -⟩
          · exact Nat.le_of_lt hlt
          · exact Nat.le_of_eq heq
      rcases Nat.lt_or_eq_of_le (Nat.le_trans (Nat.le_of_not_lt h) hle) with hlt | heq
      · exact .inl hlt
      · exact .inr ⟨heq, hx z hz⟩

/-- The sort orders by its key, and leaves elements of one key in the order they had. -/
theorem sortBy_stable (R : α → α → Prop) (l : List α) (h : l.Pairwise R) : (sortBy key l).Pairwise (KeyThen key R) := by
  induction l with
  | nil => exact .nil
  | cons x l ih =>
    obtain ⟨hx, hl⟩ := List.pairwise_cons.1 h
    exact insertBy_pairwise key R x _ (fun y hy => hx y ((sortBy_perm key l).mem_iff.1 hy)) (ih hl)

end

/-! ### Rank order (R102) -/

theorem scoreKey_lt (b : BitVec 32) : scoreKey b < 2 ^ 32 := by
  have := b.isLt
  unfold scoreKey
  split <;> omega

/-- The key of rank order falls where the score rises. -/
theorem rankKey_lt_iff (a b : BitVec 32) :
    ((2 ^ 32 : Int) - scoreKey a).toNat < ((2 ^ 32 : Int) - scoreKey b).toNat ↔ scoreKey b < scoreKey a := by
  have := scoreKey_lt a
  have := scoreKey_lt b
  omega

theorem rankKey_eq_iff (a b : BitVec 32) :
    ((2 ^ 32 : Int) - scoreKey a).toNat = ((2 ^ 32 : Int) - scoreKey b).toNat ↔ scoreKey b = scoreKey a := by
  have := scoreKey_lt a
  have := scoreKey_lt b
  omega

theorem rankSort_perm (l : List Cand) : (rankSort l).Perm l := (sortBy_perm _ _).trans (sortBy_perm _ l)

/-- Higher scores come first and, of equal scores, lower tags: the sort by score keeps the order that the sort by tag gave. -/
theorem rankSort_pairwise (l : List Cand) : (rankSort l).Pairwise fun a b =>
    scoreKey (recScore b.r) < scoreKey (recScore a.r) ∨
      (scoreKey (recScore b.r) = scoreKey (recScore a.r) ∧ recTag a.r ≤ recTag b.r) := by
  have htags : (sortBy (fun a : Cand => recTag a.r) l).Pairwise fun a b => recTag a.r ≤ recTag b.r :=
    (sortBy_stable _ (fun _ _ => True) l (List.pairwise_of_forall fun _ _ => trivial)).imp fun h =>
      h.elim Nat.le_of_lt fun h => Nat.le_of_eq h.1
  exact (sortBy_stable _ _ _ htags).imp fun h => h.imp (rankKey_lt_iff _ _).1 (And.imp_left (rankKey_eq_iff _ _).1)

end Sys2Proof.Machine

/-- Settles O23. Rank order is a stable sort by score of a sort by tag (`rankSort_pairwise`), and a deal numbers its positions. -/
theorem rankAndDeal : Obligations.RankAndDeal := by
  unfold Obligations.RankAndDeal
  refine ⟨fun l => ⟨rankSort_perm l, rankSort_pairwise l⟩, fun n pass l q a hq => ?_⟩
  simp only [dealOut, List.getElem?_map, List.getElem?_zipIdx, hq, Option.map_some, Nat.zero_add]
end

section
/-! How sieve rounds end: delivery (R109 to R111, R114) and failure (R112). -/

open Sys2Proof Sys2Proof.Machine

namespace Sys2Proof.Machine

/-! ### Folds over a list of units -/

/-- What a step establishes of its unit, and no step takes away, holds of every unit at the end. -/
theorem foldl_establishes {σ α : Type} (f : σ → α → σ) (P : σ → α → Prop) (hself : ∀ s a, P (f s a) a)
    (hkeep : ∀ s a b, P s b → P (f s a) b) (l : List α) (s : σ) : ∀ a ∈ l, P (l.foldl f s) a := by
  have hstays : ∀ (l : List α) s b, P s b → P (l.foldl f s) b := by
    intro l
    induction l with
    | nil => exact fun _ _ h => h
    | cons a l ih => exact fun s b h => ih _ _ (hkeep s a b h)
  induction l generalizing s with
  | nil => exact fun _ h => absurd h List.not_mem_nil
  | cons a l ih =>
    intro b hb
    rcases List.mem_cons.1 hb with rfl | hb
    · exact hstays l _ _ (hself s b)
    · exact ih _ b hb

/-! ### Slots -/

theorem Part.setSlot_slot (x : Part) (e : Nat) (y : Slot) : (x.setSlot e y).slot e = y := by
  unfold Part.setSlot Part.slot
  split <;> rfl

@[simp] theorem modSlot_slot (s : State) (k e : Nat) (f : Slot → Slot) : (modSlot s k e f).slot k e = f (s.slot k e) := by
  simp only [State.slot, modSlot, modPart, setPart_part_self, Part.setSlot_slot]

/-! ### What the steps of a round change -/

/-- From `s` to `t` nothing changes but crofts, partitions, sieves and counters. -/
def RoundFrame (s t : State) : Prop :=
  t = { s with crofts := t.crofts, parts := t.parts, sieves := t.sieves, ctr := t.ctr }

theorem RoundFrame.refl (s : State) : RoundFrame s s := rfl

theorem RoundFrame.trans {s t u : State} (hst : RoundFrame s t) (htu : RoundFrame t u) : RoundFrame s u := by
  unfold RoundFrame at *
  rw [htu, hst]

theorem RoundFrame.foldl {α : Type} {f : State → α → State} (hf : ∀ s a, RoundFrame s (f s a)) (l : List α) (s : State) :
    RoundFrame s (l.foldl f s) := by
  induction l generalizing s with
  | nil => exact .refl s
  | cons a l ih => exact (hf s a).trans (ih (f s a))

theorem OnlyCounters.roundFrame {s t : State} (h : OnlyCounters s t) : RoundFrame s t := by
  unfold OnlyCounters RoundFrame at *
  rw [h]

theorem RoundFrame.now {s t : State} (h : RoundFrame s t) : t.now = s.now := by rw [h]
theorem RoundFrame.mem {s t : State} (h : RoundFrame s t) : t.mem = s.mem := by rw [h]
theorem RoundFrame.ls {s t : State} (h : RoundFrame s t) : t.ls = s.ls := by rw [h]

theorem OnlyCounters.ctx {s t : State} (h : OnlyCounters s t) (c : CtxId) : t.ctx c = s.ctx c := by
  rw [h]
  rfl

theorem OnlyCounters.slot {s t : State} (h : OnlyCounters s t) (k e : Nat) : t.slot k e = s.slot k e := by
  rw [h]
  rfl

theorem OnlyCounters.ite {s t u : State} (p : Prop) [Decidable p] (ht : OnlyCounters s t) (hu : OnlyCounters s u) :
    OnlyCounters s (if p then t else u) := by
  split
  · exact ht
  · exact hu

/-! ### A context stops (R49) -/

theorem endHold_onlyCounters (s : State) (c : CtxId) : OnlyCounters s (endHold s c) := .ite _ (.bump ..) (.refl s)

theorem endStall_onlyCounters (s : State) (p : Nat) (g : Engine) : OnlyCounters s (endStall s p g) := by
  unfold endStall
  split
  · exact .bump ..
  · exact .bump ..
  · exact .bump ..
  · exact .refl s

theorem endStalls_onlyCounters (s : State) (c : CtxId) : OnlyCounters s (endStalls s c) :=
  .foldl (fun s g => endStall_onlyCounters s c.p g) _ s

theorem countGend_onlyCounters (s : State) (k e : Nat) : OnlyCounters s (countGend s k e) := by
  unfold countGend
  split
  · exact .refl s
  · exact .ite _ (.bump ..) (.refl s)

theorem leaveGend_onlyCounters (s : State) (c : CtxId) : OnlyCounters s (leaveGend s c) :=
  .ite _ (countGend_onlyCounters ..) (.refl s)

/-- The waits that end when a context stops are counted. -/
def leaveWaits (s : State) (c : CtxId) : State := endStalls (endHold (leaveGend s c) c) c

theorem leaveWaits_onlyCounters (s : State) (c : CtxId) : OnlyCounters s (leaveWaits s c) :=
  ((leaveGend_onlyCounters s c).trans (endHold_onlyCounters ..)).trans (endStalls_onlyCounters ..)

/-- What a croft gives up when its context `e` stops (R63): the context's engine instructions and, where they are its `own`, the accumulators. -/
def Croft.giveUp (x : Croft) (e : Nat) (own : Bool) : Croft :=
  let x := x.dropEngines e
  if own then { x with hold := none, acc := [], accBad := [] } else x

theorem Croft.giveUp_ctx (x : Croft) (e : Nat) (own : Bool) (e' : Nat) : (x.giveUp e own).ctx e' = x.ctx e' := by cases own <;> rfl

/-- A context once it has stopped (R49). -/
def Ctx.stoppedBy (x : Ctx) (cause : Nat) (idx : BitVec 32) : Ctx :=
  { x with run := .stopped, cause := cause, causeAt := idx, wait := .none, held := none }

theorem stopCtx_eq (s : State) (c : CtxId) (cause : Nat) (idx : BitVec 32) :
    stopCtx s c cause idx =
      let t := modCtx (modCroft (leaveWaits s c) c.p fun x => x.giveUp c.e ((s.ctx c).inCroft && !(s.ctx c).ended)) c
        fun x => x.stoppedBy cause idx
      if cause = 0x19 ∨ cause = causeBroken then bump t (ctrSquare 12) 1 else t := rfl

theorem modCroft_frame (s : State) (p : Nat) (f : Croft → Croft) : RoundFrame s (modCroft s p f) := rfl

theorem modCtx_frame (s : State) (c : CtxId) (f : Ctx → Ctx) : RoundFrame s (modCtx s c f) := rfl

theorem stopCtx_frame (s : State) (c : CtxId) (cause : Nat) (idx : BitVec 32) : RoundFrame s (stopCtx s c cause idx) := by
  rw [stopCtx_eq]
  refine .trans ?_ (OnlyCounters.ite _ (.bump ..) (.refl _)).roundFrame
  exact ((leaveWaits_onlyCounters s c).roundFrame.trans (modCroft_frame ..)).trans (modCtx_frame ..)

/-- The context stops with its cause, and every other context is as it was. -/
theorem stopCtx_ctx (s : State) (c : CtxId) (cause : Nat) (idx : BitVec 32) (c' : CtxId) :
    (stopCtx s c cause idx).ctx c' = if c' = c then (s.ctx c).stoppedBy cause idx else s.ctx c' := by
  rw [stopCtx_eq, (OnlyCounters.ite _ (.bump ..) (.refl _)).ctx, modCtx_eq]
  by_cases hc : c' = c
  · rw [if_pos hc, hc, setCtx_ctx, modCroft_ctx_of _ _ _ fun x e => x.giveUp_ctx .., (leaveWaits_onlyCounters s c).ctx]
  · rw [if_neg hc, setCtx_ctx_ne _ _ _ _ hc, modCroft_ctx_of _ _ _ fun x e => x.giveUp_ctx .., (leaveWaits_onlyCounters s c).ctx]

/-! ### A round breaks (R112) -/

theorem countFail_onlyCounters (s : State) (r : Round) (v : Nat) : OnlyCounters s (countFail s r v) := .foldl (fun s _ => .bump s _ _) _ s

/-- Where a croft stands when its rounds break: at its SIEVE, where it has one. -/
def sieveAt (s : State) (c : CtxId) (e : Nat) : BitVec 32 :=
  match (s.croft c.p).engines.find? fun g => g.e == e && g.kind == .sieve with
  | some g => BitVec.ofNat 32 g.idx
  | none => posOf s c

/-- One croft of a slot whose rounds break stops with the cause, and the request fails. -/
def stopInRound (k e cause : Nat) (s : State) (c : CtxId) : State :=
  failReq (stopCtx s c cause (sieveAt s c e)) k e 0x0008 (faultDetail cause (s.ctx c).lc (sieveAt s c e))

/-- The breaking of a slot's rounds, step by step: they are counted, their crofts stop, their buffers are free. -/
theorem breakRounds_eq (s : State) (k e cause : Nat) : breakRounds s k e cause none =
    modSlot (freeBufs (((slotCtxs s k e).filter fun c => (s.ctx c).run != .stopped).foldl (stopInRound k e cause)
      ((s.slot k e).rounds.foldl (fun s r => countFail s r 0) s)) k e fun _ => true) k e fun x => { x with rounds := [] } := rfl

theorem modSlot_frame (s : State) (k e : Nat) (f : Slot → Slot) : RoundFrame s (modSlot s k e f) := rfl

@[simp] theorem modSlot_ctx (s : State) (k e : Nat) (f : Slot → Slot) (c : CtxId) : (modSlot s k e f).ctx c = s.ctx c := rfl

@[simp] theorem modSlot_sieve (s : State) (k e : Nat) (f : Slot → Slot) (v : Nat) : (modSlot s k e f).sieve v = s.sieve v := rfl

theorem stopInRound_frame (k e cause : Nat) (s : State) (c : CtxId) : RoundFrame s (stopInRound k e cause s c) :=
  (stopCtx_frame s c cause _).trans rfl

theorem stopInRound_ctx (k e cause : Nat) (s : State) (c c' : CtxId) : (stopInRound k e cause s c).ctx c' =
    if c' = c then (s.ctx c).stoppedBy cause (sieveAt s c e) else s.ctx c' :=
  (modSlot_ctx ..).trans (stopCtx_ctx ..)

/-- Every croft of a list that breaks with its rounds has stopped with the cause. -/
theorem foldl_stopInRound (k e cause : Nat) (l : List CtxId) (s : State) :
    ∀ c ∈ l, ((l.foldl (stopInRound k e cause) s).ctx c).run = .stopped ∧ ((l.foldl (stopInRound k e cause) s).ctx c).cause = cause := by
  have hself : ∀ s c, ((stopInRound k e cause s c).ctx c).run = .stopped ∧ ((stopInRound k e cause s c).ctx c).cause = cause := by
    intro s c
    rw [stopInRound_ctx, if_pos rfl]
    exact ⟨rfl, rfl⟩
  refine foldl_establishes _ (fun s c => (s.ctx c).run = .stopped ∧ (s.ctx c).cause = cause) hself (fun s c c' h => ?_) l s
  by_cases hc : c' = c
  · exact hc ▸ hself s c
  · rwa [stopInRound_ctx, if_neg hc]

/-! ### The round buffers (R114) -/

/-- A sieve holds none of the buffers freed. -/
theorem freeBufs_bufs (s : State) (k e : Nat) (t : Nat → Bool) (v : Nat) (hv : v < 4) :
    ∀ b ∈ ((freeBufs s k e t).sieve v).bufs, ¬ (b.1 = k ∧ b.2.1 = e ∧ t b.2.2 = true) := by
  refine foldl_establishes _ (fun s v => ∀ b ∈ (s.sieve v).bufs, ¬ (b.1 = k ∧ b.2.1 = e ∧ t b.2.2 = true)) (fun s v b hb => ?_)
    (fun s w v h b hb => ?_) (List.range 4) s v (List.mem_range.2 hv)
  · rw [setSieve_sieve_self] at hb
    exact of_decide_eq_true (List.mem_filter.1 hb).2
  · rw [setSieve_sieve] at hb
    split at hb
    · exact of_decide_eq_true (List.mem_filter.1 hb).2
    · exact h b hb

theorem freeBufs_sieves (s : State) (k e : Nat) (t : Nat → Bool) : ∃ x, freeBufs s k e t = { s with sieves := x } := by
  unfold freeBufs
  induction List.range 4 generalizing s with
  | nil => exact ⟨_, rfl⟩
  | cons v l ih => exact ih _

theorem freeBufs_frame (s : State) (k e : Nat) (t : Nat → Bool) : RoundFrame s (freeBufs s k e t) := by
  obtain ⟨x, hx⟩ := freeBufs_sieves s k e t
  rw [hx]
  rfl

@[simp] theorem freeBufs_ctx (s : State) (k e : Nat) (t : Nat → Bool) (c : CtxId) : (freeBufs s k e t).ctx c = s.ctx c := by
  obtain ⟨x, hx⟩ := freeBufs_sieves s k e t
  rw [hx]
  rfl

@[simp] theorem freeBufs_slot (s : State) (k e : Nat) (t : Nat → Bool) (k' e' : Nat) :
    (freeBufs s k e t).slot k' e' = s.slot k' e' := by
  obtain ⟨x, hx⟩ := freeBufs_sieves s k e t
  rw [hx]
  rfl

theorem breakRounds_frame (s : State) (k e cause : Nat) : RoundFrame s (breakRounds s k e cause none) := by
  have hcount : RoundFrame s ((s.slot k e).rounds.foldl (fun s r => countFail s r 0) s) :=
    (OnlyCounters.foldl (fun s r => countFail_onlyCounters s r 0) _ s).roundFrame
  have hstop := hcount.trans
    (.foldl (stopInRound_frame k e cause) ((slotCtxs s k e).filter fun c => (s.ctx c).run != .stopped) _)
  rw [breakRounds_eq]
  exact (hstop.trans (freeBufs_frame ..)).trans (modSlot_frame ..)

/-- A croft that had not stopped has stopped with the cause. -/
theorem breakRounds_stops (s : State) (k e cause : Nat) (c : CtxId) (hc : c ∈ slotCtxs s k e) (hrun : (s.ctx c).run ≠ .stopped) :
    ((breakRounds s k e cause none).ctx c).run = .stopped ∧ ((breakRounds s k e cause none).ctx c).cause = cause := by
  rw [breakRounds_eq, modSlot_ctx, freeBufs_ctx]
  exact foldl_stopInRound k e cause _ _ c (List.mem_filter.2 ⟨hc, bne_iff_ne.2 hrun⟩)

theorem breakRounds_rounds (s : State) (k e cause : Nat) : ((breakRounds s k e cause none).slot k e).rounds = [] := by
  rw [breakRounds_eq, modSlot_slot]

theorem breakRounds_bufs (s : State) (k e cause : Nat) (v : Nat) (hv : v < 4) :
    ∀ b ∈ ((breakRounds s k e cause none).sieve v).bufs, ¬ (b.1 = k ∧ b.2.1 = e) := by
  intro b hb hke
  rw [breakRounds_eq, modSlot_sieve] at hb
  exact freeBufs_bufs _ k e _ v hv b hb ⟨hke.1, hke.2, rfl⟩

/-! ### Delivery (R109 to R111) -/

/-- What a delivery to crofts that wait for nothing leaves alone: the partitions, the banks, and what each context waits for. It finds no
error in local stores that hold none. -/
structure Delivered (s t : State) : Prop where
  parts : t.parts = s.parts
  mem : t.mem = s.mem
  wait : ∀ c, (t.ctx c).wait = (s.ctx c).wait
  noErr : s.lsErr = [] → t.lsErr = []

theorem Delivered.refl (s : State) : Delivered s s := ⟨rfl, rfl, fun _ => rfl, id⟩

theorem Delivered.trans {s t u : State} (hst : Delivered s t) (htu : Delivered t u) : Delivered s u :=
  ⟨htu.parts.trans hst.parts, htu.mem.trans hst.mem, fun c => (htu.wait c).trans (hst.wait c), fun h => htu.noErr (hst.noErr h)⟩

theorem modCroft_delivered (s : State) (p : Nat) (f : Croft → Croft) (hf : ∀ x e, (f x).ctx e = x.ctx e) : Delivered s (modCroft s p f) :=
  ⟨rfl, rfl, fun c => congrArg Ctx.wait (modCroft_ctx_of s p f hf c), id⟩

theorem modCtx_delivered (s : State) (c : CtxId) (f : Ctx → Ctx) (hf : ∀ x, (f x).wait = x.wait) : Delivered s (modCtx s c f) := by
  refine ⟨rfl, rfl, fun c' => ?_, id⟩
  by_cases hc : c' = c
  · rw [hc, modCtx_eq, setCtx_ctx, hf]
  · rw [modCtx_eq, setCtx_ctx_ne _ _ _ _ hc]

theorem markDirty_delivered (s : State) (p : Nat) (rs : List Range) : Delivered s (markDirty s p rs) := by
  unfold markDirty
  split
  · exact modCroft_delivered _ _ _ fun _ _ => rfl
  · exact .refl s

/-- Bytes stored where no word is in error. -/
theorem lsStore_delivered (s : State) (p a : Nat) (bs : List Byte) (h : s.lsErr = []) : Delivered s (lsStore s p a bs) := by
  have hsound : ∀ r, lsErrs s p r = [] := fun r => by rw [lsErrs, h, List.filter_nil]
  have hscan : lsScan s p (edgeWords a bs.length) = s := by
    rw [lsScan, List.flatMap_eq_nil_iff.2 fun r _ => hsound r]
    rfl
  rw [lsStore, hscan, lsWrite]
  split
  · exact ⟨rfl, rfl, fun _ => rfl, fun h => by rw [h, List.filter_nil]⟩
  · refine .trans ?_ (markDirty_delivered ..)
    exact ⟨rfl, rfl, fun _ => rfl, fun h => by rw [h, List.filter_nil]⟩

theorem wakeFlags_of_none (s : State) (c : CtxId) (h : (s.ctx c).wait = .none) : wakeFlags s c = s := by simp [wakeFlags, h]

/-- A flag is raised in a context that waits for nothing. -/
theorem raiseFlag_delivered (s : State) (c : CtxId) (f : BitVec 6) (h : (s.ctx c).wait = .none) : Delivered s (raiseFlag s c f) := by
  have hmod := modCtx_delivered s c (fun x => { x with flags := x.flags ||| BitVec.twoPow 64 f.toNat }) fun _ => rfl
  rw [raiseFlag, wakeFlags_of_none _ _ ((hmod.wait c).trans h)]
  exact hmod

theorem retireEngine_delivered (s : State) (c : CtxId) (id : Nat) (h : (s.ctx c).wait = .none) : Delivered s (retireEngine s c id) := by
  unfold retireEngine
  split
  · exact .refl s
  · have hretire : Delivered s (retire1 (modCroft s c.p fun x => { x with
        engines := x.engines.filter fun h => h.id ≠ id
        mma := x.mma.filter fun r => r.id ≠ id }) c) :=
      (modCroft_delivered _ _ _ (by intros; rfl)).trans (modCtx_delivered _ _ _ (by intros; rfl))
    dsimp only
    split
    · exact hretire
    · exact hretire.trans (raiseFlag_delivered _ _ _ ((hretire.wait c).trans h))

/-- One croft receives its part of a round, and its SIEVE retires. -/
def deliverOne (e : Nat) (s : State) (d : Delivery) : State :=
  retireEngine (d.parts.foldl (fun s x => lsStore s d.p x.1 x.2) s) (mkCtx d.p e) d.id

theorem foldl_lsStore_delivered (p : Nat) (l : List (Nat × List Byte)) (s : State) (h : s.lsErr = []) :
    Delivered s (l.foldl (fun s x => lsStore s p x.1 x.2) s) := by
  induction l generalizing s with
  | nil => exact .refl s
  | cons x l ih =>
    have hx := lsStore_delivered s p x.1 x.2 h
    exact hx.trans (ih _ (hx.noErr h))

theorem deliverOne_delivered (e : Nat) (s : State) (d : Delivery) (h : s.lsErr = []) (hw : (s.ctx (mkCtx d.p e)).wait = .none) :
    Delivered s (deliverOne e s d) := by
  have hstore := foldl_lsStore_delivered d.p d.parts s h
  exact hstore.trans (retireEngine_delivered _ _ _ ((hstore.wait _).trans hw))

theorem foldl_deliverOne_delivered (e : Nat) (l : List Delivery) (s : State) (h : s.lsErr = [])
    (hw : ∀ d ∈ l, (s.ctx (mkCtx d.p e)).wait = .none) : Delivered s (l.foldl (deliverOne e) s) := by
  induction l generalizing s with
  | nil => exact .refl s
  | cons d l ih =>
    have hd := deliverOne_delivered e s d h (hw d (.head l))
    exact hd.trans (ih _ (hd.noErr h) fun b hb => (hd.wait _).trans (hw b (.tail d hb)))

/-- The summary of a request once it has taken in a round (R110). -/
def Req.afterRound (q : Req) (r : Round) : Req :=
  { q with fallback := q.fallback || r.fallback, waste := max q.waste r.waste, drop := q.drop + r.drop }

/-- The end of a round: its deliveries, its buffers, its slot. -/
theorem sieveRoundDone_delivers (s : State) (part : Fin 8) (e : Fin 2) (r : Round)
    (hr : (s.slot part e).rounds.find? (fun r => r.running) = some r) :
    exec (.sieveRoundDone part e) s = .next (modSlot (freeBufs (r.deliver.foldl (deliverOne e) s) part e fun i => i == r.idx) part e
      fun y => { y with rounds := y.rounds.filter fun q => q.idx ≠ r.idx, req := y.req.map fun q => q.afterRound r }) := by
  rw [exec_sieveRoundDone, execSieveRoundDone, hr]
  rfl

/-! ### A round waits too long (R112) -/

theorem notBefore_eq (s : State) (n : Nat) :
    notBefore s n = { s with now := max s.now n, dev := (notBefore s n).dev, ctr := (notBefore s n).ctr } := by
  by_cases h : s.now < n
  · have hmax : s.now + (n - s.now) = max s.now n := by omega
    rw [notBefore_of_lt s n h, advance_eq, hmax]
  · have hle : n ≤ s.now := Nat.le_of_not_lt h
    rw [notBefore_of_le s n hle, Nat.max_eq_left hle]

theorem sieveRoundTimeout_breaks (s : State) (part : Fin 8) (e : Fin 2) (r : Round)
    (hr : (s.slot part e).rounds.find? (fun r => !r.running) = some r) (hlen : r.contribs.length < reqN s part e) :
    exec (.sieveRoundTimeout part e) s = .next (breakRounds (notBefore s (r.first + 10000000)) part e 0x0E none) := by
  rw [exec_sieveRoundTimeout, execSieveRoundTimeout, hr]
  exact congrArg Host.Outcome.next (if_neg (Nat.not_le_of_lt hlen))

theorem notBefore_slotCtxs (s : State) (n k e : Nat) : slotCtxs (notBefore s n) k e = slotCtxs s k e := by
  rw [notBefore_eq]
  rfl

theorem notBefore_ctx (s : State) (n : Nat) (c : CtxId) : (notBefore s n).ctx c = s.ctx c := by
  rw [notBefore_eq]
  rfl

end Sys2Proof.Machine

/-- Settles O25. The deliveries of a round leave partitions and banks (`Delivered`), so that the slot and the summary change as
SIEVE_ROUND_DONE says; a round that waits too long breaks (`breakRounds_stops`) 10 ms after its first contribution. -/
theorem sieveRoundsEnd : Obligations.SieveRoundsEnd := by
  unfold Obligations.SieveRoundsEnd
  refine ⟨fun s part e r q hr hq hw herr => ?_, fun s part e r hr hlen => ?_⟩
  · have hd := foldl_deliverOne_delivered e r.deliver s herr hw
    have hslot : (freeBufs (r.deliver.foldl (deliverOne e) s) part e fun i => i == r.idx).slot part e = s.slot part e := by
      rw [freeBufs_slot, State.slot, State.part, hd.parts]
      rfl
    refine ⟨_, sieveRoundDone_delivers s part e r hr, ?_, ?_, fun v hv hb => ?_, ?_⟩
    · rw [modSlot_slot, hslot]
    · rw [modSlot_slot, hslot]
      simp only [hq, Option.map_some, Req.afterRound]
    · rw [modSlot_sieve] at hb
      exact freeBufs_bufs _ _ _ _ v hv _ hb ⟨rfl, rfl, beq_self_eq_true _⟩
    · rw [(modSlot_frame ..).mem, (freeBufs_frame ..).mem, hd.mem]
  · have hframe := breakRounds_frame (notBefore s (r.first + 10000000)) part e 0x0E
    have hbefore := notBefore_eq s (r.first + 10000000)
    refine ⟨_, sieveRoundTimeout_breaks s part e r hr hlen, ?_, breakRounds_rounds .., fun c hc hrun => ?_,
      fun v hv => breakRounds_bufs _ _ _ _ v hv, ?_, ?_⟩
    · rw [hframe.now, hbefore]
    · exact breakRounds_stops _ _ _ _ c (by rwa [notBefore_slotCtxs]) (by rw [notBefore_ctx, hrun]; decide)
    · rw [hframe.mem, hbefore]
    · rw [hframe.ls, hbefore]
end

section
/-! How sieve rounds gather and execute: a contribution that has waited joins its round (R114), and a round starts (R98, R101, R112, R113). -/

open Sys2Proof Sys2Proof.Machine

namespace Sys2Proof.Machine

/-! ### A contribution that has waited (R114) -/

theorem mem_sieveStalled (s : State) (c : CtxId) (g : Engine) (h : g ∈ sieveStalled s c) : g.kind = .sieve := by
  simp only [sieveStalled, List.mem_filter, Bool.and_eq_true, beq_iff_eq] at h
  obtain ⟨-, ⟨-, hkind⟩, -⟩ := h
  exact hkind

theorem ctrPart_ne_ctrSieve (k i v j : Nat) (hv : v < 4) (hj : j < 8) : ctrSieve v j ≠ ctrPart k i := by
  unfold ctrSieve ctrPart
  omega

/-- The end of a wait in a village's sieve leaves its count of records. -/
theorem endStall_recIn (s : State) (p : Nat) (g : Engine) (v : Nat) (hv : v < 4) (hg : g.kind = .sieve) :
    tget zeroN (endStall s p g).ctr (ctrSieve v 1) = tget zeroN s.ctr (ctrSieve v 1) := by
  unfold endStall
  split
  · rw [bump_ctr, if_neg (ctrPart_ne_ctrSieve _ _ v 1 hv (by omega))]
  · have hne : ctrSieve v 1 ≠ ctrSieve (villageOf p) 5 := by
      unfold ctrSieve
      omega
    rw [bump_ctr, if_neg hne]
  · rename_i heq
    rw [hg] at heq
    cases heq
  · rfl

/-- The sieve of village `v` holds round buffer `b`, taking it where it does not. -/
def holdBuf (s : State) (v : Nat) (b : Nat × Nat × Nat) : State :=
  if (s.sieve v).bufs.contains b then s else setSieve s v ⟨(s.sieve v).bufs ++ [b]⟩

theorem mem_holdBuf (s : State) (v : Nat) (b : Nat × Nat × Nat) : b ∈ ((holdBuf s v b).sieve v).bufs := by
  unfold holdBuf
  split
  · rename_i h
    exact List.contains_iff_mem.1 h
  · rw [setSieve_sieve_self]
    exact List.mem_append_right _ (List.mem_singleton_self b)

theorem holdBuf_eq (s : State) (v : Nat) (b : Nat × Nat × Nat) : holdBuf s v b = { s with sieves := (holdBuf s v b).sieves } := by
  unfold holdBuf
  split <;> rfl

/-- What a croft contributes to a round. -/
def contribOf (s : State) (c : CtxId) (id : Nat) (route : Bool) (f : SieveF) (param : Word) : Contrib :=
  ⟨(s.ctx c).lc, c.p, id, route, f, param, recsAt s c.p (relocLo s c (recRange f)) (sieveCnt f),
    lsRead s c.p (relocLo s c (payRange f)) (payRange f).len, []⟩

/-- A contribution whose operands are sound joins its round: its sieve holds the buffer and counts the records. -/
theorem contribute_sound (s : State) (c : CtxId) (id : Nat) (route : Bool) (f : SieveF) (param : Word) (idx : Nat)
    (hr : lsSound s c.p ⟨relocLo s c (recRange f), (recRange f).len⟩ = true)
    (hp : lsSound s c.p ⟨relocLo s c (payRange f), (payRange f).len⟩ = true) :
    contribute s c id route f param idx =
      modSlot (bump (holdBuf s (villageOf c.p) (partAt s c.p, c.e.val, idx)) (ctrSieve (villageOf c.p) 1) (sieveCnt f)) (partAt s c.p) c.e
        fun y => { y with rounds := addContrib s.now idx (reqN s (partAt s c.p) c.e) (contribOf s c id route f param) y.rounds } := by
  have hscan : lsScan s c.p [⟨relocLo s c (recRange f), (recRange f).len⟩, ⟨relocLo s c (payRange f), (payRange f).len⟩] = s :=
    lsScan_sound _ _ _ (by simp [hr, hp])
  simp only [contribute, hscan, ((lsSound_iff ..).1 hr).1, ((lsSound_iff ..).1 hp).1, Bool.or_self, Bool.false_eq_true, if_false]
  unfold holdBuf
  split <;> rfl

/-- A contribution is in its round once it has joined it. -/
theorem mem_addContrib (now idx n : Nat) (x : Contrib) (rs : List Round) :
    ∃ r ∈ addContrib now idx n x rs, r.idx = idx ∧ x ∈ r.contribs := by
  by_cases h : rs.any (fun r => r.idx == idx) = true
  · obtain ⟨r, hr, hidx⟩ := List.any_eq_true.1 h
    rw [addContrib, if_pos h]
    refine ⟨_, List.mem_map_of_mem hr, ?_⟩
    rw [if_pos hidx]
    exact ⟨beq_iff_eq.1 hidx, List.mem_append_right _ (List.mem_singleton_self x)⟩
  · rw [addContrib, if_neg h]
    exact ⟨_, List.mem_append_right _ (List.mem_singleton_self _), rfl, List.mem_singleton_self x⟩

/-- What a contribution to round `idx` leaves: its buffer held, itself in its round, its records counted. -/
theorem contribute_joins (s : State) (c : CtxId) (id : Nat) (route : Bool) (f : SieveF) (param : Word) (idx : Nat)
    (hr : lsSound s c.p ⟨relocLo s c (recRange f), (recRange f).len⟩ = true)
    (hp : lsSound s c.p ⟨relocLo s c (payRange f), (payRange f).len⟩ = true) :
    let t := contribute s c id route f param idx
    let k := partAt s c.p
    let v := villageOf c.p
    (k, c.e.val, idx) ∈ (t.sieve v).bufs ∧ (∃ r ∈ (t.slot k c.e).rounds, r.idx = idx ∧ contribOf s c id route f param ∈ r.contribs) ∧
      tget zeroN t.ctr (ctrSieve v 1) = tget zeroN s.ctr (ctrSieve v 1) + sieveCnt f ∧ t.mem = s.mem ∧ t.ls = s.ls := by
  intro t k v
  have hbuf := mem_holdBuf s v (k, c.e.val, idx)
  have hhold := holdBuf_eq s v (k, c.e.val, idx)
  simp only [t, k, v, contribute_sound s c id route f param idx hr hp, modSlot_sieve, bump_sieve_of, modSlot_slot]
  refine ⟨hbuf, mem_addContrib .., ?_, ?_, ?_⟩
  · refine (bump_ctr _ _ _ _).trans ?_
    rw [if_pos rfl, hhold]
  · rw [(modSlot_frame ..).mem, bump_mem, hhold]
  · rw [(modSlot_frame ..).ls, bump_ls, hhold]

/-! ### The cause of a round (R112, R113) -/

theorem mem_failIf (b : Bool) (cause j : Nat) : j ∈ failIf b cause ↔ b = true ∧ j = cause := by
  cases b <;> simp [failIf]

theorem lowest_failIf_true (cause : Nat) (l : List Nat) (h : ∀ j ∈ l, cause ≤ j) : lowest (failIf true cause ++ l) = some cause := by
  have hl := lowest_spec l
  cases hd : lowest l with
  | none => simp only [failIf, if_true, List.singleton_append, lowest, hd]
  | some d =>
    rw [hd] at hl
    simp only [failIf, if_true, List.singleton_append, lowest, hd, Nat.min_eq_left (h d hl.1)]

theorem lowest_failIf_false (cause : Nat) (l : List Nat) : lowest (failIf false cause ++ l) = lowest l := rfl

/-- The least of the causes is poison where a word of the records is lost. -/
theorem roundCause_lost (a : Contrib) (n : Nat) (cs : List Contrib) (l : List Cand) (d : Deal) (h : recordsLost cs = true) :
    roundCause a n cs l d = some 0x07 := by
  simp only [roundCause, h, List.append_assoc]
  refine lowest_failIf_true _ _ fun j hj => ?_
  simp only [List.mem_append, mem_failIf] at hj
  unfold causePoison
  omega

theorem roundCause_mismatch (a : Contrib) (n : Nat) (cs : List Contrib) (l : List Cand) (d : Deal) (h : recordsLost cs = false)
    (hm : roundMismatch cs = true) : roundCause a n cs l d = some 0x0A := by
  simp only [roundCause, h, hm, List.append_assoc, lowest_failIf_false]
  refine lowest_failIf_true _ _ fun j hj => ?_
  simp only [List.mem_append, mem_failIf] at hj
  omega

theorem roundCause_tooMany (a : Contrib) (n : Nat) (cs : List Contrib) (l : List Cand) (d : Deal) (h : recordsLost cs = false)
    (hm : roundMismatch cs = false) (ht : roundTooMany a.route l = true) : roundCause a n cs l d = some 0x0B := by
  simp only [roundCause, h, hm, ht, List.append_assoc, lowest_failIf_false]
  refine lowest_failIf_true _ _ fun j hj => ?_
  simp only [List.mem_append, mem_failIf] at hj
  omega

/-- Some croft would receive more records than its destination area takes. -/
def dealOverflows (a : Contrib) (n : Nat) (d : Deal) : Bool :=
  (List.range n).any fun i => decide (sieveCap a.f < (d.dealt.filter fun y => y.1 = i).length)

theorem dealOverflows_iff (a : Contrib) (n : Nat) (d : Deal) :
    dealOverflows a n d = true ↔ ∃ i, i < n ∧ sieveCap a.f < (d.dealt.filter fun y => y.1 = i).length := by
  simp only [dealOverflows, List.any_eq_true, List.mem_range, decide_eq_true_eq]

/-- The deal of a round whose parameters and records are valid is defined. -/
theorem dealable_of_valid (a : Contrib) (n : Nat) (cs : List Contrib) (h : roundInvalid a n cs = false) : dealable a n cs = true := by
  cases hroute : a.route with
  | false => simp [dealable, hroute]
  | true =>
    simp only [roundInvalid, hroute, Bool.true_and, Bool.or_eq_false_iff, decide_eq_false_iff_not, List.any_eq_false, List.any_eq_true,
      not_exists, not_and, Bool.not_eq_true] at h
    obtain ⟨hpar, hrecs⟩ := h
    simp only [dealable, hroute, Bool.not_true, Bool.false_or, Bool.and_eq_true, decide_eq_true_eq, List.all_eq_true]
    refine ⟨by omega, fun b hb r hr => ?_⟩
    obtain ⟨⟨⟨-, hroute⟩, -⟩, -⟩ := hrecs b hb r hr
    omega

/-- Where all else passes, the cause is that of the destination. -/
theorem roundCause_dealt (a : Contrib) (n : Nat) (cs : List Contrib) (l : List Cand) (d : Deal) (h : recordsLost cs = false)
    (hm : roundMismatch cs = false) (ht : roundTooMany a.route l = false) (hi : roundInvalid a n cs = false) :
    roundCause a n cs l d = if dealOverflows a n d then some 0x0C else none := by
  have hcause : roundCause a n cs l d = lowest (failIf (dealOverflows a n d) 0x0C) := by
    simp only [roundCause, h, hm, ht, hi, dealable_of_valid a n cs hi, List.append_assoc, lowest_failIf_false, Bool.not_false, Bool.true_and]
    exact congrArg lowest (List.append_nil _)
  rw [hcause]
  cases dealOverflows a n d <;> rfl

/-! ### A round starts (R98) -/

/-- The round of a slot that has its turn: it is the oldest that has not executed, with every contribution, free sieves and no round
before it (R114); its contributions stand by logical croft, that of `a` first. -/
structure HasTurn (s : State) (part e : Nat) (r : Round) (a : Contrib) (rest : List Contrib) : Prop where
  oldest : (s.slot part e).rounds.find? (fun r => !r.running) = some r
  complete : r.contribs.length = reqN s part e
  sievesFree : sieveBusy s (roundSieves s part r) = false
  first : comesFirst s part e (r.doneAt.getD r.first) (roundSieves s part r) = false
  sorted : sortBy (·.lc) r.contribs = a :: rest

/-- The deal of a round whose first contribution is `a`. -/
def roundDeal (a : Contrib) (n : Nat) (l : List Cand) : Deal := if a.route then routeDeal a.param n l else selectDeal a.f a.param n l

/-- A round that has its turn and fails its checks breaks. -/
theorem sieveRoundStart_breaks (s : State) (part : Fin 8) (e : Fin 2) (r : Round) (a : Contrib) (rest : List Contrib)
    (h : HasTurn s part e r a rest) (cause : Nat)
    (hc : roundCause a (reqN s part e) (a :: rest) (roundCands (a :: rest)) (roundDeal a (reqN s part e) (roundCands (a :: rest))) = some cause) :
    exec (.sieveRoundStart part e) s = .next (breakRounds (scanRecords s (a :: rest)) part e cause none) := by
  rw [roundDeal] at hc
  simp only [exec_sieveRoundStart, execSieveRoundStart, h.oldest, h.complete, h.sievesFree, h.first, h.sorted, hc, bne_self_eq_false,
    Bool.or_self, Bool.false_eq_true, if_false, failRound]

/-- From `s` to `t` nothing changes but counters and, in partitions, the tokens taken. -/
structure OnlyTokens (s t : State) : Prop where
  frame : { t with parts := s.parts, ctr := s.ctr } = s
  slots : ∀ k e, t.slot k e = s.slot k e

theorem OnlyTokens.refl (s : State) : OnlyTokens s s := ⟨rfl, fun _ _ => rfl⟩

theorem OnlyTokens.trans {s t u : State} (hst : OnlyTokens s t) (htu : OnlyTokens t u) : OnlyTokens s u := by
  refine ⟨?_, fun k e => (htu.slots k e).trans (hst.slots k e)⟩
  have hframe := hst.frame
  rw [← htu.frame] at hframe
  exact hframe

theorem OnlyTokens.bump (s : State) (k n : Nat) : OnlyTokens s (bump s k n) := ⟨rfl, fun _ _ => rfl⟩

theorem OnlyTokens.foldl {α : Type} {f : State → α → State} (hf : ∀ s a, OnlyTokens s (f s a)) (l : List α) (s : State) :
    OnlyTokens s (l.foldl f s) := by
  induction l generalizing s with
  | nil => exact .refl s
  | cons a l ih => exact (hf s a).trans (ih (f s a))

theorem OnlyTokens.modPart (s : State) (k : Nat) (f : Part → Part) (hf : ∀ x e, (f x).slot e = x.slot e) : OnlyTokens s (modPart s k f) := by
  refine ⟨rfl, fun k' e => ?_⟩
  simp only [State.slot, Machine.modPart, setPart_part]
  split
  · rename_i hk
    rw [hf, hk]
  · rfl

theorem accrue_onlyTokens (s : State) (k : Nat) : OnlyTokens s (accrue s k) := by
  unfold accrue
  exact .modPart _ _ _ (by intros; rfl)

theorem takeTokens_onlyTokens (s : State) (k : Nat) (ds : Demand) : OnlyTokens s (takeTokens s k ds) := by
  unfold takeTokens
  exact .foldl (fun s _ => .modPart s k _ (by intros; rfl)) _ _

/-- A transfer that has its tokens takes them (R214). -/
theorem enterRegs_onlyTokens (s : State) (k : Nat) (ds : Demand) (at0 : Option Nat) (h : shortOf (accrue s k) k ds = none) :
    ∃ t, enterRegs s k ds at0 = some t ∧ OnlyTokens s t := by
  cases at0 with
  | none => exact ⟨takeTokens (accrue s k) k ds, by simp [enterRegs, h], (accrue_onlyTokens s k).trans (takeTokens_onlyTokens _ k ds)⟩
  | some n =>
    exact ⟨takeTokens (bump (accrue s k) (ctrPart k 1) ((accrue s k).now - n)) k ds, by simp [enterRegs, h],
      ((accrue_onlyTokens s k).trans (.bump _ _ _)).trans (takeTokens_onlyTokens _ k ds)⟩

/-- What the sieves count of a round that executes (R118; log entry 74). -/
def countRound (s : State) (lead : Nat) (vs : List Nat) (cs : List Contrib) (l : List Cand) (d : Deal) : State :=
  let s := vs.foldl (fun s v => bump s (ctrSieve v 0) 1) s
  let s := vs.foldl (fun s v => bump s (ctrSieve v 2)
    ((l.filter fun y => isNan32 (recScore y.r) && villageOf ((cs[y.x]?.map (·.p)).getD 0) == v).length)) s
  let s := if d.path = 1 then bump s (ctrSieve lead 3) 1 else s
  bump s (ctrSieve lead 4) d.drop

theorem countRound_onlyTokens (s : State) (lead : Nat) (vs : List Nat) (cs : List Contrib) (l : List Cand) (d : Deal) :
    OnlyTokens s (countRound s lead vs cs l d) := by
  have hrounds : ∀ s, OnlyTokens s (vs.foldl (fun s v => bump s (ctrSieve v 0) 1) s) := .foldl (fun s _ => .bump s _ _) vs
  have hnans : ∀ s, OnlyTokens s (vs.foldl (fun s v => bump s (ctrSieve v 2)
      ((l.filter fun y => isNan32 (recScore y.r) && villageOf ((cs[y.x]?.map (·.p)).getD 0) == v).length)) s) :=
    .foldl (fun s _ => .bump s _ _) vs
  unfold countRound
  dsimp only
  refine .trans ?_ (.bump _ _ _)
  split
  · exact ((hrounds s).trans (hnans _)).trans (.bump _ _ _)
  · exact (hrounds s).trans (hnans _)

/-- A round once it has executed: it keeps what each croft is to receive, and its part of the summary. -/
def Round.executed (q : Round) (d : Deal) (dl : List Delivery) : Round :=
  { q with running := true, deliver := dl, fallback := d.path == 1, waste := d.waste, drop := d.drop }

/-- A round that has its turn, passes its checks and enters its resources executes. -/
theorem sieveRoundStart_executes (s : State) (part : Fin 8) (e : Fin 2) (r : Round) (a : Contrib) (rest : List Contrib)
    (h : HasTurn s part e r a rest) (hsound : scanRecords s (a :: rest) = s) (t : State) :
    let l := roundCands (a :: rest)
    let d := roundDeal a (reqN s part e) l
    let u := countRound t (leadOf s part) (roundSieves s part r) (a :: rest) l d
    roundCause a (reqN s part e) (a :: rest) l d = none →
    enterRegs s part (sieveDemand (leadOf s part) a (a :: rest) l d (roundSieves s part r)) r.shortAt = some t →
    exec (.sieveRoundStart part e) s = .next (modRound u part e r.idx fun q =>
      q.executed d ((a :: rest).map (deliveryOf u e d (a :: rest) l.length))) := by
  intro l d u hc ht
  simp only [l, d, roundDeal] at hc ht
  simp only [exec_sieveRoundStart, execSieveRoundStart, h.oldest, h.complete, h.sievesFree, h.first, h.sorted, hsound, hc, ht,
    bne_self_eq_false, Bool.or_self, Bool.false_eq_true, if_false]
  rfl

/-- What a croft receives rests on the partition table and the requests. -/
theorem deliveryOf_onlyTokens {s t : State} (h : OnlyTokens s t) (e : Nat) (d : Deal) (cs : List Contrib) (total : Nat) :
    deliveryOf t e d cs total = deliveryOf s e d cs total := by
  have hptab : t.ptab = s.ptab := by
    have hframe := congrArg State.ptab h.frame
    exact hframe
  funext x
  simp only [deliveryOf, relocLo_congr hptab fun k e => congrArg Slot.req (h.slots k e)]

theorem scanRecords_sound (s : State) (cs : List Contrib) (h : ∀ b ∈ cs, b.err = []) : scanRecords s cs = s := by
  rw [scanRecords, List.flatMap_eq_nil_iff.2 h]
  rfl

theorem recordsLost_sound (cs : List Contrib) (h : ∀ b ∈ cs, b.err = []) : recordsLost cs = false :=
  List.any_eq_false.2 fun b hb => by simp [h b hb]

/-- A round that has its turn and its tokens, whose checks pass and whose deal fits its destinations, executes; beside the round itself,
tokens and counters alone change. -/
theorem sieveRoundStart_fits (s : State) (part : Fin 8) (e : Fin 2) (r : Round) (a : Contrib) (rest : List Contrib)
    (h : HasTurn s part e r a rest) :
    let n := reqN s part e
    let cs := a :: rest
    let l := roundCands cs
    let d := roundDeal a n l
    (∀ b ∈ cs, b.err = []) → roundMismatch cs = false → roundTooMany a.route l = false → roundInvalid a n cs = false →
    (∀ i, i < n → (d.dealt.filter fun y => y.1 = i).length ≤ sieveCap a.f) →
    shortOf (accrue s part) part (sieveDemand (leadOf s part) a cs l d (roundSieves s part r)) = none →
    ∃ t, exec (.sieveRoundStart part e) s = .next t ∧ { t with parts := s.parts, ctr := s.ctr } = s ∧
      (t.slot part e).rounds =
        mapIf (fun q => q.idx == r.idx) (fun q => q.executed d (cs.map (deliveryOf s e d cs l.length))) (s.slot part e).rounds := by
  intro n cs l d herr hm ht hi hfits hshort
  have hroom : dealOverflows a n d = false := by
    rw [Bool.eq_false_iff, ne_eq, dealOverflows_iff]
    exact fun ⟨i, hi, hlt⟩ => Nat.not_le_of_lt hlt (hfits i hi)
  have hcause : roundCause a n cs l d = none := by
    rw [roundCause_dealt a n cs l d (recordsLost_sound cs herr) hm ht hi, hroom]
    rfl
  obtain ⟨t, hregs, hto⟩ := enterRegs_onlyTokens s part _ r.shortAt hshort
  have hu := hto.trans (countRound_onlyTokens t (leadOf s part) (roundSieves s part r) cs l d)
  refine ⟨_, sieveRoundStart_executes s part e r a rest h (scanRecords_sound s cs herr) t hcause hregs, hu.frame, ?_⟩
  rw [modRound, modSlot_slot, hu.slots, deliveryOf_onlyTokens hu]

/-! ### A contribution that has waited proceeds (R114) -/

/-- SIEVE_BUFFER_FREE: the oldest waiting contribution of a context leaves its wait and joins its round. -/
theorem sieveBufferFree_contributes (s : State) (c : CtxId) (g : Engine) (gs : List Engine) (f : SieveF) (route : Bool)
    (hs : sieveStalled s c = g :: gs) (hg : sieveOf g.instr = some (f, route))
    (hc : canContribute s (villageOf c.p) (partAt s c.p) c.e ((s.ctx c).rounds - (gs.length + 1)) = true) :
    exec (.sieveBufferFree c) s = .next (contribute (modEngine (endStall s c.p g) c.p g.id fun h => { h with stall := none }) c g.id route f
      (BitVec.ofNat 64 g.base) ((s.ctx c).rounds - (gs.length + 1))) := by
  simp only [exec_sieveBufferFree, execSieveBufferFree, hs, hg, hc, if_true]

theorem sieveBufferFree_waits (s : State) (c : CtxId) (g : Engine) (gs : List Engine) (f : SieveF) (route : Bool)
    (hs : sieveStalled s c = g :: gs) (hg : sieveOf g.instr = some (f, route))
    (hc : canContribute s (villageOf c.p) (partAt s c.p) c.e ((s.ctx c).rounds - (gs.length + 1)) = false) :
    exec (.sieveBufferFree c) s = .next s := by
  simp only [exec_sieveBufferFree, execSieveBufferFree, hs, hg, hc, Bool.false_eq_true, if_false]

/-- An engine instruction that has waited no longer waits: crofts and counters change, and no context. -/
theorem endWait_eq (s : State) (p : Nat) (g : Engine) (h : Engine → Engine) :
    modEngine (endStall s p g) p g.id h =
      { s with crofts := (modEngine (endStall s p g) p g.id h).crofts, ctr := (endStall s p g).ctr } := by
  have hstall : endStall s p g = { s with ctr := (endStall s p g).ctr } := endStall_onlyCounters s p g
  rw [hstall]
  rfl

theorem endWait_ctx (s : State) (p : Nat) (g : Engine) (h : Engine → Engine) (c : CtxId) :
    (modEngine (endStall s p g) p g.id h).ctx c = s.ctx c :=
  (modCroft_ctx_of _ _ _ (by intros; rfl) c).trans ((endStall_onlyCounters s p g).ctx c)

/-- The contribution of a croft rests on its context, its local store and where its ranges lie. -/
theorem contribOf_congr {s t : State} (c : CtxId) (hctx : t.ctx c = s.ctx c) (hls : t.ls = s.ls) (hlo : relocLo t c = relocLo s c)
    (id : Nat) (route : Bool) (f : SieveF) (param : Word) : contribOf t c id route f param = contribOf s c id route f param := by
  simp only [contribOf, recsAt, lsRead, hctx, hls, hlo]

/-- A contribution that has waited joins its round as it would have before it waited. -/
theorem sieveBufferFree_joins (s : State) (c : CtxId) (g : Engine) (gs : List Engine) (f : SieveF) (route : Bool)
    (hs : sieveStalled s c = g :: gs) (hg : sieveOf g.instr = some (f, route)) :
    let v := villageOf c.p
    let k := partAt s c.p
    let idx := (s.ctx c).rounds - (gs.length + 1)
    canContribute s v k c.e idx = true →
    lsSound s c.p ⟨relocLo s c (recRange f), (recRange f).len⟩ = true →
    lsSound s c.p ⟨relocLo s c (payRange f), (payRange f).len⟩ = true →
    ∃ t, exec (.sieveBufferFree c) s = .next t ∧ (k, c.e.val, idx) ∈ (t.sieve v).bufs ∧
      (∃ r ∈ (t.slot k c.e).rounds, r.idx = idx ∧ contribOf s c g.id route f (BitVec.ofNat 64 g.base) ∈ r.contribs) ∧
      tget zeroN t.ctr (ctrSieve v 1) = tget zeroN s.ctr (ctrSieve v 1) + sieveCnt f ∧ t.mem = s.mem ∧ t.ls = s.ls := by
  intro v k idx hc hrec hpay
  have hv : villageOf c.p < 4 := by
    unfold villageOf
    omega
  have hend := endWait_eq s c.p g fun h => { h with stall := none }
  have hctx := endWait_ctx s c.p g (fun h => { h with stall := none }) c
  have hrun := sieveBufferFree_contributes s c g gs f route hs hg hc
  have hrecIn := endStall_recIn s c.p g (villageOf c.p) hv (mem_sieveStalled s c g (hs ▸ List.mem_cons_self))
  generalize modEngine (endStall s c.p g) c.p g.id (fun h => { h with stall := none }) = u at hend hctx hrun
  have hptab : u.ptab = s.ptab := by rw [hend]
  have hslot : ∀ k e, u.slot k e = s.slot k e := fun k e => by rw [hend]; rfl
  have hls : u.ls = s.ls := by rw [hend]
  have hlo : relocLo u c = relocLo s c := relocLo_congr hptab (fun k e => congrArg Slot.req (hslot k e)) c
  have hsound : lsSound u c.p = lsSound s c.p := lsSound_congr (by rw [hend]) (by rw [hend]) c.p
  rw [← hlo, ← hsound] at hrec hpay
  obtain ⟨hbuf, hround, hcount, hmem, hls'⟩ := contribute_joins u c g.id route f (BitVec.ofNat 64 g.base) idx hrec hpay
  rw [partAt_congr hptab] at hbuf hround
  rw [contribOf_congr c hctx hls hlo] at hround
  refine ⟨_, hrun, hbuf, hround, ?_, ?_, ?_⟩
  · rw [hcount, ← hrecIn, hend]
  · rw [hmem, hend]
  · rw [hls', hls]

end Sys2Proof.Machine

/-- Settles O24. A contribution that has waited leaves its wait and joins its round (`contribute_sound`); a round that has its turn breaks
with the lowest cause that applies (`roundCause`), or executes, which changes tokens, counters and the round alone. -/
theorem sieveRoundsRun : Obligations.SieveRoundsRun := by
  unfold Obligations.SieveRoundsRun
  refine ⟨fun s c g gs f route hs hg => ?_, fun s part e r a rest hr hlen hbusy hfirst hsort => ?_⟩
  · refine ⟨sieveBufferFree_waits s c g gs f route hs hg, fun hc hrec hpay => ?_⟩
    obtain ⟨t, hrun, hbuf, ⟨r, hr, hidx, hx⟩, hrest⟩ := sieveBufferFree_joins s c g gs f route hs hg hc hrec hpay
    exact ⟨t, hrun, hbuf, ⟨r, hr, hidx, _, hx, rfl, rfl, rfl, rfl⟩, hrest⟩
  · have hturn : HasTurn s part e r a rest := ⟨hr, hlen, hbusy, hfirst, hsort⟩
    refine ⟨fun hlost => ?_, fun herr => ?_⟩
    · exact sieveRoundStart_breaks s part e r a rest hturn _ (roundCause_lost _ _ _ _ _ hlost)
    have hlost := recordsLost_sound (a :: rest) herr
    have hscan := scanRecords_sound s (a :: rest) herr
    have hbreaks := sieveRoundStart_breaks s part e r a rest hturn
    rw [hscan] at hbreaks
    refine ⟨fun hm => ?_, fun hm ht => ?_, fun hm ht hi => ⟨fun hover => ?_, fun hfits hshort => ?_⟩⟩
    · exact hbreaks _ (roundCause_mismatch _ _ _ _ _ hlost hm)
    · exact hbreaks _ (roundCause_tooMany _ _ _ _ _ hlost hm ht)
    · refine hbreaks _ ?_
      rw [roundCause_dealt _ _ _ _ _ hlost hm ht hi]
      exact if_pos ((dealOverflows_iff ..).2 hover)
    · exact sieveRoundStart_fits s part e r a rest hturn herr hm ht hi hfits hshort
end

section
/-! The gleaners of a slice: its controller takes commands (R139), and its gleaners yield to ordinary accesses (R142, R144). -/

open Sys2Proof Sys2Proof.Machine

namespace Sys2Proof.Machine

/-! ### The gleaners turn to their next rows -/

theorem Slice.setSub_gl (x : Slice) (u : Nat) (y : SubCh) : (x.setSub u y).gl = x.gl := by
  unfold Slice.setSub
  split
  · rfl
  · split
    · rfl
    · split <;> rfl

/-- From `s` to `t` nothing changes but slices and counters, and every slice holds the commands it held. -/
structure KeepsCommands (s t : State) : Prop where
  frame : { t with slices := s.slices, ctr := s.ctr } = s
  gl : ∀ p, (t.slice p).gl = (s.slice p).gl

theorem KeepsCommands.refl (s : State) : KeepsCommands s s := ⟨rfl, fun _ => rfl⟩

theorem KeepsCommands.trans {s t u : State} (hst : KeepsCommands s t) (htu : KeepsCommands t u) : KeepsCommands s u := by
  refine ⟨?_, fun p => (htu.gl p).trans (hst.gl p)⟩
  have hframe := hst.frame
  rw [← htu.frame] at hframe
  exact hframe

theorem KeepsCommands.foldl {α : Type} {f : State → α → State} (hf : ∀ s a, KeepsCommands s (f s a)) (l : List α) (s : State) :
    KeepsCommands s (l.foldl f s) := by
  induction l generalizing s with
  | nil => exact .refl s
  | cons a l ih => exact (hf s a).trans (ih (f s a))

theorem KeepsCommands.bump (s : State) (k n : Nat) : KeepsCommands s (bump s k n) := ⟨rfl, fun _ => rfl⟩

theorem KeepsCommands.modSlice (s : State) (q : Nat) (f : Slice → Slice) (hf : ∀ x, (f x).gl = x.gl) : KeepsCommands s (modSlice s q f) := by
  refine ⟨rfl, fun p => ?_⟩
  rw [Machine.modSlice, setSlice_slice]
  split
  · rename_i hp
    rw [hf, hp]
  · rfl

theorem KeepsCommands.partAt {s t : State} (h : KeepsCommands s t) (p : Nat) : partAt t p = partAt s p := by
  refine partAt_congr ?_ p
  have hptab := congrArg State.ptab h.frame
  exact hptab

theorem noteHeldWrite_keepsCommands (s : State) (q : Nat) (e : QEntry) : KeepsCommands s (noteHeldWrite s q e).2 := by
  unfold noteHeldWrite
  split
  · exact .bump ..
  · exact .refl s

/-- The queue of a sub-channel, entry by entry, with the writes noted that R144 holds. -/
def notedQueue (q : Nat) (a : List QEntry × State) (e : QEntry) : List QEntry × State :=
  (a.1 ++ [(noteHeldWrite a.2 q e).1], (noteHeldWrite a.2 q e).2)

theorem foldl_notedQueue_keepsCommands (q : Nat) (l : List QEntry) (a : List QEntry × State) :
    KeepsCommands a.2 (l.foldl (notedQueue q) a).2 := by
  induction l generalizing a with
  | nil => exact .refl _
  | cons e l ih => exact (noteHeldWrite_keepsCommands a.2 q e).trans (ih (notedQueue q a e))

theorem noteHeldWrites_keepsCommands (s : State) (q u : Nat) : KeepsCommands s (noteHeldWrites s q u) := by
  unfold noteHeldWrites
  dsimp only
  split
  · exact .refl s
  · exact (foldl_notedQueue_keepsCommands q _ ([], s)).trans (.modSlice _ _ _ fun x => x.setSub_gl ..)

theorem turnUnits_keepsCommands (s : State) (q : Nat) : KeepsCommands s (turnUnits s q) := by
  unfold turnUnits
  exact (KeepsCommands.modSlice s q _ (by intros; rfl)).trans (.foldl (fun s u => noteHeldWrites_keepsCommands s q u) _ _)

/-! ### The slice controller takes a command (R139) -/

/-- The checks of the slice controller rest on no counter. -/
theorem OnlyCounters.receiveCauses {s t : State} (h : OnlyCounters s t) (c : CtxId) (g : Engine) (f : GleanF) (pool : Nat)
    (es : List (BitVec 64)) : receiveCauses t c g f pool es = receiveCauses s c g f pool es := by
  rw [h]
  rfl

theorem OnlyCounters.gleanShard {s t : State} (h : OnlyCounters s t) (c : CtxId) (f : GleanF) : gleanShard t c f = gleanShard s c f := by
  rw [h]
  rfl

theorem OnlyCounters.gleanList {s t : State} (h : OnlyCounters s t) (c : CtxId) (f : GleanF) : gleanList t c f = gleanList s c f := by
  rw [h]
  rfl

/-- Where the output vectors of a GLEAN go. -/
def gleanDest (s : State) (c : CtxId) (g : Engine) (f : GleanF) : Nat :=
  if f.dsel then g.base else relocLo s c (unitRange f.dadr (gleanEntries f * gleanPitch s c f)).clip

theorem OnlyCounters.gleanDest {s t : State} (h : OnlyCounters s t) (c : CtxId) (g : Engine) (f : GleanF) :
    gleanDest t c g f = gleanDest s c g f := by
  rw [h]
  rfl

/-- A slice that takes a command: the command is the last it holds. -/
def Slice.takes (x : Slice) (g : GlCmd) : Slice := { x with gl := x.gl ++ [g], glNext := x.glNext + 1 }

/-- A command whose checks pass is taken, and its engine waits no more for the slice. -/
theorem receive_takes (s : State) (c : CtxId) (g : Engine) (f : GleanF) (pool q : Nat) (d : Shard) (hd : gleanShard s c f = some (q, d))
    (hc : receiveCauses s c g f pool (gleanList s c f) = []) :
    receive s c g f pool = turnUnits (modSlice (modEngine s c.p g.id fun h => { h with stall := none }) q fun x =>
      x.takes ⟨x.glNext, c.p, c.e, g.id, f.tid.toNat, gleanList s c f, pool, f.wen, f.dsel, d, gleanDest s c g f, 0⟩) q := by
  simp only [receive, hc, lowest, hd, Slice.takes, gleanDest]

/-- A GLEAN that waits in its engine, and whose slice controller does not hold its command yet. -/
structure Offers (s : State) (c : CtxId) (id : Nat) (g : Engine) (f : GleanF) (pool q : Nat) (d : Shard) : Prop where
  engine : engineOf s c.p id = some g
  fields : gleanOf g.instr = some (f, pool)
  slot : g.e = c.e.val
  notReady : g.ready = false
  shard : gleanShard s c f = some (q, d)
  notHeld : heldBySlice s q c.p id = false

/-- A GLEAN offered to a controller that holds fewer than 32 commands is received. -/
theorem offer_receives (s : State) (c : CtxId) (id : Nat) (g : Engine) (f : GleanF) (pool q : Nat) (d : Shard)
    (h : Offers s c id g f pool q d) (hroom : (s.slice q).gl.length < 32) : offer s c id = receive (endStall s c.p g) c g f pool := by
  simp only [offer, h.engine, h.fields, h.shard, h.slot, h.notReady, h.notHeld, Option.map_some, Option.getD_some, bne_self_eq_false,
    Bool.or_self, Bool.false_eq_true, if_false, Option.isSome_some, Bool.true_and, decide_eq_true_eq, Nat.not_le_of_lt hroom]

/-- A GLEAN offered to a controller that holds 32 commands begins to wait. -/
theorem offer_waits (s : State) (c : CtxId) (id : Nat) (g : Engine) (f : GleanF) (pool q : Nat) (d : Shard)
    (h : Offers s c id g f pool q d) (hfull : 32 ≤ (s.slice q).gl.length) (hstall : g.stall = none) :
    offer s c id = modEngine s c.p id fun h => { h with stall := some s.now } := by
  simp only [offer, h.engine, h.fields, h.shard, h.slot, h.notReady, h.notHeld, hstall, hfull, Option.map_some, Option.getD_some,
    bne_self_eq_false, Bool.or_self, Bool.false_eq_true, if_false, Option.isSome_some, Option.isSome_none, Bool.true_and, decide_true,
    if_true]

/-- A GLEAN that is received is the last command its slice holds; beside crofts, slices and counters nothing changes. -/
theorem offer_takes (s : State) (c : CtxId) (id : Nat) (g : Engine) (f : GleanF) (pool q : Nat) (d : Shard)
    (h : Offers s c id g f pool q d) (hroom : (s.slice q).gl.length < 32)
    (hc : receiveCauses s c g f pool (gleanList s c f) = []) :
    ((offer s c id).slice q).gl = (s.slice q).gl ++ [⟨(s.slice q).glNext, c.p, c.e, g.id, f.tid.toNat, gleanList s c f, pool,
        f.wen, f.dsel, d, gleanDest s c g f, 0⟩] ∧
      { offer s c id with crofts := s.crofts, slices := s.slices, ctr := s.ctr } = s := by
  have hstall := endStall_onlyCounters s c.p g
  have hend := endWait_eq s c.p g fun h => { h with stall := none }
  have hd : gleanShard (endStall s c.p g) c f = some (q, d) := (hstall.gleanShard c f).trans h.shard
  have hc' : receiveCauses (endStall s c.p g) c g f pool (gleanList (endStall s c.p g) c f) = [] := by
    rw [hstall.receiveCauses, hstall.gleanList, hc]
  rw [offer_receives s c id g f pool q d h hroom, receive_takes _ c g f pool q d hd hc', hstall.gleanList, hstall.gleanDest]
  generalize modEngine (endStall s c.p g) c.p g.id (fun h => { h with stall := none }) = u at hend ⊢
  have hslice : u.slice q = s.slice q := by
    rw [hend]
    rfl
  generalize hv : modSlice u q _ = v
  have hturn := turnUnits_keepsCommands v q
  generalize turnUnits v q = t at hturn ⊢
  refine ⟨?_, ?_⟩
  · rw [hturn.gl, ← hv, modSlice, setSlice_slice_self, hslice]
    rfl
  · calc { t with crofts := s.crofts, slices := s.slices, ctr := s.ctr }
        = { ({ t with slices := v.slices, ctr := v.ctr } : State) with
            crofts := s.crofts, slices := s.slices, ctr := s.ctr } := rfl
      _ = { v with crofts := s.crofts, slices := s.slices, ctr := s.ctr } := by rw [hturn.frame]
      _ = { u with crofts := s.crofts, slices := s.slices, ctr := s.ctr } := by
          rw [← hv]
          rfl
      _ = s := by rw [hend]

/-- GLEAN_SLOT_FREE offers a GLEAN that waits again. -/
theorem gleanSlotFree_offers (s : State) (c : CtxId) (id : Nat) (g : Engine) (hg : engineOf s c.p id = some g)
    (hstall : g.stall.isSome = true) : exec (.gleanSlotFree c id) s = .next (offer s c id) := by
  simp only [exec_gleanSlotFree, execGleanSlotFree, hg, hstall, Option.map_some, Option.getD_some, if_true]

/-! ### What time leaves alone -/

theorem partFrom_congr {s t : State} (h : t.ptab = s.ptab) (p k n : Nat) : partFrom t p k n = partFrom s p k n := by
  induction n generalizing k with
  | zero => rfl
  | succ n ih =>
    rw [partFrom, partFrom, ih, State.pent, State.pent, h]

/-- Which partition holds a croft rests on the partition table. -/
theorem partOf_congr {s t : State} (h : t.ptab = s.ptab) (p : Nat) : partOf t p = partOf s p := partFrom_congr h p 0 8

theorem sliceIndex_congr {s t : State} (h : t.ptab = s.ptab) (hf : t.floor = s.floor) (p : Nat) : sliceIndex t p = sliceIndex s p := by
  simp only [sliceIndex, partOf_congr h, indexOf, dataOf, hf]

/-- From `s` to `t` nothing changes but the clock, the device registers and counters. -/
def OnlyTime (s t : State) : Prop := t = { s with now := t.now, dev := t.dev, ctr := t.ctr }

theorem OnlyTime.bump {s t : State} (h : OnlyTime s t) (k n : Nat) : OnlyTime s (bump t k n) := by
  unfold OnlyTime at *
  rw [h]
  rfl

theorem OnlyTime.slice {s t : State} (h : OnlyTime s t) (p : Nat) : t.slice p = s.slice p := by
  rw [h]
  rfl

theorem OnlyTime.queues {s t : State} (h : OnlyTime s t) : t.queues = s.queues := by rw [h]

theorem OnlyTime.partAt {s t : State} (h : OnlyTime s t) (p : Nat) : partAt t p = partAt s p := partAt_congr (by rw [h]) p

theorem OnlyTime.locate {s t : State} (h : OnlyTime s t) (p idx off : Nat) : locate t p idx off = locate s p idx off := by
  rw [h]
  rfl

theorem OnlyTime.routeRow {s t : State} (h : OnlyTime s t) (p k row : Nat) : routeRow t p k row = routeRow s p k row := by
  rw [h]
  rfl

theorem placeOf_ok (s : State) (p off q : Nat) (l : Loc) (h : locate s p (sliceIndex s p) off = .ok (q, l)) :
    placeOf s p off = some (routeRow s q l.k l.row, l) := by rw [placeOf, h]

theorem placeOf_error (s : State) (p off cause : Nat) (h : locate s p (sliceIndex s p) off = .error cause) : placeOf s p off = none := by
  rw [placeOf, h]

/-- An access goes where it went. -/
theorem OnlyTime.placeOf {s t : State} (h : OnlyTime s t) (p off : Nat) : placeOf t p off = placeOf s p off := by
  have hidx : sliceIndex t p = sliceIndex s p := sliceIndex_congr (by rw [h]) (by rw [h]) p
  have hloc : Machine.locate t p (sliceIndex t p) off = Machine.locate s p (sliceIndex s p) off := by rw [hidx, h.locate]
  cases hs : Machine.locate s p (sliceIndex s p) off with
  | error cause => rw [placeOf_error s p off cause hs, placeOf_error t p off cause (hloc.trans hs)]
  | ok x =>
    obtain ⟨q, l⟩ := x
    rw [placeOf_ok s p off q l hs, placeOf_ok t p off q l (hloc.trans hs), h.routeRow]

theorem OnlyTime.pair {s t : State} (h : OnlyTime s t) (e : QEntry) : e.pair t = e.pair s := by
  simp only [QEntry.pair, QEntry.bank, h.placeOf]

theorem OnlyTime.meets {s t : State} (h : OnlyTime s t) (e : QEntry) (o : OpenRow) : e.meets t o = e.meets s o := by
  simp only [QEntry.meets, h.placeOf]

/-! ### Writes that R144 holds are not served -/

theorem canServe_rowHolds (s : State) (q u : Nat) (before : List QEntry) (yielded : Bool) (e : QEntry) (h : rowHolds s q e = true) :
    canServe s q u before yielded e = false := by
  have hopen : ∃ k, e.bank s = some k ∧ (openRow s q k).isNone = false := by
    unfold rowHolds at h
    split at h
    · exact absurd h Bool.false_ne_true
    · rename_i k hk
      refine ⟨k, hk, ?_⟩
      cases ho : openRow s q k with
      | none => simp [ho] at h
      | some o => rfl
  obtain ⟨k, hk, ho⟩ := hopen
  simp only [canServe, hk, ho, h, Bool.not_true, Bool.and_false, Bool.or_self]

/-- Where every access that a test admits is held under R144, none can be served. -/
theorem firstReady_allHeld (s : State) (q u : Nat) (t : QEntry → Bool) (yielded : Bool) (before l : List QEntry)
    (h : ∀ e ∈ l, t e = true → rowHolds s q e = true) : firstReady s q u t yielded before l = none := by
  induction l generalizing before with
  | nil => rfl
  | cons e l ih =>
    have hskip : (t e && canServe s q u before yielded e) = false := by
      cases ht : t e with
      | false => rfl
      | true => rw [canServe_rowHolds s q u before yielded e (h e (.head l) ht), Bool.and_false]
    rw [firstReady, hskip, if_neg Bool.false_ne_true]
    exact ih _ fun b hb => h b (.tail e hb)

/-- A gleaner to whose pair writes held under R144 alone wait serves none at its yield. -/
theorem serveYield_allHeld (s : State) (q u g n : Nat)
    (h : ∀ e ∈ ((s.slice q).sub u).queue, e.pair s = some g → rowHolds s q e = true) : serveYield q u g n s = s := by
  cases n with
  | zero => rfl
  | succ n =>
    have hnone := firstReady_allHeld s q u (fun e => e.pair s == some g) true [] (((s.slice q).sub u).queue.take 64) fun e he ht =>
      h e (List.mem_of_mem_take he) (beq_iff_eq.1 ht)
    simp only [serveYield, serveNext, hnone]

/-- A write to the row that its pair's gleaner has begun is held. -/
theorem rowHolds_of_begun (s : State) (q g : Nat) (e : QEntry) (o : OpenRow) (hpair : e.pair s = some g)
    (hrow : (tget glUnit0 (s.slice q).glUnits g).row = some o) (hw : e.writes = true) (hm : e.meets s o = true) :
    rowHolds s q e = true := by
  obtain ⟨k, hk, hslot⟩ := Option.map_eq_some_iff.1 hpair
  have hopen : openRow s q k = some o := by rw [openRow, hslot, hrow]
  simp only [rowHolds, hk, hopen, hw, hm, Option.map_some, Option.getD_some, Bool.and_self]

/-! ### A row that is not finished (R140, R142) -/

/-- The next row of a gleaner rests on the commands of its slice and on its partial vectors. -/
theorem nextRow_congr {x y : Slice} (g : Nat) (hgl : y.gl = x.gl)
    (hparts : (tget glUnit0 y.glUnits g).parts = (tget glUnit0 x.glUnits g).parts) : nextRow y g = nextRow x g := by
  simp only [nextRow, bagsAhead, rowsLeft, GlUnit.part?, hgl, hparts]

/-- A gleaner that has no row, or no token for its activation, finishes none. -/
theorem finishRow_short (s : State) (q g : Nat)
    (h : ∀ r, nextRow (s.slice q) g = some r → shortOf (accrue s (partAt s r.cmd.p)) (partAt s r.cmd.p) [(8 + q, 6144)] ≠ none) :
    finishRow s q g = s := by
  unfold finishRow
  split
  · rfl
  · rename_i r hr
    simp only [Option.isSome_iff_ne_none.2 (h r hr), Bool.true_or, if_true]

/-- Whether an access finds its tokens rests on no slice and no counter. -/
theorem KeepsCommands.shortOf_accrue {s t : State} (h : KeepsCommands s t) (k : Nat) (ds : Demand) :
    shortOf (accrue t k) k ds = shortOf (accrue s k) k ds := by
  rw [← h.frame]
  rfl

/-- Where no record and no event waits for device memory, none goes on. -/
theorem pumpAll_none (s : State) (hq : ∀ e ∈ s.queues, e.2.sent = false) (he : s.dev.evSent = false) : pumpAll s = s := by
  have hnone : (s.queues.filter fun e => e.2.sent) = [] := List.filter_eq_nil_iff.2 fun e h => by simp [hq e h]
  simp only [pumpAll, hnone, List.foldl_nil, he, Bool.false_eq_true, if_false]

/-! ### The time of a yield (R142) -/

theorem foldl_ctr {α : Type} (f : State → α → State) (k : Nat) (l : List α)
    (hf : ∀ s, ∀ a ∈ l, tget zeroN (f s a).ctr k = tget zeroN s.ctr k) (s : State) :
    tget zeroN (l.foldl f s).ctr k = tget zeroN s.ctr k := by
  induction l generalizing s with
  | nil => rfl
  | cons a l ih => exact (ih (fun s b hb => hf s b (.tail a hb)) (f s a)).trans (hf s a (.head l))

theorem bump_ctr_ne (s : State) (k n j : Nat) (h : j ≠ k) : tget zeroN (bump s k n).ctr j = tget zeroN s.ctr j := by
  rw [bump_ctr, if_neg h]

theorem bumpIf_ctr_ne (b : Bool) (s : State) (k n j : Nat) (h : j ≠ k) : tget zeroN (bumpIf b s k n).ctr j = tget zeroN s.ctr j := by
  cases b with
  | false => rfl
  | true => exact bump_ctr_ne s k n j h

/-- Of the counters of a slice, the passing of time moves the one of its doubled refresh interval alone. -/
theorem countTime_ctrSlice (s : State) (dt p i : Nat) (hi : i < 64) (h32 : i ≠ 32) :
    tget zeroN (countTime s dt).ctr (ctrSlice p i) = tget zeroN s.ctr (ctrSlice p i) := by
  have hvillage : ∀ v ∈ List.range 4, ∀ j, j < 8 → ctrSlice p i ≠ ctrVillage v j := by
    intro v hv j hj
    have := List.mem_range.1 hv
    unfold ctrSlice ctrVillage
    omega
  have hslice : ∀ q, ctrSlice p i ≠ ctrSlice q 32 := by
    intro q
    unfold ctrSlice
    omega
  have hlimits := foldl_ctr (fun r v => bumpIf (tget zeroB s.therm.warmhold v) (bumpIf (limitIn s v)
      (bumpIf (throttled s v) r (ctrVillage v 0) dt) (ctrVillage v 1) dt) (ctrVillage v 3) dt) (ctrSlice p i) (List.range 4)
    (fun r v hv => by
      rw [bumpIf_ctr_ne _ _ _ _ _ (hvillage v hv 3 (by omega)), bumpIf_ctr_ne _ _ _ _ _ (hvillage v hv 1 (by omega)),
        bumpIf_ctr_ne _ _ _ _ _ (hvillage v hv 0 (by omega))]) s
  refine .trans ?_ hlimits
  exact foldl_ctr _ _ _ (fun r g _ => foldl_ctr _ _ _ (fun r j _ => bump_ctr_ne _ _ _ _ (hslice _)) r) _

theorem notBefore_ctrSlice (s : State) (n p i : Nat) (hi : i < 64) (h32 : i ≠ 32) :
    tget zeroN (notBefore s n).ctr (ctrSlice p i) = tget zeroN s.ctr (ctrSlice p i) := by
  by_cases h : s.now < n
  · rw [notBefore_of_lt s n h, advance_eq]
    exact countTime_ctrSlice s _ p i hi h32
  · rw [notBefore_of_le s n (Nat.le_of_not_lt h)]

theorem notBefore_evSent (s : State) (n : Nat) : (notBefore s n).dev.evSent = s.dev.evSent := by
  by_cases h : s.now < n
  · rw [notBefore_of_lt s n h, advance_eq]
    have hdev := congrArg Dev.evSent (s.dev.after_frame (n - s.now))
    exact hdev
  · rw [notBefore_of_le s n (Nat.le_of_not_lt h)]

/-- The machine at the yield of a gleaner: at 512 column operations now, otherwise once 1.5 µs have passed. -/
def atYield (s : State) (x : GlUnit) : State := if 512 ≤ x.ops then s else notBefore s (x.since + 1500)

theorem atYield_onlyTime (s : State) (x : GlUnit) : OnlyTime s (atYield s x) := by
  unfold atYield OnlyTime
  split
  · rfl
  · rw [notBefore_eq]

theorem atYield_now (s : State) (x : GlUnit) : (atYield s x).now = if 512 ≤ x.ops then s.now else max s.now (x.since + 1500) := by
  unfold atYield
  split
  · rfl
  · rw [notBefore_eq]

theorem atYield_evSent (s : State) (x : GlUnit) : (atYield s x).dev.evSent = s.dev.evSent := by
  unfold atYield
  split
  · rfl
  · exact notBefore_evSent ..

theorem atYield_ctrSlice (s : State) (x : GlUnit) (p i : Nat) (hi : i < 64) (h32 : i ≠ 32) :
    tget zeroN (atYield s x).ctr (ctrSlice p i) = tget zeroN s.ctr (ctrSlice p i) := by
  unfold atYield
  split
  · rfl
  · exact notBefore_ctrSlice _ _ _ _ hi h32

/-! ### GLEANER_YIELD (R142) -/

/-- A gleaner of a slice begins its count and its time anew. -/
def Slice.restart (x : Slice) (g now : Nat) : Slice :=
  { x with glUnits := tset glUnit0 x.glUnits g { tget glUnit0 x.glUnits g with ops := 0, since := now } }

theorem Slice.restart_sub (x : Slice) (g now u : Nat) : (x.restart g now).sub u = x.sub u := rfl

theorem Slice.restart_unit (x : Slice) (g now : Nat) :
    tget glUnit0 (x.restart g now).glUnits g = { tget glUnit0 x.glUnits g with ops := 0, since := now } := tget_tset_self ..

theorem Slice.restart_nextRow (x : Slice) (g now : Nat) : nextRow (x.restart g now) g = nextRow x g :=
  nextRow_congr g rfl (by rw [Slice.restart_unit])

theorem yieldUnit_eq (s : State) (q u g : Nat) : yieldUnit s q u g =
    let v := serveYield q u g 16 (bump (atYield s (tget glUnit0 (s.slice q).glUnits g)) (ctrSlice q 5) 1)
    finishRow (modSlice v q fun x => x.restart g v.now) q g := rfl

theorem canYield_iff (s : State) (q u g : Nat) : canYield s q u g = true ↔
    (∃ o, (tget glUnit0 (s.slice q).glUnits g).row = some o) ∧ pairWaits s q u g = true ∧ ((s.slice q).sub u).stopped = false := by
  simp only [canYield, Bool.and_eq_true, Option.isSome_iff_exists, Bool.not_eq_true', and_assoc]

/-- A gleaner to whose pair nothing but writes to its begun row waits, and which has no token for the row, serves none and goes on with the
row begun: its yield is counted, and its count and its time begin anew. -/
theorem yieldUnit_held (s w : State) (q u g : Nat) (o : OpenRow) (hw : atYield s (tget glUnit0 (s.slice q).glUnits g) = w)
    (hrow : (tget glUnit0 (s.slice q).glUnits g).row = some o)
    (hheld : ∀ e ∈ ((s.slice q).sub u).queue, e.pair s = some g → e.writes = true ∧ e.meets s o = true)
    (hshort : ∀ r, nextRow (s.slice q) g = some r → shortOf (accrue w (partAt s r.cmd.p)) (partAt s r.cmd.p) [(8 + q, 6144)] ≠ none) :
    yieldUnit s q u g = modSlice (bump w (ctrSlice q 5) 1) q fun x => x.restart g w.now := by
  have htime : OnlyTime s w := hw ▸ atYield_onlyTime ..
  have hserve : serveYield q u g 16 (bump w (ctrSlice q 5) 1) = bump w (ctrSlice q 5) 1 := by
    refine serveYield_allHeld _ q u g 16 fun e he hpair => ?_
    rw [bump_slice_of, htime.slice] at he
    rw [(htime.bump ..).pair] at hpair
    obtain ⟨hwrites, hmeets⟩ := hheld e he hpair
    rw [← (htime.bump _ _).pair] at hpair
    rw [← (htime.bump _ _).meets] at hmeets
    exact rowHolds_of_begun _ q g e o hpair (by rw [bump_slice_of, htime.slice, hrow]) hwrites hmeets
  have hkeeps : KeepsCommands w (modSlice (bump w (ctrSlice q 5) 1) q fun x => x.restart g w.now) :=
    (KeepsCommands.bump ..).trans (.modSlice _ _ _ fun _ => rfl)
  rw [yieldUnit_eq, hw, hserve]
  refine finishRow_short _ q g fun r hr => ?_
  rw [modSlice, setSlice_slice_self, Slice.restart_nextRow, bump_slice_of, htime.slice] at hr
  rw [bump_now, hkeeps.partAt, htime.partAt, hkeeps.shortOf_accrue]
  exact hshort r hr

end Sys2Proof.Machine

/-- Settles O26. A GLEAN offered to its slice controller is received or waits (`offer_takes`, `offer_waits`); writes to the row that a gleaner
has begun are not served (`canServe_rowHolds`), so that such a yield restarts the gleaner's count and time alone (`yieldUnit_held`). That a
yield finishes exactly one row is log entry 34, the model's choice. -/
theorem gleansServed : Obligations.GleansServed := by
  unfold Obligations.GleansServed
  refine ⟨fun s c id g f pool q d heng hfields hslot hready hshard hheld => ?_, fun s p layer u => ?_⟩
  · have h : Offers s c id g f pool q d := ⟨heng, hfields, hslot, hready, hshard, hheld⟩
    refine ⟨fun hroom hc => ?_, fun hfull hstall => ?_⟩
    · have htakes := offer_takes s c id g f pool q d h hroom hc
      exact ⟨⟨_, rfl, htakes⟩, fun hstall => ⟨_, gleanSlotFree_offers s c id g heng hstall, htakes⟩⟩
    · exact congrArg Host.Outcome.next (offer_waits s c id g f pool q d h hfull hstall)
  · intro g x y
    have hexec : exec (.gleanerYield p layer u) s = .next (if canYield s p u g then pumpAll (yieldUnit s p u g) else s) := rfl
    refine ⟨fun hno => ?_, fun o hrow hwaits hgoes => ?_⟩
    · have hcannot : canYield s p u g = false := by
        rw [Bool.eq_false_iff, ne_eq, canYield_iff]
        rintro ⟨⟨o, ho⟩, hwaits, hgoes⟩
        rcases hno with hrow | hw | hstop
        · exact absurd (hrow.symm.trans ho) nofun
        · exact absurd (hw.symm.trans hwaits) nofun
        · exact absurd (hstop.symm.trans hgoes) nofun
      rw [hexec, hcannot, if_neg Bool.false_ne_true]
    · intro s' v
      rw [if_pos ((canYield_iff s p u g).2 ⟨⟨o, hrow⟩, hwaits, hgoes⟩)] at hexec
      refine ⟨hexec.trans (congrArg (fun t => Host.Outcome.next (pumpAll t)) (yieldUnit_eq s p u g)), fun hheld hshort hq hev => ?_⟩
      have hyield := yieldUnit_held s (atYield s x) p u g o rfl hrow hheld hshort
      have htime := atYield_onlyTime s x
      have hnow := atYield_now s x
      have hsent := atYield_evSent s x
      have hctr := atYield_ctrSlice s x p 5 (by omega) (by omega)
      generalize atYield s x = w at htime hnow hsent hctr hyield
      have hpump : pumpAll (yieldUnit s p u g) = yieldUnit s p u g := by
        rw [hyield]
        refine pumpAll_none _ ?_ (hsent.trans hev)
        rw [modSlice, setSlice_queues, bump_queues, htime.queues]
        exact hq
      rw [hpump, hyield] at hexec
      refine ⟨_, hexec, hnow, ?_, ?_, ?_, ?_⟩
      · rw [modSlice, setSlice_slice_self, Slice.restart_unit, bump_slice_of, htime.slice]
        rfl
      · rw [modSlice, setSlice_slice_self, Slice.restart_sub, bump_slice_of, htime.slice]
      · rw [modSlice, setSlice_ctr, bump_ctr, if_pos rfl, hctr]
      · rw [htime]
        rfl
end

section
/-! The bags of the commands that a slice holds: they are delivered, or wait (R133 to R135, R139, R214). -/

open Sys2Proof Sys2Proof.Machine

namespace Sys2Proof.Machine

/-! ### Tokens taken -/

theorem OnlyTokens.eq {s t : State} (h : OnlyTokens s t) : t = { s with parts := t.parts, ctr := t.ctr } := by rw [← h.frame]

theorem OnlyTokens.slice {s t : State} (h : OnlyTokens s t) (p : Nat) : t.slice p = s.slice p := by
  rw [h.eq]
  rfl

theorem OnlyTokens.croft {s t : State} (h : OnlyTokens s t) (p : Nat) : t.croft p = s.croft p := by
  rw [h.eq]
  rfl

theorem OnlyTokens.lsErr {s t : State} (h : OnlyTokens s t) : t.lsErr = s.lsErr := by rw [h.eq]
theorem OnlyTokens.mem {s t : State} (h : OnlyTokens s t) : t.mem = s.mem := by rw [h.eq]
theorem OnlyTokens.now {s t : State} (h : OnlyTokens s t) : t.now = s.now := by rw [h.eq]
theorem OnlyTokens.link {s t : State} (h : OnlyTokens s t) : t.link = s.link := by rw [h.eq]
theorem OnlyTokens.ptab {s t : State} (h : OnlyTokens s t) : t.ptab = s.ptab := by rw [h.eq]

/-! ### CHAIN_VALUE_ARRIVE: which bag goes (R139, R214) -/

/-- Only the command received first goes on. -/
theorem chainValueArrive_behind (s : State) (p : Fin 512) (k : Nat) (g : GlCmd) (gs : List GlCmd) (h : (s.slice p).gl = g :: gs)
    (hk : g.k ≠ k) : exec (.chainValueArrive p k) s = .next s := by
  rw [exec_chainValueArrive, execChainValueArrive, h]
  dsimp only
  rw [decide_eq_true hk, Bool.true_or, if_pos rfl]

section
variable (s : State) (p : Fin 512) (g : GlCmd) (gs : List GlCmd) (h : (s.slice p).gl = g :: gs)
include h

/-- A bag one of whose rows cannot be read now waits. -/
theorem chainValueArrive_stopped (hstop : bagStopped s p g = true) : exec (.chainValueArrive p g.k) s = .next s := by
  simp only [exec_chainValueArrive, execChainValueArrive, h, hstop, Bool.or_true, if_true]

/-- A bag that lacks tokens waits at the regulator of the bucket that has too few. -/
theorem chainValueArrive_short (hgoes : bagStopped s p g = false) (key : Nat)
    (hshort : shortOf (accrue s (partAt s g.p)) (partAt s g.p) (bagDemand (accrue s (partAt s g.p)) p g) = some key) :
    exec (.chainValueArrive p g.k) s = .next (modEngine (accrue s (partAt s g.p)) g.p g.id fun h =>
      { h with gate := some (regOf key), stall := if h.stall.isSome then h.stall else some (accrue s (partAt s g.p)).now }) := by
  simp only [exec_chainValueArrive, execChainValueArrive, h, hgoes, hshort, ne_eq, not_true_eq_false, decide_false, Bool.or_self,
    Bool.false_eq_true, if_false]

/-- A bag that has its tokens is delivered. -/
theorem chainValueArrive_delivers (hgoes : bagStopped s p g = false)
    (hshort : shortOf (accrue s (partAt s g.p)) (partAt s g.p) (bagDemand (accrue s (partAt s g.p)) p g) = none) :
    exec (.chainValueArrive p g.k) s = .next (nextBag (takeTokens (accrue s (partAt s g.p)) (partAt s g.p)
      (bagDemand (accrue s (partAt s g.p)) p g)) p g) := by
  simp only [exec_chainValueArrive, execChainValueArrive, h, hgoes, hshort, ne_eq, not_true_eq_false, decide_false, Bool.or_self,
    Bool.false_eq_true, if_false]

end

/-! ### A bag of NULL entries (R133 to R135) -/

/-- Every entry of the next bag of a command is NULL. -/
def NullBag (g : GlCmd) : Prop := ∀ x ∈ (bagsOf g.pool g.entries).getD g.next [], entNull x = true

theorem entReads_null (wen : Bool) (x : BitVec 64) (h : entNull x = true) : entReads wen x = false := by
  rw [entReads, h, Bool.not_true, Bool.false_and]

theorem rowsLeft_null (x : Slice) (g : GlCmd) (u : Nat) (h : NullBag g) : rowsLeft x g g.next u = [] := by
  have hnone : ((bagsOf g.pool g.entries).getD g.next []).filter (entReads g.wen) = [] :=
    List.filter_eq_nil_iff.2 fun e he => by rw [entReads_null _ _ (h e he)]; exact Bool.false_ne_true
  rw [rowsLeft, hnone, List.filter_nil, List.drop_nil]

/-- A bag that reads no row waits for none. -/
theorem bagStopped_null (s : State) (q : Nat) (g : GlCmd) (h : NullBag g) : bagStopped s q g = false := by
  simp only [bagStopped, rowsLeft_null _ _ _ h, List.any_nil, List.any_eq_false, Bool.false_eq_true, not_false_eq_true, implies_true]

/-- No gleaner has read a row of bag `b` of a command. -/
theorem heldParts_none (x : Slice) (k b : Nat) (h : ∀ u, u < 48 → (tget glUnit0 x.glUnits u).part? k b = none) :
    heldParts x k b = ⟨[], false, []⟩ := by
  have hnone : ((List.range 48).filterMap fun g => ((tget glUnit0 x.glUnits g).part? k b).map fun y => (g, y)) = [] :=
    List.filterMap_eq_nil_iff.2 fun u hu => by rw [h u (List.mem_range.1 hu), Option.map_none]
  rw [heldParts, hnone]
  rfl

/-- NULL entries are counted, and nothing is read. -/
theorem foldl_bagEntry_null (q : Nat) (d : Shard) (part : Nat) (wen level1 : Bool) (l : List (BitVec 64))
    (h : ∀ x ∈ l, entNull x = true) (b : BagSum) (s : State) :
    ∃ t, l.foldl (bagEntry q d part wen level1) (b, s) = (b, t) ∧ OnlyCounters s t := by
  induction l generalizing s with
  | nil => exact ⟨s, rfl, .refl s⟩
  | cons x l ih =>
    have hx : bagEntry q d part wen level1 (b, s) x = (b, bump s (ctrSlice q 3) 1) := by
      rw [bagEntry, if_pos (entReads_null wen x (h x (.head l)))]
    obtain ⟨t, hfold, ht⟩ := ih (fun y hy => h y (.tail x hy)) (bump s (ctrSlice q 3) 1)
    exact ⟨t, by rw [List.foldl_cons, hx, hfold], (OnlyCounters.bump ..).trans ht⟩

/-- Where no gleaner has read a row, the chain value is +0. -/
theorem chainValue_none (dim : Nat) (bad : Bool) (past : List (Nat × Nat)) : chainValue dim ⟨[], bad, past⟩ = List.replicate dim 0 := by
  simp only [chainValue, List.find?_nil]
  induction List.range 48 with
  | nil => rfl
  | cons _ _ ih => exact ih

/-- The output vector of a bag of NULL entries is +0. -/
theorem outVector_null (pool dim : Nat) (bag : List (BitVec 64)) (h : ∀ x ∈ bag, entNull x = true) :
    outVector pool dim bag (List.replicate dim 0) = List.replicate dim 0 := by
  have hnone : (bag.filter fun x => !entNull x) = [] := List.filter_eq_nil_iff.2 fun x hx => by simp [h x hx]
  unfold outVector
  split
  · rw [hnone, List.length_nil, if_pos rfl]
  · rfl

theorem dim_le_outPitch (d : Shard) : 4 * d.dim ≤ outPitch d := by
  unfold outPitch up64 cdiv
  omega

/-- The bytes of +0 elements, padded. -/
theorem padTo_zeros (n dim : Nat) (h : 4 * dim ≤ n) :
    padTo n ((List.replicate dim (0 : BitVec 32)).flatMap fun w => leBytes 4 w.toNat) = List.replicate n 0 := by
  have hbytes : ((List.replicate dim (0 : BitVec 32)).flatMap fun w => leBytes 4 w.toNat) = List.replicate (4 * dim) 0 := by
    induction dim with
    | zero => rfl
    | succ m ih =>
      rw [List.replicate_succ, List.flatMap_cons, ih (by omega), Nat.mul_succ, Nat.add_comm, ← List.replicate_append_replicate]
      rfl
  rw [hbytes, padTo, List.length_replicate, List.replicate_append_replicate, Nat.add_sub_cancel' h]

/-! ### Delivery into a local store without errors (R52) -/

theorem lsScan_noErr (s : State) (p : Nat) (rs : List Range) (h : s.lsErr = []) : lsScan s p rs = s := by
  have hnone : rs.flatMap (lsErrs s p) = [] := List.flatMap_eq_nil_iff.2 fun r _ => by rw [lsErrs, h, List.filter_nil]
  rw [lsScan, hnone]
  rfl

/-- Bytes that are not poisoned are written. -/
theorem lsDeliver_clean (s : State) (p a : Nat) (bs : List Byte) (h : s.lsErr = []) :
    lsDeliver s p a (bs.map fun b => (b, false)) = lsWrite s p a bs := by
  have hbytes : (bs.map fun b => (b, false)).map (·.1) = bs := by rw [List.map_map]; exact List.map_id bs
  have hnone : ((List.range (bs.map fun b => (b, false)).length).filter fun i =>
      ((bs.map fun b => (b, false)).getD i (0, false)).2) = [] := by
    refine List.filter_eq_nil_iff.2 fun i _ => ?_
    rw [List.getD_eq_getElem?_getD, List.getElem?_map]
    cases bs[i]? <;> exact Bool.false_ne_true
  simp only [lsDeliver, hbytes, hnone, lsStore, lsScan_noErr s p _ h, List.foldl_nil]

theorem markDirty_slices (s : State) (p : Nat) (rs : List Range) : (markDirty s p rs).slices = s.slices := by
  unfold markDirty
  split <;> rfl

theorem lsWrite_slices (s : State) (p a : Nat) (bs : List Byte) : (lsWrite s p a bs).slices = s.slices := by
  unfold lsWrite
  split
  · rfl
  · rw [markDirty_slices]

/-! ### The command goes on (R139) -/

/-- The commands of a slice once the next bag of `g` has left the chain: `g` goes on with its next, or leaves. -/
def afterBag (g : GlCmd) (l : List GlCmd) : List GlCmd :=
  if g.next + 1 < (bagsOf g.pool g.entries).length then mapIf (fun y => y.k == g.k) (fun y => { y with next := y.next + 1 }) l
  else l.filter fun y => y.k ≠ g.k

/-- The end of a bag: its command goes on, or leaves its slice and may retire. -/
def endBag (s : State) (q : Nat) (g : GlCmd) : State :=
  if g.next + 1 < (bagsOf g.pool g.entries).length then
    turnUnits (modSlice s q fun x => { x with gl := mapIf (fun y => y.k == g.k) (fun y => { y with next := y.next + 1 }) x.gl }) q
  else engineReady (bump (turnUnits (modSlice s q fun x => { x with gl := x.gl.filter fun y => y.k ≠ g.k }) q) (ctrSlice q 0) 1) g.p g.id

theorem KeepsCommands.mem {s t : State} (h : KeepsCommands s t) : t.mem = s.mem := by rw [← h.frame]
theorem KeepsCommands.ls {s t : State} (h : KeepsCommands s t) : t.ls = s.ls := by rw [← h.frame]

/-- The gleaners of a slice turn to the commands that it now holds. -/
theorem turnUnits_modSlice (s : State) (q : Nat) (f : Slice → Slice) : (turnUnits (modSlice s q f) q).mem = s.mem ∧
    (turnUnits (modSlice s q f) q).ls = s.ls ∧ ((turnUnits (modSlice s q f) q).slice q).gl = (f (s.slice q)).gl := by
  have hturn := turnUnits_keepsCommands (modSlice s q f) q
  refine ⟨hturn.mem, hturn.ls, ?_⟩
  rw [hturn.gl, modSlice, setSlice_slice_self]

theorem engineReady_slice (s : State) (p id q : Nat) : (engineReady s p id).slice q = s.slice q := rfl

/-- The end of a bag leaves the banks and the local stores. -/
theorem endBag_leaves (s : State) (q : Nat) (g : GlCmd) : (endBag s q g).mem = s.mem ∧ (endBag s q g).ls = s.ls ∧
    ((endBag s q g).slice q).gl = afterBag g (s.slice q).gl := by
  unfold endBag afterBag
  split
  · exact turnUnits_modSlice s q _
  · rw [engineReady_mem, engineReady_ls, engineReady_slice, bump_mem, bump_ls, bump_slice_of]
    exact turnUnits_modSlice s q _

/-- What the next bag of a command comes to: the entries, the vector delivered, the counts, and how the command goes on. -/
theorem nextBag_eq (s : State) (q : Nat) (g : GlCmd) : nextBag s q g =
    let bag := (bagsOf g.pool g.entries).getD g.next []
    let r := bag.foldl (bagEntry q g.shard (partAt s g.p) g.wen (level1At s g.p)) (heldParts (s.slice q) g.k g.next, s)
    let s := bump (deliverVector r.2 (partAt s g.p) g (outVector g.pool g.shard.dim bag (chainValue g.shard.dim r.1)) r.1.bad)
      (ctrSlice q 1) 1
    endBag (if r.1.bad then bump s (ctrSlice q 10) 1 else s) q g := rfl

/-- A vector of +0 goes to its place in the local store, padded to the pitch. -/
theorem deliverVector_zeros (s : State) (part : Nat) (g : GlCmd) (hd : g.dsel = false) (herr : s.lsErr = []) :
    deliverVector s part g (List.replicate g.shard.dim 0) false =
      lsWrite s g.p (g.dest + g.next * outPitch g.shard) (List.replicate (outPitch g.shard) 0) := by
  simp only [deliverVector, hd, Bool.false_eq_true, if_false, padTo_zeros _ _ (dim_le_outPitch g.shard)]
  exact lsDeliver_clean _ _ _ _ herr

/-- The next bag of a command, every entry of which is NULL, gives a vector of +0. -/
theorem nextBag_null (s : State) (q : Nat) (g : GlCmd) (hd : g.dsel = false) (herr : s.lsErr = []) (hnull : NullBag g)
    (hparts : ∀ u, u < 48 → (tget glUnit0 (s.slice q).glUnits u).part? g.k g.next = none) :
    ∃ t, OnlyCounters s t ∧ nextBag s q g = endBag (bump (lsWrite t g.p (g.dest + g.next * outPitch g.shard)
      (List.replicate (outPitch g.shard) 0)) (ctrSlice q 1) 1) q g := by
  obtain ⟨t, hfold, ht⟩ := foldl_bagEntry_null q g.shard (partAt s g.p) g.wen (level1At s g.p) _ hnull ⟨[], false, []⟩ s
  have herr' : t.lsErr = [] := by rw [ht]; exact herr
  refine ⟨t, ht, ?_⟩
  rw [nextBag_eq, heldParts_none _ _ _ hparts]
  dsimp only
  rw [hfold, chainValue_none, outVector_null _ _ _ hnull, deliverVector_zeros _ _ _ hd herr', if_neg Bool.false_ne_true]

/-- What such a bag leaves: the banks as they were, zeros at its place, and the command gone on. -/
theorem nextBag_null_leaves (s : State) (q : Nat) (g : GlCmd) (hd : g.dsel = false) (herr : s.lsErr = []) (hnull : NullBag g)
    (hparts : ∀ u, u < 48 → (tget glUnit0 (s.slice q).glUnits u).part? g.k g.next = none) :
    (nextBag s q g).mem = s.mem ∧
      lsRead (nextBag s q g) g.p (g.dest + g.next * outPitch g.shard) (outPitch g.shard) = List.replicate (outPitch g.shard) 0 ∧
      ((nextBag s q g).slice q).gl = afterBag g (s.slice q).gl := by
  obtain ⟨t, ht, hnext⟩ := nextBag_null s q g hd herr hnull hparts
  rw [hnext]
  obtain ⟨hmem, hls, hgl⟩ := endBag_leaves (bump (lsWrite t g.p (g.dest + g.next * outPitch g.shard)
    (List.replicate (outPitch g.shard) 0)) (ctrSlice q 1) 1) q g
  refine ⟨?_, ?_, ?_⟩
  · rw [hmem, bump_mem, lsWrite_mem, ht]
  · have hread := tgetList_tsetList zero8 t.ls (lsKey g.p (g.dest + g.next * outPitch g.shard)) 0 (outPitch g.shard)
      (List.replicate (outPitch g.shard) 0) (Nat.le_of_eq ((Nat.zero_add _).trans List.length_replicate.symm))
    rw [lsRead, hls, bump_ls, lsWrite_ls]
    rwa [Nat.add_zero, List.drop_zero, List.take_of_length_le (Nat.le_of_eq List.length_replicate)] at hread
  · rw [hgl, bump_slice_of, State.slice, lsWrite_slices, ht]
    rfl

/-! ### REGULATOR_RELEASE (R214) -/

/-- The oldest access of a regulator goes on at once where its buckets hold its tokens. -/
theorem regulatorRelease_goes (s : State) (part : Fin 8) (r : Regulator) (w : Waiter)
    (hw : oldestWaiter (engineWaiters (accrue s part) part r ++ (portWaiter (accrue s part) part r).toList) = some w)
    (ht : tokenWait (accrue s part) part w.demand = some 0) :
    exec (.regulatorRelease part r) s = .next (w.go (takeTokens (bump (accrue (accrue s part) part) (ctrPart part (regIndex r))
      (s.now - w.since)) part w.demand)) := by
  simp only [exec_regulatorRelease, execRegulatorRelease, hw, ht, Nat.add_zero, notBefore_of_le _ _ (Nat.le_refl _)]
  rfl

theorem regulatorRelease_none (s : State) (part : Fin 8) (r : Regulator) (he : engineWaiters (accrue s part) part r = [])
    (hp : portWaiter (accrue s part) part r = none) : exec (.regulatorRelease part r) s = .next s := by
  simp only [exec_regulatorRelease, execRegulatorRelease, he, hp, Option.toList_none, List.append_nil, oldestWaiter]

/-- Where one element of a list without repetition alone gives anything, that is all. -/
theorem flatMap_single {α β : Type} (l : List α) (a : α) (f : α → List β) (hnodup : l.Nodup) (ha : a ∈ l)
    (hother : ∀ b ∈ l, b ≠ a → f b = []) : l.flatMap f = f a := by
  obtain ⟨pre, post, rfl⟩ := List.append_of_mem ha
  obtain ⟨-, hpost, hdisj⟩ := List.nodup_append.1 hnodup
  have hpre : pre.flatMap f = [] := List.flatMap_eq_nil_iff.2 fun b hb =>
    hother b (List.mem_append_left _ hb) (hdisj b hb a List.mem_cons_self)
  have hpost : post.flatMap f = [] := List.flatMap_eq_nil_iff.2 fun b hb =>
    hother b (List.mem_append_right _ (.tail a hb)) fun h => (List.nodup_cons.1 hpost).1 (h ▸ hb)
  rw [List.flatMap_append, List.flatMap_cons, hpre, hpost, List.nil_append, List.append_nil]

/-- A READ that waits at a regulator. -/
def readWaiter (s : State) (p : Nat) (g : Engine) (c : CtxId) (f : DmaF) : Waiter :=
  ⟨g.stall.getD s.now, dmaDemand s c f .read (BitVec.ofNat 64 g.base),
    fun s => runRead (modEngine s p g.id fun h => { h with gate := none, stall := none }) c g.id f (BitVec.ofNat 64 g.base)⟩

/-- A READ that alone waits at a regulator of its partition. -/
theorem engineWaiters_single (s : State) (k : Nat) (r : Regulator) (p : Fin 512) (g : Engine) (c : CtxId) (f : DmaF)
    (hp : partOf s p = some k)
    (halone : ∀ q, q < 512 → partOf s q = some k → (s.croft q).engines.filter (fun h => h.gate = some r) = if q = p.val then [g] else [])
    (hg : g.instr = .dmaRead c f) : engineWaiters s k r = [readWaiter s p g c f] := by
  refine (flatMap_single _ p.val _ List.nodup_range (List.mem_range.2 p.isLt) fun q hq hne => ?_).trans ?_
  · split
    · rename_i hk
      rw [halone q (List.mem_range.1 hq) hk, if_neg hne, List.filterMap_nil]
    · rfl
  · rw [if_pos hp, halone p p.isLt hp, if_pos rfl, List.filterMap_cons_some (b := readWaiter s p g c f), List.filterMap_nil]
    rw [hg]
    rfl

end Sys2Proof.Machine

/-- Settles O27. A bag of NULL entries reads nothing (`bagStopped_null`, `foldl_bagEntry_null`) and its +0 vector is written at its place
(`nextBag_null_leaves`); one that lacks tokens waits (`chainValueArrive_short`). A regulator lets its oldest access go on
(`regulatorRelease_goes`): where a READ alone waits, that READ (`engineWaiters_single`). That the oldest
goes first is the model's choice: R214 gives no order. -/
theorem bagsDelivered : Obligations.BagsDelivered := by
  unfold Obligations.BagsDelivered
  refine ⟨fun s p g gs h => ⟨fun k hk => ?_, fun hstop => ?_, fun hd hparts hnull hp herr => ?_⟩, fun s p key g gs h hgoes => ?_,
    fun s part r => ?_⟩
  · exact chainValueArrive_behind s p k g gs h (Ne.symm hk)
  · exact chainValueArrive_stopped s p g gs h hstop
  · intro v hshort a _
    have htokens : OnlyTokens s (takeTokens v (partAt s g.p) (bagDemand v p g)) :=
      (accrue_onlyTokens s _).trans (takeTokens_onlyTokens _ _ _)
    have hexec := chainValueArrive_delivers s p g gs h (bagStopped_null s p g hnull) hshort
    obtain ⟨hmem, hread, hgl⟩ := nextBag_null_leaves (takeTokens v (partAt s g.p) (bagDemand v p g)) p g hd
      (htokens.lsErr.trans herr) hnull (by rwa [htokens.slice])
    refine ⟨_, hexec, hmem.trans htokens.mem, hread, ?_⟩
    rw [hgl, htokens.slice]
    rfl
  · exact fun hshort => chainValueArrive_short s p g gs h hgoes key hshort
  · intro u
    have hu : OnlyTokens s u := accrue_onlyTokens s part
    refine ⟨fun w hw ht => regulatorRelease_goes s part r w hw ht, fun he hp => regulatorRelease_none s part r he hp, ?_⟩
    intro p g c f hp halone hport hg a ds ht
    have hengine : engineWaiters u part r = [readWaiter u p g c f] := by
      refine engineWaiters_single u part r p g c f ((partOf_congr hu.ptab p).trans hp) (fun q hq hk => ?_) hg
      rw [hu.croft]
      exact halone q hq ((partOf_congr hu.ptab q).symm.trans hk)
    have hnone : portWaiter u part r = none := by
      simp only [portWaiter, hu.link, hport, List.find?_nil]
    have hold : oldestWaiter (engineWaiters u part r ++ (portWaiter u part r).toList) = some (readWaiter u p g c f) := by
      rw [hengine, hnone]
      rfl
    have hgo := regulatorRelease_goes s part r _ hold ht
    rw [hgo, readWaiter, hu.now]
end

section
/-! The partition commands begin (R315, R329), and what the three commands of the session store do: SESSION_OPEN (R158), SESSION_APPEND
(R170, R171) and SESSION_CLOSE (R159). -/

open Sys2Proof Sys2Proof.Machine

namespace Sys2Proof.Machine

/-! ### Commands by number -/

theorem cmdBy_id {s : State} {cid : Nat} {c : Cmd} (h : cmdBy s cid = some c) : c.id = cid := by
  simpa using List.find?_some h

/-- An update of a command that keeps its number is read at its number. -/
theorem cmdBy_modCmd_self (s : State) (cid : Nat) (f : Cmd → Cmd) (hf : ∀ c, (f c).id = c.id) :
    cmdBy (modCmd s cid f) cid = (cmdBy s cid).map f := by
  have hkeep : ∀ c : Cmd, (if c.id == cid then f c else c).id = c.id := fun c => by
    split
    · exact hf c
    · rfl
  have hfind : cmdBy (modCmd s cid f) cid = (cmdBy s cid).map fun c => if c.id == cid then f c else c := by
    simp only [cmdBy, modCmd, mapIf, List.find?_map, Function.comp_def, hkeep]
  rw [hfind]
  refine Option.map_congr fun c hc => ?_
  rw [if_pos (beq_iff_eq.2 (cmdBy_id hc))]

theorem waitingCmd_eq_some {s : State} {cid op : Nat} {c : Cmd} :
    waitingCmd s cid op = some c ↔ cmdBy s cid = some c ∧ pktOp c.pkt = op ∧ c.stage = .checked := by
  unfold waitingCmd
  cases hc : cmdBy s cid with
  | none => simp
  | some d =>
    simp only [Option.ite_none_right_eq_some, Option.some.injEq]
    constructor
    · rintro ⟨⟨hop, hst⟩, rfl⟩
      exact ⟨rfl, hop, hst⟩
    · rintro ⟨rfl, hop, hst⟩
      exact ⟨⟨hop, hst⟩, rfl⟩

/-! ### A partition command begins (R329) -/

theorem votePart_clean (s : State) (k : Nat) (h : (tget ptabReset s.ptab k).clean = true) : votePart s k = s := if_pos h

theorem clearIfDue_notDue (s : State) (k : Nat) (h : (s.part k).clearDue = false) : clearIfDue s k = s :=
  if_neg (Bool.eq_false_iff.1 h)

theorem setWarm_same (s : State) (v : Nat) (on : Bool) (h : tget zeroB s.therm.warmhold v = on) : setWarm s v on = s := if_pos h

/-- Where no village is held warm, warm-hold has nothing to end. -/
theorem endWarm_cold (s : State) (k : Nat) (h : ∀ v, v < 4 → tget zeroB s.therm.warmhold v = false) : endWarm s k = s := by
  refine List.foldlRecOn (motive := fun t => t = s) (List.range 4) _ rfl fun t ht v hv => ?_
  subst ht
  rw [setWarm_same t v false (h v (List.mem_range.1 hv)), ite_self]

theorem admitPaired_unarmed (s : State) (k cid op : Nat) (h : s.twin.armed ≠ some k) : admitPaired s k cid op = s := if_neg h

/-- A command with the time at which it began. -/
def Cmd.beganAt (c : Cmd) (now : Nat) : Cmd := { c with began := now }

@[simp] theorem Cmd.beganAt_pkt (c : Cmd) (now : Nat) : (c.beganAt now).pkt = c.pkt := rfl

/-- In the machine in which it has begun, a command is as it was but for that time. -/
theorem waitingCmd_begun (s : State) (c : Cmd) (op : Nat) (h : waitingCmd s c.id op = some c) :
    waitingCmd (begun s c) c.id op = some (c.beganAt s.now) := by
  obtain ⟨hc, hop, hst⟩ := waitingCmd_eq_some.1 h
  refine waitingCmd_eq_some.2 ⟨?_, hop, hst⟩
  have hmod := cmdBy_modCmd_self s c.id (fun d => { d with began := s.now }) fun _ => rfl
  rw [hc] at hmod
  exact hmod

/-- A partition command that begins acts on the machine in which it has begun. -/
theorem beginPart_begins (s : State) (c : Cmd) (op : Nat) (act : Cmd → State → State) (h : Begins s c op) :
    beginPart s c.id op act = act (c.beganAt s.now) (begun s c) := by
  obtain ⟨hclean, -, hready, hwait, hmay, hvalid, hdue, harmed, hcold⟩ := h
  have hadmit : admitPaired (begun s c) (pktPart c.pkt) c.id op = begun s c := admitPaired_unarmed _ _ _ _ harmed
  simp only [begun] at hadmit
  have hbegun := waitingCmd_begun s c op hwait
  simp only [begun] at hbegun ⊢
  simp only [beginPart, hwait, hmay, votePart_clean s _ hclean, hready, hvalid, clearIfDue_notDue s _ hdue, endWarm_cold s _ hcold, hadmit,
    hbegun, if_true, Bool.false_eq_true, if_false]

/-! ### SESSION_OPEN (R158) -/

theorem sessionOpen_begins (s : State) (c : Cmd) (h : Begins s c 0x0301) :
    exec (.sessionOpen c.id) s = .next (openSession (c.beganAt s.now) (begun s c)) := by
  rw [exec_sessionOpen, execSessionOpen, beginPart_begins s c _ _ h]

/-- A slot that is not FREE is not opened. -/
theorem openSession_taken (s : State) (c : Cmd) (h : slotTaken s (pktSession c.pkt) = true) :
    openSession c s = settle s c.id stBadSession (pktSession c.pkt) := if_pos h

/-- With no common range free in the pools nothing is opened. -/
theorem openSession_full (s : State) (c : Cmd) (hfree : slotTaken s (pktSession c.pkt) = false)
    (hfits : sessFits (geomOf (pktPart c.pkt) c.pkt) = true)
    (hnone : poolAlloc s (pktPart c.pkt) (sessExt s (pktPart c.pkt) (geomOf (pktPart c.pkt) c.pkt)) = none) :
    openSession c s = settle s c.id stCapacity 0 := by
  simp only [openSession, hfree, hfits, hnone, Bool.false_eq_true, Bool.true_eq_false, if_false]

/-- A geometry at a range of the session pools. -/
def Sess.placed (x : Sess) (poff ext : Nat) : Sess := { x with poff := BitVec.ofNat 32 poff, ext := BitVec.ofNat 32 ext }

/-- A FREE slot takes the lowest range that fits: its pages are zeroed, and it is to be OPEN when the record goes out. -/
theorem openSession_allocates (s : State) (c : Cmd) (o : Nat) (hfree : slotTaken s (pktSession c.pkt) = false)
    (hfits : sessFits (geomOf (pktPart c.pkt) c.pkt) = true)
    (hsome : poolAlloc s (pktPart c.pkt) (sessExt s (pktPart c.pkt) (geomOf (pktPart c.pkt) c.pkt)) = some o) :
    let y := (geomOf (pktPart c.pkt) c.pkt).placed o (sessExt s (pktPart c.pkt) (geomOf (pktPart c.pkt) c.pkt))
    openSession c s = settle (modCmd (zeroAll s (pktPart c.pkt) y) c.id fun d =>
      { d with post := some (pktSession c.pkt, { y with state := 1 }) }) c.id 0 0 := by
  simp only [openSession, hfree, hfits, hsome, Sess.placed, Bool.false_eq_true, Bool.true_eq_false, if_false]

/-! ### The record of a command whose outcome is decided (R158, R320) -/

/-- Leaving the admission orders changes the partitions alone. -/
theorem leaveOrder_eq (s : State) (cid : Nat) : leaveOrder s cid = { s with parts := (leaveOrder s cid).parts } := by
  unfold leaveOrder
  refine List.foldlRecOn (motive := fun t : State => t = { s with parts := t.parts }) (List.range 8) _ rfl fun t ht k _ => ?_
  split
  · rw [modPart, setPart, ht]
  · exact ht

theorem voteQueue_clean (s : State) (q : Nat) (h : (s.queue q).base.clean = true) : voteQueue s q = s := if_pos h

/-- While a record of a pair is on its way to the host, none of its records is written. -/
theorem cqPump_busy (s : State) (q n : Nat) (h : recBusy s q = true) : cqPump q n s = s := by
  cases n with
  | zero => rfl
  | succ n =>
    rw [cqPump]
    split
    · rfl
    · simp only [h, Bool.or_true, Bool.true_or, if_true]

theorem pump_busy (s : State) (q : Nat) (hclean : (s.queue q).base.clean = true) (hbusy : recBusy s q = true) : pump s q = s := by
  rw [pump, voteQueue_clean s q hclean, cqPump_busy s q _ hbusy]

/-- The record of a successful SESSION_OPEN goes to its pair, where another is on its way: the slot is OPEN, and the others stay (R158). -/
theorem handRec_opens (s : State) (c : Cmd) (r : CRec) (i : Nat) (x : Sess) (hpost : c.post = some (i, x)) (hstatus : r.status = 0)
    (hclean : (s.queue c.q).base.clean = true) (hfault : (s.queue c.q).faulted = false) (hbusy : recBusy s c.q = true) :
    (handRec s c r).sess = tset sess0 s.sess i x := by
  simp only [handRec, hpost, hstatus, if_true]
  rw [leaveOrder_eq]
  generalize hv : modCmd _ c.id _ = v
  have hqueue : v.queue c.q = s.queue c.q := by
    rw [← hv]
    rfl
  have hlink : v.link = s.link := by
    rw [← hv]
    rfl
  have hsess : v.sess = tset sess0 s.sess i x := by
    rw [← hv]
    rfl
  rw [hqueue, hfault, Bool.false_and, if_neg Bool.false_ne_true, pump_busy, modQueue, setQueue_sess, hsess]
  · rw [modQueue, setQueue_queue_self, hqueue]
    exact hclean
  · rw [recBusy, modQueue, setQueue_link, hlink]
    exact hbusy

/-- A record of a command whose writes have completed goes to its pair at once (R320). -/
theorem putRec_quiet (s : State) (r : CRec) (c : Cmd) (hc : cmdBy s r.cid = some c) (hstage : c.stage ≠ .recorded)
    (hquiet : cmdQuiet s c = true) : putRec s r = handRec s c r := by
  simp only [putRec, hc, hstage, hquiet, if_true, if_false]

/-- REEVE_COMMAND_DONE of a command that has no record yet, in no pair of the twin: it completes with its outcome. -/
theorem reeveCommandDone_completes (s : State) (cid : Nat) (c : Cmd) (hc : cmdBy s cid = some c) (hstage : c.stage = .finished)
    (hdone : c.done = none) (hquiet : cmdQuiet s c = true) (hpair : pairOf s cid = none) :
    exec (.reeveCommandDone cid) s = .next (putRec s (plainRec c c.status.toNat c.detail.toNat)) := by
  have hnew : (CmdStage.finished = CmdStage.begun) = False := eq_false (by decide)
  simp only [exec_reeveCommandDone, execReeveCommandDone, hc, hstage, hnew, hquiet, hdone, hpair, finish, and_self, if_true, if_false]

/-- The slot of a SESSION_OPEN is OPEN when its record goes out, and no other slot changes (R158). -/
theorem reeveCommandDone_opens (s : State) (c : Cmd) (i : Nat) (y : Sess) (hc : cmdBy s c.id = some c) (hstage : c.stage = .finished)
    (hstatus : c.status = 0) (hdone : c.done = none) (hpost : c.post = some (i, y)) (hquiet : cmdQuiet s c = true)
    (hpair : pairOf s c.id = none) (hclean : (s.queue c.q).base.clean = true) (hfault : (s.queue c.q).faulted = false)
    (hbusy : recBusy s c.q = true) :
    ∃ t, exec (.reeveCommandDone c.id) s = .next t ∧ t.ses i = y ∧ ∀ j, j ≠ i → t.ses j = s.ses j := by
  have hrec : (plainRec c c.status.toNat c.detail.toNat).status = 0 := by
    rw [hstatus]
    rfl
  have hput := putRec_quiet s (plainRec c c.status.toNat c.detail.toNat) c hc (by rw [hstage]; decide) hquiet
  have hsess := handRec_opens s c _ i y hpost hrec hclean hfault hbusy
  refine ⟨_, reeveCommandDone_completes s c.id c hc hstage hdone hquiet hpair, ?_, fun j hj => ?_⟩
  · rw [hput, State.ses, hsess, tget_tset_self]
  · rw [hput, State.ses, hsess, tget_tset_ne _ _ _ _ _ hj, State.ses]

/-! ### The source of a command in device memory (R142, R219) -/

/-- While granules of the source wait for their banks, the command has begun and its bytes have not come. -/
theorem source_waits (s t : State) (c : Cmd) (k a n : Nat) (hdata : c.data = none) (hn : 0 < n)
    (hspace : spaceOf (BitVec.ofNat 64 a) = 0)
    (hfetch : fetchVia s (viaPart k) (addrOf (BitVec.ofNat 64 a)) n k (.command c.id) = (none, t)) :
    source s c k a n = (none, markBegun t c.id) := by
  simp only [source, hdata, hspace, hfetch, Nat.ne_of_gt hn, if_true, if_false]

/-- The bytes of a source that have come are used once. -/
theorem source_comes (s t : State) (c : Cmd) (k a n : Nat) (bs : List (Byte × Bool)) (hdata : c.data = none) (hn : 0 < n)
    (hspace : spaceOf (BitVec.ofNat 64 a) = 0)
    (hfetch : fetchVia s (viaPart k) (addrOf (BitVec.ofNat 64 a)) n k (.command c.id) = (some bs, t)) :
    source s c k a n = (some bs, dropBrought t (.command c.id)) := by
  simp only [source, hdata, hspace, hfetch, Nat.ne_of_gt hn, if_true, if_false]

/-! ### SESSION_APPEND (R170, R171) -/

theorem sessionAppend_begins (s : State) (c : Cmd) (h : Begins s c 0x0302) :
    exec (.sessionAppend c.id) s = .next (moveAppend (begun s c) (c.beganAt s.now)) := by
  rw [exec_sessionAppend, execSessionAppend, beginPart_begins s c _ _ h]

/-- Nothing is appended to a slot that is not OPEN or is another partition's. -/
theorem moveAppend_noSlot (s : State) (c : Cmd)
    (h : sessOpen (s.ses (pktSession c.pkt)) = false ∨ (s.ses (pktSession c.pkt)).part.toNat ≠ pktPart c.pkt) :
    moveAppend s c = settle s c.id stBadSession (pktSession c.pkt) := if_pos h

/-- A SESSION_APPEND to slot `x`, OPEN in its partition, within its ring, from a range that passes its check. -/
structure Appends (s : State) (c : Cmd) (x : Sess) : Prop where
  slot : s.ses (pktSession c.pkt) = x
  isOpen : sessOpen x = true
  part : x.part.toNat = pktPart c.pkt
  plain : commitKind x (x.len.toNat + (pktField c.pkt 24 2 + 1)) (max 64 (pktField c.pkt 24 2 + 1)) = .plain
  range : rangeOk s (pktPart c.pkt) (pktField c.pkt 16 8) (appendBytes x (pktField c.pkt 24 2 + 1)) = true

/-- What becomes of a SESSION_APPEND to slot `x` once its source has come: poison in it and a lost unit restore the slot (R170), and
otherwise the positions are committed (R171). -/
def appendFrom (s : State) (c : Cmd) (x : Sess) (bs : List (Byte × Bool)) : State :=
  let i := pktSession c.pkt
  let a := pktField c.pkt 24 2 + 1
  match poisonAt (pktField c.pkt 16 8) bs with
  | some pa => settle (rollback s i x.len.toNat a) c.id stPoison pa
  | none =>
    match putAppend s c.id (pktPart c.pkt) x a bs with
    | (some p, s) => settle (rollback s i x.len.toNat a) c.id stUnitLost p
    | (none, s) => settle (commitFor s c.id i (x.len.toNat + a) x.len.toNat a .plain) c.id 0 0

/-- An append that passes its checks goes on with its source. -/
theorem moveAppend_appends (s t : State) (c : Cmd) (x : Sess) (r : Option (List (Byte × Bool))) (h : Appends s c x)
    (hsource : source s c (pktPart c.pkt) (pktField c.pkt 16 8) (appendBytes x (pktField c.pkt 24 2 + 1)) = (r, t)) :
    moveAppend s c = r.elim t (appendFrom t c x) := by
  have hbad : (Commit.plain = Commit.bad) = False := eq_false (by decide)
  have hslide : (Commit.plain = Commit.slide) = False := eq_false (by decide)
  simp only [moveAppend, h.slot, h.isOpen, h.part, h.plain, h.range, hsource, hbad, hslide, Bool.true_eq_false, ne_eq, not_true,
    false_and, or_self, if_false]
  cases r <;> rfl

/-! ### SESSION_CLOSE (R159) -/

/-- Closing an OPEN or LOST slot of the partition makes it FREE, and its lost-list entries go. -/
theorem sessionClose_frees (s : State) (c : Cmd) (x : Sess) (h : Begins s c 0x0303) (hslot : (begun s c).ses (pktSession c.pkt) = x)
    (hstate : x.state = 1 ∨ x.state = 2) (hpart : x.part.toNat = pktPart c.pkt) :
    exec (.sessionClose c.id) s = .next (settle (dropLost (setSes (begun s c) (pktSession c.pkt) { x with state := 0 })
      fun w => lostKind w == 1 && lostNum w == pktSession c.pkt) c.id 0 0) := by
  have hheld : (sessOpen x || sessLost x) = true := by
    rw [sessOpen, sessLost, Bool.or_eq_true, beq_iff_eq, beq_iff_eq]
    exact hstate
  simp only [exec_sessionClose, execSessionClose, beginPart_begins s c _ _ h, Cmd.beganAt_pkt, hslot, hheld, hpart,
    beq_self_eq_true, Bool.and_self, if_true]

end Sys2Proof.Machine

/-- Settles O42. A command that begins acts on `begun s c` (`beginPart_begins`); each clause is then one branch of `openSession`,
`moveAppend` (`moveAppend_appends`) or SESSION_CLOSE. The slot is OPEN when the record goes out (`reeveCommandDone_opens`). That a closed
slot keeps its other fields is log entry 27. -/
theorem sessionsServed : Obligations.SessionsServed := by
  unfold Obligations.SessionsServed
  intro s c u k i x
  refine ⟨fun hb => ?_, fun y hc hstage hstatus hdone hpost hquiet hpair hclean hfault hbusy => ?_, fun hb => ?_,
    fun hb hstate hpart => ?_⟩
  · rw [sessionOpen_begins s c hb]
    refine ⟨fun htaken => ?_, fun o hfree hfits hsome => ?_, fun hfree hfits hnone => ?_⟩
    · exact congrArg Host.Outcome.next (openSession_taken u (c.beganAt s.now) htaken)
    · exact congrArg Host.Outcome.next (openSession_allocates u (c.beganAt s.now) o hfree hfits hsome)
    · exact congrArg Host.Outcome.next (openSession_full u (c.beganAt s.now) hfree hfits hnone)
  · exact reeveCommandDone_opens s c i y hc hstage hstatus hdone hpost hquiet hpair hclean hfault hbusy
  · rw [sessionAppend_begins s c hb]
    refine ⟨fun hno => congrArg Host.Outcome.next (moveAppend_noSlot u (c.beganAt s.now) hno), fun hopen hpart hdata => ?_⟩
    intro src a l0 hplain hspace hrange hbytes r
    have happends : Appends u (c.beganAt s.now) (u.ses i) := ⟨rfl, hopen, hpart, hplain, hrange⟩
    refine ⟨fun hr => ?_, fun bs hr => ?_⟩
    · have hsource := source_waits u r.2 (c.beganAt s.now) k src _ hdata hbytes hspace (Prod.ext hr rfl)
      exact congrArg Host.Outcome.next (moveAppend_appends u _ _ _ none happends hsource)
    · have hsource := source_comes u r.2 (c.beganAt s.now) k src _ bs hdata hbytes hspace (Prod.ext hr rfl)
      exact congrArg Host.Outcome.next (moveAppend_appends u _ _ _ (some bs) happends hsource)
  · exact sessionClose_frees s c (u.ses i) hb rfl hstate hpart
end

section
/-! Atomics (R202, R206, R207): the results on integer elements, and an element that the square cache applies. -/

open Sys2Proof Sys2Proof.Machine

namespace Sys2Proof.Machine

/-! ### Results on integer elements (R206) -/

theorem bitsInt_toNat {w : Nat} (b : BitVec w) : bitsInt w b.toNat = b.toInt := by
  rw [BitVec.toInt_eq_msb_cond, BitVec.msb_eq_getLsbD_last, bitsInt, BitVec.testBit_toNat, Nat.mod_eq_of_lt b.isLt]

/-- What an atomic writes for an integer element of `w` bits (R206). -/
def intResult {w : Nat} (op : AtomOp) (a b n : BitVec w) : BitVec w :=
  match op with
  | .cas => if a = b then n else a
  | .swap => b
  | .and => a &&& b
  | .or => a ||| b
  | .xor => a ^^^ b
  | .add => a + b
  | .min => if b.toInt < a.toInt then b else a
  | .max => if a.toInt < b.toInt then b else a

/-- The low bits of a word that an element fills are the element. -/
theorem toNat_setWidth_mod {w : Nat} (h : w ≤ 64) (a : BitVec w) : (a.setWidth 64).toNat % 2 ^ w = a.toNat := by
  rw [BitVec.toNat_setWidth_of_le h, Nat.mod_eq_of_lt a.isLt]

/-- Atomics on integer elements that fill `w` bits of their words are those on `w`-bit words. -/
theorem atomResult_int {w : Nat} (op : AtomOp) (ty : AtomTy) (hfmt : atomFmt ty = none) (hw : 8 * atomSize ty = w) (h : w ≤ 64)
    (a b n : BitVec w) :
    atomResult op ty (a.setWidth 64) (b.setWidth 64) (n.setWidth 64) = (intResult op a b n).setWidth 64 := by
  rw [← BitVec.ofNat_toNat 64 (intResult op a b n)]
  simp only [atomResult, hfmt, hw, toNat_setWidth_mod h, bitsInt_toNat]
  congr 1
  cases op with
  | cas => simp only [intResult, BitVec.toNat_inj, apply_ite BitVec.toNat]
  | min => simp only [intResult, apply_ite BitVec.toNat]
  | max => simp only [intResult, apply_ite BitVec.toNat]
  | add => exact (BitVec.toNat_add a b).symm
  | swap => rfl
  | and => exact (BitVec.toNat_and a b).symm
  | or => exact (BitVec.toNat_or a b).symm
  | xor => exact (BitVec.toNat_xor a b).symm

theorem atomResult_int32 (op : AtomOp) (a b n : BitVec 32) :
    (atomResult op .int32 (a.zeroExtend 64) (b.zeroExtend 64) (n.zeroExtend 64)).truncate 32 = intResult op a b n := by
  have h := atomResult_int (w := 32) op .int32 rfl rfl (by decide) a b n
  refine (congrArg (BitVec.setWidth 32) h).trans ?_
  rw [BitVec.setWidth_setWidth_of_le _ (by decide), BitVec.setWidth_eq]

theorem atomResult_int64 (op : AtomOp) (a b n : BitVec 64) : atomResult op .int64 a b n = intResult op a b n := by
  have h := atomResult_int (w := 64) op .int64 rfl rfl (Nat.le_refl 64) a b n
  simpa only [BitVec.setWidth_eq] using h

/-! ### Lines that the square cache holds (R204, R205, R207) -/

theorem account_nothing (s : State) (h : s.found = []) : account s = s := by
  simp only [account, accountN, h]

theorem any_of_find?_eq_some {α : Type} {t : α → Bool} {l : List α} {a : α} (h : l.find? t = some a) : l.any t = true :=
  List.any_eq_true.2 ⟨a, List.mem_of_find?_eq_some h, List.find?_some h⟩

/-- A line that the square cache holds is not brought again. -/
theorem takeSq_held (s : State) (p idx line part : Nat) (l : SqLine)
    (h : s.sqc.find? (fun y => y.p == p && y.line == line) = some l) : takeSq s p idx line part = bump s (ctrSquare 6) 1 :=
  if_pos (any_of_find?_eq_some h)

/-- Words of a line that are sound leave nothing to find. -/
theorem scanSq_sound (s : State) (p line w n : Nat) (l : SqLine)
    (h : s.sqc.find? (fun y => y.p == p && y.line == line) = some l) (hsound : l.errs w n = []) : scanSq s p line w n = s := by
  simp only [scanSq, h, hsound, List.isEmpty_nil, if_true]

/-- An element on a line that the square cache holds, in a sector that is not poisoned and a word without error: the line's bytes take the
result, and the line is the one used last. -/
theorem applySq_held (s : State) (w : Where) (part : Nat) (op : AtomOp) (ty : AtomTy) (b n : BitVec 64) (l : SqLine)
    (hheld : s.sqc.find? (fun y => y.p == w.p && y.line == w.off / 128) = some l)
    (hpoison : l.poison.getLsbD (w.off % 128 / 32) = false) (hsound : l.errs (w.off % 128 / 8) 1 = []) (hfound : s.found = []) :
    let old := BitVec.ofNat 64 (leNat (tgetList zero8 l.bytes (w.off % 128) (atomSize ty)))
    applySq s w part op ty b n = (some old, useSq (bump s (ctrSquare 6) 1) w.p (w.off / 128) fun y =>
      { y with bytes := tsetList zero8 y.bytes (w.off % 128) (leBytes (atomSize ty) (atomResult op ty old b n).toNat) }) := by
  have hscan : account (scanSq (bump s (ctrSquare 6) 1) w.p (w.off / 128) (w.off % 128 / 8) 1) = bump s (ctrSquare 6) 1 := by
    rw [scanSq_sound (bump s (ctrSquare 6) 1) _ _ _ _ l hheld hsound]
    exact account_nothing _ hfound
  simp only [applySq, takeSq_held s _ w.idx _ part l hheld, hscan, bump_sqc, hheld, hpoison, Bool.false_eq_true, if_false]

/-- An atomic on a line that the square cache holds, for which no access to the line waits, does not wait. -/
theorem atomQueue_held (s : State) (w : Where) (l : SqLine)
    (hheld : s.sqc.find? (fun y => y.p == w.p && y.line == w.off / 128) = some l) (hline : lineWaits s w.p w.off = none)
    (hwin : windowHeld s w.p w.off = false) : atomQueue s w .first = none := by
  have hread : readQueue s w.p w.off = none := (if_pos (any_of_find?_eq_some hheld)).trans hline
  have hfirst : (AtomStep.first == AtomStep.bank) = false := rfl
  simp only [atomQueue, hfirst, hread, hwin, Bool.false_eq_true, if_false]

theorem addrCause_none_iff (s : State) (res : Nat → Except Nat Where) (a : Nat) :
    addrCause s res a = none ↔ ∃ w x, res a = .ok w ∧ locate s w.p w.idx w.off = .ok x := by
  unfold addrCause
  constructor
  · intro h
    split at h
    · cases h
    · rename_i w hw
      split at h
      · cases h
      · rename_i x hx
        exact ⟨w, x, hw, hx⟩
  · rintro ⟨w, x, hw, hx⟩
    simp only [hw, hx]

/-- An element of an integer atomic that need not wait: it applies, and is counted. -/
theorem atomElement_applies (s t : State) (c : CtxId) (id addr : Nat) (op : AtomOp) (ty : AtomTy) (b n old : BitVec 64) (seq : Nat)
    (w : Where) (hint : isFloatAdd op ty = false) (hrun : (s.ctx c).run ≠ .stopped) (hw : partAddr s (partAt s c.p) addr = .ok w)
    (hplace : addrCause s (partAddr s (partAt s c.p)) addr = none) (htold : biTracked s w.p w.off .square = false)
    (hqueue : atomQueue s w .first = none) (happly : applySq s w (partAt s c.p) op ty b n = (some old, t)) :
    atomElement s c id addr op ty b n none seq .first = bump t (ctrSquare 8) 1 := by
  obtain ⟨w', x, hw', hx⟩ := (addrCause_none_iff ..).1 hplace
  obtain rfl : w = w' := Except.ok.inj (hw.symm.trans hw')
  simp only [atomElement, hrun, hw, hx, htold, hqueue, happly, hint, Bool.and_false, Bool.false_and, Bool.false_eq_true, if_false]

/-- SQUARE_CACHE_ATOMIC of an element that the partition does not stage sends it to the square cache (R207). -/
theorem squareCacheAtomic_sends (s : State) (c : CtxId) (addr : Nat) (op : AtomOp) (ty : AtomTy) (b n : BitVec 64)
    (hint : isFloatAdd op ty = false) : exec (.squareCacheAtomic c addr op ty b n) s =
      .next (atomElement s c noEngine addr op ty b n none (s.ctx c).seq .first) := by
  simp only [exec_squareCacheAtomic, execSquareCacheAtomic, hint, Bool.false_and, Bool.false_eq_true, if_false]

end Sys2Proof.Machine

/-- Settles O14. The integer results are those of `intResult` at both widths (`atomResult_int`); an element on a line that the square cache
holds does not wait (`atomQueue_held`) and applies there (`applySq_held`). -/
theorem atomicsApply : Obligations.AtomicsApply := by
  unfold Obligations.AtomicsApply
  refine ⟨⟨fun a b n => ?_, fun a b n => ?_⟩, fun s c addr op ty b n w l hint hrun hw hplace htold hline hwin hheld hpoison hsound hfound => ?_⟩
  · simp only [atomResult_int32, intResult, and_self]
  · simp only [atomResult_int64, intResult, and_self]
  · have happly := applySq_held s w (partAt s c.p) op ty b n l hheld hpoison hsound hfound
    have helem := atomElement_applies s _ c noEngine addr op ty b n _ (s.ctx c).seq w hint hrun hw hplace htold
      (atomQueue_held s w l hheld hline hwin) happly
    have hexec := squareCacheAtomic_sends s c addr op ty b n hint
    rw [helem] at hexec
    have hne : ctrSquare 8 ≠ ctrSquare 6 := by decide
    refine ⟨_, hexec, ?_, rfl, rfl, (bump_ctr _ _ _ _).trans ?_⟩
    · simp only [bump, useSq]
    · rw [if_pos rfl]
      exact congrArg (· + 1) (bump_ctr_ne s _ 1 _ hne)
end

section
/-! Floating adds that a partition defers: their staging (R208, R209), and the ends of epochs (R208). -/

open Sys2Proof Sys2Proof.Machine

namespace Sys2Proof.Machine

/-! ### Staging (R208, R209) -/

@[simp] theorem takeSeq_ctx (s : State) (c : CtxId) (n : Nat) :
    (takeSeq s c n).ctx c = { s.ctx c with seq := (s.ctx c).seq + n } := by rw [takeSeq, modCtx_eq, setCtx_ctx]

/-- DEFERRED_CONTRIBUTION of an aligned floating ADD, to a place that is there, of a request with RELAXED = 0: it takes its number and is to
be staged. -/
theorem deferredContribution_stages (s : State) (c : CtxId) (addr : Nat) (ty : AtomTy) (v : BitVec 64)
    (hty : ty = .fp32 ∨ ty = .fp16 ∨ ty = .bf16) (hrelaxed : relaxedAt s c = false)
    (hplace : addrCause s (partAddr s (partAt s c.p)) addr = none) (halign : addr % atomSize ty = 0) :
    exec (.deferredContribution c addr ty v) s = .next (stageOne (takeSeq s c 1) c noEngine addr ty v (s.ctx c).seq) := by
  have hfmt : (atomFmt ty).isSome = true := by rcases hty with rfl | rfl | rfl <;> rfl
  have hvia : addrCause s (viaPart (partAt s c.p) s) addr = none := hplace
  have hcause : ((none : Option Nat) != some causeAddr) = true := rfl
  simp only [exec_deferredContribution, execDeferredContribution, hfmt, hrelaxed, hvia, halign, hcause, Bool.not_false, beq_self_eq_true,
    Bool.and_self, if_true]

/-- A contribution that finds room in its partition's share, and its place, is staged and counted. -/
theorem stageOne_room (s : State) (c : CtxId) (id addr : Nat) (ty : AtomTy) (v : BitVec 64) (seq : Nat)
    (hrun : (s.ctx c).run ≠ .stopped) (hplace : addrCause s (viaPart (partAt s c.p) s) addr = none)
    (hroom : stagedCount s (partAt s c.p) < stagingShare s) :
    stageOne s c id addr ty v seq = bump (modSlot s (partAt s c.p) c.e fun y =>
      { y with staged := y.staged ++ [⟨partAt s c.p, c.e, (s.ctx c).lc, seq, addr, ty, v⟩] }) (ctrSquare 9) 1 := by
  have hnot : decide (stagingShare s ≤ stagedCount s (partAt s c.p)) = false := decide_eq_false (Nat.not_le_of_lt hroom)
  have hcause : lowest (failIf false 0x17 ++ (none : Option Nat).toList) = none := rfl
  simp only [stageOne, hrun, hplace, hnot, hcause, if_false]

/-- With the share full, the croft stops with cause 0x17. -/
theorem stageOne_full (s : State) (c : CtxId) (id addr : Nat) (ty : AtomTy) (v : BitVec 64) (seq : Nat)
    (hrun : (s.ctx c).run ≠ .stopped) (hplace : addrCause s (viaPart (partAt s c.p) s) addr = none)
    (hfull : stagingShare s ≤ stagedCount s (partAt s c.p)) :
    stageOne s c id addr ty v seq = failAt s c 0x17 (engIdx s c id) := by
  have hcause : lowest (failIf true 0x17 ++ (none : Option Nat).toList) = some 0x17 := rfl
  simp only [stageOne, hrun, hplace, decide_eq_true hfull, hcause, if_false]

/-! ### The end of an epoch (R208) -/

/-- Contributions in the order in which they apply: by logical croft, then sequence number. -/
def applyOrder (l : List Staged) : List Staged := sortBy (·.lc) (sortBy (·.seq) l)

theorem applyOrder_perm (l : List Staged) : (applyOrder l).Perm l := (sortBy_perm _ _).trans (sortBy_perm _ l)

/-- The sort by logical croft keeps the order that the sort by number gave. -/
theorem applyOrder_pairwise (l : List Staged) :
    (applyOrder l).Pairwise fun a b => a.lc < b.lc ∨ (a.lc = b.lc ∧ a.seq ≤ b.seq) := by
  have hseq : (sortBy (fun a : Staged => a.seq) l).Pairwise fun a b => a.seq ≤ b.seq :=
    (sortBy_stable _ (fun _ _ => True) l (List.pairwise_of_forall fun _ _ => trivial)).imp fun h =>
      h.elim Nat.le_of_lt fun h => Nat.le_of_eq h.1
  exact sortBy_stable _ _ _ hseq

theorem epochEnd_sends (s : State) (k e : Nat) : epochEnd s k e =
    (applyOrder (s.slot k e).staged).foldl (fun t x =>
        sendStaged t x (lowestAt (s.slot k e).staged x.addr) (((s.slot k e).req.map (·.cid)).getD 0))
      (modSlot s k e fun x => { x with staged := [], ended := x.ended ++ (s.slot k e).staged, seen := [] }) := by
  simp only [epochEnd, modSlot_slot, applyOrder]

/-! ### The entries of ended epochs (R209) -/

theorem Part.setSlot_slot_ne (x : Part) (e e' : Nat) (y : Slot) (h : e' = 0 ↔ e ≠ 0) : (x.setSlot e y).slot e' = x.slot e' := by
  unfold Part.setSlot Part.slot
  by_cases he : e = 0
  · have he' : e' ≠ 0 := fun h0 => h.1 h0 he
    simp only [he, he', if_true, if_false]
  · simp only [he, h.2 he, if_true, if_false]

/-- A change to a slot leaves the other slot of its partition, and the other partitions. -/
theorem modSlot_slot_ne (s : State) (k e k' e' : Nat) (f : Slot → Slot) (h : k' ≠ k ∨ (e' = 0 ↔ e ≠ 0)) :
    (modSlot s k e f).slot k' e' = s.slot k' e' := by
  rw [State.slot, modSlot, modPart]
  by_cases hk : k' = k
  · rw [hk, setPart_part_self, Part.setSlot_slot_ne _ _ _ _ (h.resolve_left (not_not_intro hk)), State.slot]
  · rw [setPart_part_ne _ _ _ _ hk, State.slot]

/-- EPOCH_APPLY_DONE once no contribution of the slot waits frees the entries of its ended epochs. -/
theorem epochApplyDone_frees (s : State) (part : Fin 8) (e : Fin 2) (h : owed s (.epoch part e) = false) :
    exec (.epochApplyDone part e) s = .next (modSlot s part e fun x => { x with ended := [] }) := by
  simp only [exec_epochApplyDone, execEpochApplyDone, h, Bool.false_eq_true, if_false]

end Sys2Proof.Machine

/-- Settles O15. A contribution takes its number and is staged or stops its croft (`stageOne_room`, `stageOne_full`); an epoch sends its
contributions in the order of a stable sort by croft of a sort by number (`applyOrder_pairwise`). -/
theorem addsStaged : Obligations.AddsStaged := by
  unfold Obligations.AddsStaged
  refine ⟨fun s c addr ty v hty hrelaxed hplace halign hrun hroom => ?_, fun s c addr ty v hty hrelaxed hplace halign hrun hfull => ?_,
    fun s k e => ⟨_, epochEnd_sends s k e, applyOrder_perm _, applyOrder_pairwise _⟩,
    fun s part e h => ⟨_, epochApplyDone_frees s part e h, modSlot_slot .., rfl, fun k e' => modSlot_slot_ne s part e k e' _⟩⟩
  · have hrun' : ((takeSeq s c 1).ctx c).run ≠ .stopped := by rwa [takeSeq_ctx]
    rw [deferredContribution_stages s c addr ty v hty hrelaxed hplace halign, stageOne_room _ c _ _ _ _ _ hrun' hplace hroom, takeSeq_ctx]
    rfl
  · have hrun' : ((takeSeq s c 1).ctx c).run ≠ .stopped := by rwa [takeSeq_ctx]
    have hexec := deferredContribution_stages s c addr ty v hty hrelaxed hplace halign
    exact ⟨_, _, hexec, stageOne_full _ c _ _ _ _ _ hrun' hplace hfull⟩
end

section
/-! Where accesses go and the words the banks store (R190, R219, R356): what rests on the placement alone, and what a store writes. -/

open Sys2Proof Sys2Proof.Machine

namespace Sys2Proof.Machine

/-! ### Machines in which accesses go and wait alike -/

/-- A sub-channel apart from what it notes as sent. -/
def SubCh.unsent (y : SubCh) : SubCh := { y with sent := [] }

/-- Slices that place and queue accesses alike: they differ in nothing that `locate` or `mustQueue` asks for. -/
structure Slice.Alike (x y : Slice) : Prop where
  map : y.map = x.map
  spares : y.spares = x.spares
  glUnits : y.glUnits = x.glUnits
  sub : ∀ u, (y.sub u).unsent = (x.sub u).unsent

theorem Slice.Alike.refl (x : Slice) : x.Alike x := ⟨rfl, rfl, rfl, fun _ => rfl⟩

theorem Slice.Alike.trans {x y z : Slice} (hxy : x.Alike y) (hyz : y.Alike z) : x.Alike z :=
  ⟨hyz.map.trans hxy.map, hyz.spares.trans hxy.spares, hyz.glUnits.trans hxy.glUnits, fun u => (hyz.sub u).trans (hxy.sub u)⟩

/-- Machines in which accesses go to the same places and wait alike. -/
structure SameAccess (s t : State) : Prop where
  ptab : t.ptab = s.ptab
  shards : t.shards = s.shards
  floor : t.floor = s.floor
  slice : ∀ p, (s.slice p).Alike (t.slice p)

theorem SameAccess.refl (s : State) : SameAccess s s := ⟨rfl, rfl, rfl, fun _ => .refl _⟩

theorem SameAccess.trans {s t u : State} (hst : SameAccess s t) (htu : SameAccess t u) : SameAccess s u :=
  ⟨htu.ptab.trans hst.ptab, htu.shards.trans hst.shards, htu.floor.trans hst.floor, fun p => (hst.slice p).trans (htu.slice p)⟩

theorem SameAccess.modSlice (s : State) (q : Nat) (f : Slice → Slice) (hf : (s.slice q).Alike (f (s.slice q))) :
    SameAccess s (modSlice s q f) := by
  refine ⟨rfl, rfl, rfl, fun p => ?_⟩
  rw [Machine.modSlice, setSlice_slice]
  split
  · rename_i hp
    rw [hp]
    exact hf
  · exact .refl _

theorem OnlyTime.sameAccess {s t : State} (h : OnlyTime s t) : SameAccess s t :=
  ⟨by rw [h], by rw [h], by rw [h], fun p => by rw [h.slice]; exact .refl _⟩

theorem notBefore_onlyTime (s : State) (n : Nat) : OnlyTime s (notBefore s n) := by
  rw [OnlyTime, notBefore_eq]

section
variable {s t : State} (h : SameAccess s t)
include h

theorem SameAccess.queue (p u : Nat) : ((t.slice p).sub u).queue = ((s.slice p).sub u).queue := by
  have hsub := congrArg SubCh.queue ((h.slice p).sub u)
  exact hsub

theorem SameAccess.stopped (p u : Nat) : ((t.slice p).sub u).stopped = ((s.slice p).sub u).stopped := by
  have hsub := congrArg SubCh.stopped ((h.slice p).sub u)
  exact hsub

theorem SameAccess.awaitsResend (p u q off : Nat) : awaitsResend ((t.slice p).sub u) q off = awaitsResend ((s.slice p).sub u) q off := by
  have hsub := congrArg (Machine.awaitsResend · q off) ((h.slice p).sub u)
  exact hsub

theorem SameAccess.isRetired (p u : Nat) : isRetired t p u = isRetired s p u := by
  have hsub := congrArg (fun y : SubCh => y.width == .retired) ((h.slice p).sub u)
  exact hsub

theorem SameAccess.openRow (q k : Nat) : openRow t q k = openRow s q k := by rw [Machine.openRow, Machine.openRow, (h.slice q).glUnits]

theorem SameAccess.sliceIndex (p : Nat) : sliceIndex t p = sliceIndex s p := sliceIndex_congr h.ptab h.floor p

theorem SameAccess.routeRow (p k row : Nat) : routeRow t p k row = routeRow s p k row := by
  simp only [Machine.routeRow, h.floor, (h.slice _).map]

theorem SameAccess.tableSlice (p : Nat) : tableSlice t p = tableSlice s p := by rw [Machine.tableSlice, Machine.tableSlice, h.floor]

theorem SameAccess.windowAt (p a : Nat) : windowAt t p a = windowAt s p a := by
  simp only [Machine.windowAt, shardsOf, h.tableSlice, h.shards]

theorem SameAccess.locate (p idx off : Nat) : locate t p idx off = locate s p idx off := by
  simp only [Machine.locate, (h.slice _).map, h.isRetired, h.routeRow, h.windowAt, h.tableSlice]

theorem SameAccess.placeOf (p off : Nat) : placeOf t p off = placeOf s p off := by
  simp only [Machine.placeOf, h.sliceIndex, h.locate, h.routeRow]

theorem SameAccess.pair (e : QEntry) : e.pair t = e.pair s := by simp only [QEntry.pair, QEntry.bank, h.placeOf]

theorem SameAccess.lineWaits (p off : Nat) : lineWaits t p off = lineWaits s p off := by
  simp only [Machine.lineWaits, h.placeOf, h.queue]

theorem SameAccess.mustQueue (p off : Nat) : mustQueue t p off = mustQueue s p off := by
  simp only [Machine.mustQueue, h.lineWaits, h.placeOf, h.stopped, h.queue, h.openRow, h.awaitsResend, h.pair]

theorem SameAccess.windowHeld (p off : Nat) : windowHeld t p off = windowHeld s p off := by
  simp only [Machine.windowHeld, h.floor, (h.slice _).map, h.windowAt, h.sliceIndex]

theorem SameAccess.writeQueue (p off : Nat) : writeQueue t p off = writeQueue s p off := by
  simp only [Machine.writeQueue, h.mustQueue, h.windowHeld, h.placeOf]

theorem SameAccess.bankKey (q : Nat) (l : Loc) : bankKey t q l = bankKey s q l := by
  simp only [Machine.bankKey, physRow, (h.slice _).spares]

theorem SameAccess.rowServed (p k row : Nat) : rowServed t p k row = rowServed s p k row := by
  rw [Machine.rowServed, Machine.rowServed, (h.slice p).spares]

theorem SameAccess.covers (x : Undef) (cw : Nat) : x.covers t cw = x.covers s cw := by
  simp only [Undef.covers, h.rowServed]

/-- The words of banks that are alike are alike. -/
theorem SameAccess.getWord (hmem : t.mem = s.mem) (hundef : t.undef = s.undef) (q : Nat) (l : Loc) : getWord t q l = getWord s q l := by
  simp only [Machine.getWord, wordAt, undefAt, h.covers, h.bankKey, h.routeRow, hmem, hundef]

end

/-! ### What counts a granule leaves alone -/

/-- From `s` to `t` nothing changes but slices and counters, and in the slices nothing that an access, or a buffered write, rests on. -/
structure SameBanks (s t : State) : Prop where
  frame : { t with slices := s.slices, ctr := s.ctr } = s
  slice : ∀ p, (s.slice p).Alike (t.slice p)
  wcb : ∀ p, (t.slice p).wcb = (s.slice p).wcb
  mgb : ∀ p, (t.slice p).mgb = (s.slice p).mgb

/-- From `s` to `t` banks change too. -/
structure BankWork (s t : State) : Prop where
  frame : { t with slices := s.slices, ctr := s.ctr, mem := s.mem, undef := s.undef } = s
  slice : ∀ p, (s.slice p).Alike (t.slice p)
  wcb : ∀ p, (t.slice p).wcb = (s.slice p).wcb
  mgb : ∀ p, (t.slice p).mgb = (s.slice p).mgb

theorem SameBanks.refl (s : State) : SameBanks s s := ⟨rfl, fun _ => .refl _, fun _ => rfl, fun _ => rfl⟩

theorem SameBanks.trans {s t u : State} (hst : SameBanks s t) (htu : SameBanks t u) : SameBanks s u := by
  refine ⟨?_, fun p => (hst.slice p).trans (htu.slice p), fun p => (htu.wcb p).trans (hst.wcb p), fun p => (htu.mgb p).trans (hst.mgb p)⟩
  have hframe := hst.frame
  rw [← htu.frame] at hframe
  exact hframe

theorem BankWork.refl (s : State) : BankWork s s := ⟨rfl, fun _ => .refl _, fun _ => rfl, fun _ => rfl⟩

theorem BankWork.trans {s t u : State} (hst : BankWork s t) (htu : BankWork t u) : BankWork s u := by
  refine ⟨?_, fun p => (hst.slice p).trans (htu.slice p), fun p => (htu.wcb p).trans (hst.wcb p), fun p => (htu.mgb p).trans (hst.mgb p)⟩
  have hframe := hst.frame
  rw [← htu.frame] at hframe
  exact hframe

theorem SameBanks.mem {s t : State} (h : SameBanks s t) : t.mem = s.mem := by rw [← h.frame]
theorem SameBanks.undef {s t : State} (h : SameBanks s t) : t.undef = s.undef := by rw [← h.frame]

theorem SameBanks.work {s t : State} (h : SameBanks s t) : BankWork s t := by
  refine ⟨?_, h.slice, h.wcb, h.mgb⟩
  have hframe := h.frame
  rw [← h.mem, ← h.undef]
  exact hframe

section
variable {s t : State} (h : BankWork s t)
include h

theorem BankWork.now : t.now = s.now := by rw [← h.frame]
theorem BankWork.ls : t.ls = s.ls := by rw [← h.frame]
theorem BankWork.crofts : t.crofts = s.crofts := by rw [← h.frame]
theorem BankWork.sqc : t.sqc = s.sqc := by rw [← h.frame]
theorem BankWork.found : t.found = s.found := by rw [← h.frame]

theorem BankWork.access : SameAccess s t := ⟨by rw [← h.frame], by rw [← h.frame], by rw [← h.frame], h.slice⟩

end

theorem SameBanks.getWord {s t : State} (h : SameBanks s t) (q : Nat) (l : Loc) : getWord t q l = getWord s q l :=
  h.work.access.getWord h.mem h.undef q l

theorem SameBanks.bump (s : State) (k n : Nat) : SameBanks s (bump s k n) := ⟨rfl, fun _ => .refl _, fun _ => rfl, fun _ => rfl⟩

theorem SameBanks.modSlice (s : State) (q : Nat) (f : Slice → Slice) (hf : ∀ x : Slice, x.Alike (f x))
    (hwcb : ∀ x, (f x).wcb = x.wcb) (hmgb : ∀ x, (f x).mgb = x.mgb) : SameBanks s (modSlice s q f) := by
  refine ⟨rfl, (SameAccess.modSlice s q f (hf _)).slice, fun p => ?_, fun p => ?_⟩ <;> rw [Machine.modSlice, setSlice_slice]
  · split
    · rename_i hp
      rw [hwcb, hp]
    · rfl
  · split
    · rename_i hp
      rw [hmgb, hp]
    · rfl

/-- What reads no sub-channel is the same when one changes. -/
theorem Slice.setSub_keeps {α : Type} (x : Slice) (f : Slice → α) (u : Nat) (y : SubCh)
    (h : ∀ a b c d, f { x with u0 := a, u1 := b, u2 := c, u3 := d } = f x) : f (x.setSub u y) = f x :=
  match u with
  | 0 => h y x.u1 x.u2 x.u3
  | 1 => h x.u0 y x.u2 x.u3
  | 2 => h x.u0 x.u1 y x.u3
  | _ + 3 => h x.u0 x.u1 x.u2 y

theorem Slice.setSub_sub (x : Slice) (u : Nat) (y : SubCh) : (x.setSub u y).sub u = y :=
  match u with
  | 0 | 1 | 2 | _ + 3 => rfl

theorem Slice.sub_unsent {x y : Slice} (h0 : y.u0.unsent = x.u0.unsent) (h1 : y.u1.unsent = x.u1.unsent)
    (h2 : y.u2.unsent = x.u2.unsent) (h3 : y.u3.unsent = x.u3.unsent) (v : Nat) : (y.sub v).unsent = (x.sub v).unsent :=
  match v with
  | 0 => h0
  | 1 => h1
  | 2 => h2
  | _ + 3 => h3

/-- A change of what a sub-channel notes as sent. -/
theorem Slice.alike_setSub_sent (x : Slice) (u : Nat) (m : List (Nat × Nat × Nat)) :
    x.Alike (x.setSub u { x.sub u with sent := m }) := by
  refine ⟨x.setSub_keeps _ _ _ fun _ _ _ _ => rfl, x.setSub_keeps _ _ _ fun _ _ _ _ => rfl, x.setSub_keeps _ _ _ fun _ _ _ _ => rfl,
    ?_⟩
  match u with
  | 0 | 1 | 2 | _ + 3 => exact Slice.sub_unsent rfl rfl rfl rfl

theorem Slice.setSub_wcb (x : Slice) (u : Nat) (y : SubCh) : (x.setSub u y).wcb = x.wcb :=
  x.setSub_keeps (·.wcb) u y fun _ _ _ _ => rfl

theorem Slice.setSub_mgb (x : Slice) (u : Nat) (y : SubCh) : (x.setSub u y).mgb = x.mgb :=
  x.setSub_keeps (·.mgb) u y fun _ _ _ _ => rfl

theorem noteSent_sameBanks (s : State) (q u n w : Nat) : SameBanks s (noteSent s q u n w) :=
  .modSlice s q _ (fun x => x.alike_setSub_sent u _) (fun x => x.setSub_wcb ..) fun x => x.setSub_mgb ..

theorem SameBanks.ite {s t u : State} (c : Prop) [Decidable c] (ht : SameBanks s t) (hu : SameBanks s u) : SameBanks s (if c then t else u) := by
  split
  · exact ht
  · exact hu

theorem refreshBank_sameBanks (s : State) (q k n late : Nat) : SameBanks s (refreshBank s q k n late) := by
  unfold refreshBank
  refine .trans ?_ (.modSlice _ q _ (fun _ => ⟨rfl, rfl, rfl, fun _ => rfl⟩) (fun _ => rfl) fun _ => rfl)
  refine .trans ?_ (noteSent_sameBanks ..)
  have hcount : SameBanks s (bump (bump s (ctrSlice q 30) n) (ctrSlice q 31) late) := (SameBanks.bump ..).trans (.bump ..)
  exact .ite _ (hcount.trans (.bump ..)) hcount

theorem refreshFirst_sameBanks (s : State) (q k : Nat) : SameBanks s (refreshFirst s q k) := .ite _ (refreshBank_sameBanks ..) (.refl s)

theorem countGran_sameBanks (s : State) (q k n : Nat) : SameBanks s (countGran s q k n) := by
  unfold countGran
  refine .trans ?_ (noteSent_sameBanks ..)
  refine .trans ?_ (.modSlice _ q _ (fun _ => ⟨rfl, rfl, rfl, fun _ => rfl⟩) (fun _ => rfl) fun _ => rfl)
  exact (refreshFirst_sameBanks ..).trans (.bump ..)

theorem countAt_sameBanks (s : State) (p idx off n : Nat) : SameBanks s (countAt s p idx off n) := by
  unfold countAt
  split
  · exact .refl s
  · exact countGran_sameBanks ..

theorem countReread_sameBanks (s : State) (q u n : Nat) : SameBanks s (countReread s q u n) :=
  .ite _ (.refl s) ((SameBanks.bump ..).trans (noteSent_sameBanks ..))

theorem unnote_sameBanks (s : State) (q : Nat) (l : Loc) : SameBanks s (unnote s q l) :=
  .ite _ (.modSlice _ q _ (fun _ => ⟨rfl, rfl, rfl, fun _ => rfl⟩) (fun _ => rfl) fun _ => rfl) (.refl s)

/-! ### A code word is stored (R356) -/

theorem putAt_work (s : State) (key : Nat) (c : BitVec 80) : BankWork s (putAt s key c) := ⟨rfl, fun _ => .refl _, fun _ => rfl, fun _ => rfl⟩

/-- The region of undefined contents once the code word `cw` has been written. -/
def Undef.wrote (s : State) (cw : Nat) (u : Undef) : Undef := if u.covers s cw then { u with written := tset zeroB u.written cw true } else u

theorem Undef.wrote_covers (s : State) (cw cw' : Nat) (u : Undef) : (u.wrote s cw).covers s cw' = u.covers s cw' := by
  unfold Undef.wrote
  split <;> rfl

theorem Undef.wrote_epoch (s : State) (cw : Nat) (u : Undef) : (u.wrote s cw).epoch = u.epoch := by
  unfold Undef.wrote
  split <;> rfl

theorem Undef.wrote_written_ne (s : State) (cw cw' : Nat) (u : Undef) (h : cw' ≠ cw) :
    tget zeroB (u.wrote s cw).written cw' = tget zeroB u.written cw' := by
  unfold Undef.wrote
  split
  · exact tget_tset_ne zeroB u.written cw cw' true h
  · rfl

theorem Undef.wrote_written (s : State) (cw : Nat) (u : Undef) (h : u.covers s cw = true) : tget zeroB (u.wrote s cw).written cw = true := by
  rw [Undef.wrote, if_pos h, tget_tset_self]

theorem undefAt_putAt (s : State) (key cw : Nat) (c : BitVec 80) : undefAt (putAt s key c) cw =
    ((s.undef.map (Undef.wrote s (key / 10))).find? fun u => u.covers s cw && !tget zeroB u.written cw).map
      fun u => Config.undefWord u.epoch cw := rfl

/-- A code word that has been written is no free value. -/
theorem undefAt_putAt_self (s : State) (key : Nat) (c : BitVec 80) : undefAt (putAt s key c) (key / 10) = none := by
  rw [undefAt_putAt, Option.map_eq_none_iff, List.find?_eq_none]
  intro u hu
  obtain ⟨v, -, rfl⟩ := List.mem_map.1 hu
  rw [Undef.wrote_covers]
  cases hc : v.covers s (key / 10) with
  | false => exact Bool.false_ne_true
  | true => simp [Undef.wrote_written s _ v hc]

theorem undefAt_putAt_ne (s : State) (key cw : Nat) (c : BitVec 80) (h : cw ≠ key / 10) : undefAt (putAt s key c) cw = undefAt s cw := by
  rw [undefAt_putAt, List.find?_map, Option.map_map, undefAt]
  simp only [Function.comp_def, Undef.wrote_covers, Undef.wrote_written_ne s _ _ _ h, Undef.wrote_epoch]

theorem tgetList_congr {α : Type} (d : Nat → α) (t u : Table α) (k n : Nat) (h : ∀ j, k ≤ j → j < k + n → tget d t j = tget d u j) :
    tgetList d t k n = tgetList d u k n := by
  induction n generalizing k with
  | zero => rfl
  | succ n ih =>
    rw [tgetList, tgetList, h k (Nat.le_refl k) (by omega), ih (k + 1) fun j hj hlt => h j (by omega) (by omega)]

/-- A code word reads as it was stored. -/
theorem wordAt_putAt_self (s : State) (key : Nat) (c : BitVec 80) : wordAt (putAt s key c) key = c := by
  have hbytes : tgetList memDefault (tsetList memDefault s.mem key (leBytes 10 c.toNat)) key 10 = leBytes 10 c.toNat := by
    have hget := tgetList_tsetList memDefault s.mem key 0 10 (leBytes 10 c.toNat) (by simp)
    rw [Nat.add_zero, List.drop_zero, List.take_of_length_le (by simp)] at hget
    exact hget
  have hmem : (putAt s key c).mem = tsetList memDefault s.mem key (leBytes 10 c.toNat) := rfl
  have hlt : c.toNat < 256 ^ 10 := c.isLt
  rw [wordAt, undefAt_putAt_self, hmem, hbytes, leNat_leBytes, Nat.mod_eq_of_lt hlt, BitVec.ofNat_toNat, BitVec.setWidth_eq]

theorem putAt_mem (s : State) (key : Nat) (c : BitVec 80) (j : Nat) (h : ¬ (key ≤ j ∧ j < key + 10)) :
    tget memDefault (putAt s key c).mem j = tget memDefault s.mem j := by
  have hout : ¬ (key ≤ j ∧ j - key < (leBytes 10 c.toNat).length) := by
    rw [leBytes_length]
    omega
  exact (tget_tsetList memDefault _ s.mem key j).trans (dif_neg hout)

/-- A code word leaves every other. -/
theorem wordAt_putAt_ne (s : State) (a b : Nat) (c : BitVec 80) (h : b ≠ a) : wordAt (putAt s (10 * a) c) (10 * b) = wordAt s (10 * b) := by
  have hbytes : tgetList memDefault (putAt s (10 * a) c).mem (10 * b) 10 = tgetList memDefault s.mem (10 * b) 10 :=
    tgetList_congr _ _ _ _ _ fun j hj hlt => putAt_mem s _ c j (by omega)
  rw [wordAt, undefAt_putAt_ne s _ _ c (by omega), hbytes, wordAt]

end Sys2Proof.Machine
end

section
/-! Code words of one stripe of the interleave (R190), and writes of a slice (R196 to R198). -/

open Sys2Proof Sys2Proof.Machine

namespace Sys2Proof.Machine

/-! ### Offsets in one stripe of 512 bytes (R190) -/

/-- The location of offset `off` in the stripe that holds location `l`. -/
def Loc.inStripe (l : Loc) (off : Nat) : Loc := { l with col := 16 * (l.col / 16) + off % 512 / 32, w := off % 32 / 8 }

theorem interleave_inStripe (m : SliceMap) (a b : Nat) (h : b / 512 = a / 512) : interleave m b = (interleave m a).inStripe b := by
  have hcol : (16 * (a / 512 / m.slots % 4) + a % 512 / 32) / 16 = a / 512 / m.slots % 4 := by omega
  simp only [interleave, Loc.inStripe, h, hcol]

/-- Every offset of a stripe of the interleaved region is found where one is. -/
theorem locate_inStripe (s : State) (p idx a b q : Nat) (l : Loc) (ha : locate s p idx a = .ok (q, l)) (hstripe : b / 512 = a / 512)
    (hhca : a < (s.slice p).map.hc) (hhcb : b < (s.slice p).map.hc) : q = p ∧ locate s p idx b = .ok (p, l.inStripe b) := by
  simp only [locate, hhca, if_true] at ha
  split at ha
  · cases ha
  · rename_i hlive
    obtain ⟨rfl, rfl⟩ : p = q ∧ interleave (s.slice p).map a = l := by simpa using ha
    refine ⟨rfl, ?_⟩
    simp only [locate, hhcb, if_true, interleave_inStripe _ a b hstripe]
    exact if_neg hlive

/-- The number of the code word in the banks at the start of the stripe of a location: `bankKey` counts bytes from it. -/
def stripeBase (s : State) (q : Nat) (l : Loc) : Nat := ((q * 96 + l.k) * 8208 + physRow s q l.k l.row) * 256 + 64 * (l.col / 16)

/-- The words of a stripe lie one after the other. -/
theorem bankKey_inStripe (s : State) (q : Nat) (l : Loc) (off : Nat) :
    bankKey s q (l.inStripe off) = 10 * (stripeBase s q l + off % 512 / 8) := by
  simp only [bankKey, wordKey, Loc.inStripe, stripeBase]
  omega

/-- `n` code words from offset `a` of slice `p` that lie in the stripe of location `l`. -/
structure InStripe (s : State) (p idx a n : Nat) (l : Loc) : Prop where
  aligned : a % 8 = 0
  fits : a % 512 + 8 * n ≤ 512
  place : ∀ i, i < n → locate s p idx (a + 8 * i) = .ok (p, l.inStripe (a + 8 * i))

theorem inStripe_of_locate (s : State) (p idx a n q : Nat) (l : Loc) (h : locate s p idx a = .ok (q, l)) (ha : a % 8 = 0)
    (hfits : a % 512 + 8 * n ≤ 512) (hn : 0 < n) (hhc : a + 8 * n ≤ (s.slice p).map.hc) : q = p ∧ InStripe s p idx a n l := by
  have hplace : ∀ i, i < n → q = p ∧ locate s p idx (a + 8 * i) = .ok (p, l.inStripe (a + 8 * i)) := fun i hi =>
    locate_inStripe s p idx a (a + 8 * i) q l h (by omega) (by omega) (by omega)
  exact ⟨(hplace 0 hn).1, ha, hfits, fun i hi => (hplace i hi).2⟩

theorem InStripe.congr {s t : State} (h : SameAccess s t) {p idx a n : Nat} {l : Loc} (hs : InStripe s p idx a n l) :
    InStripe t p idx a n l := ⟨hs.aligned, hs.fits, fun i hi => (h.locate ..).trans (hs.place i hi)⟩

/-- The number in the banks of code word `i` from offset `a` in the stripe of location `l`. -/
def stripeWord (s : State) (p a : Nat) (l : Loc) (i : Nat) : Nat := stripeBase s (routeRow s p l.k l.row) l + (a + 8 * i) % 512 / 8

theorem stripeWord_ne {s : State} {p idx a n : Nat} {l : Loc} (h : InStripe s p idx a n l) (i j : Nat) (hi : i < n) (hj : j < n)
    (hne : i ≠ j) : stripeWord s p a l i ≠ stripeWord s p a l j := by
  have := h.aligned
  have := h.fits
  unfold stripeWord
  omega

theorem getWord_inStripe (s : State) (p a : Nat) (l : Loc) (i : Nat) :
    getWord s p (l.inStripe (a + 8 * i)) = wordAt s (10 * stripeWord s p a l i) := by
  rw [getWord, bankKey_inStripe]
  rfl

theorem setWord_inStripe (s : State) (p a : Nat) (l : Loc) (i : Nat) (c : BitVec 80) :
    setWord s p (l.inStripe (a + 8 * i)) c = putAt s (10 * stripeWord s p a l i) c := by
  rw [setWord, bankKey_inStripe]
  rfl

theorem SameAccess.stripeWord {s t : State} (h : SameAccess s t) (p a : Nat) (l : Loc) (i : Nat) :
    stripeWord t p a l i = stripeWord s p a l i := by
  simp only [Machine.stripeWord, stripeBase, physRow, h.routeRow, (h.slice _).spares]

/-! ### Code words of a stripe are stored -/

theorem putWord_work (s : State) (p idx off : Nat) (d : BitVec 64) (poison : Bool) : BankWork s (putWord s p idx off d poison) := by
  unfold putWord
  split
  · exact .refl s
  · exact (unnote_sameBanks ..).work.trans (putAt_work ..)

theorem putWord_ok (s : State) (p idx off q : Nat) (l : Loc) (d : BitVec 64) (h : locate s p idx off = .ok (q, l)) :
    putWord s p idx off d false = setWord (unnote s (routeRow s q l.k l.row) l) q l (encodeWord l d) := by
  simp only [putWord, h, Bool.false_eq_true, if_false]

/-- A word that is stored is in the banks with its check bits. -/
theorem putWord_getWord (s : State) (p idx off q : Nat) (l : Loc) (d : BitVec 64) (h : locate s p idx off = .ok (q, l)) :
    getWord (putWord s p idx off d false) q l = encodeWord l d := by
  have hput := (putAt_work (unnote s (routeRow s q l.k l.row) l)
    (bankKey (unnote s (routeRow s q l.k l.row) l) (routeRow (unnote s (routeRow s q l.k l.row) l) q l.k l.row) l) (encodeWord l d)).access
  rw [putWord_ok s p idx off q l d h, setWord, getWord, hput.bankKey, hput.routeRow]
  exact wordAt_putAt_self ..

/-- Code words `is` from offset `a` are stored, word `i` from `g i`. -/
def putFrom (s : State) (p idx a : Nat) (g : Nat → BitVec 64) (is : List Nat) : State :=
  is.foldl (fun s i => putWord s p idx (a + 8 * i) (g i) false) s

theorem putFrom_cons (s : State) (p idx a : Nat) (g : Nat → BitVec 64) (i : Nat) (is : List Nat) :
    putFrom s p idx a g (i :: is) = putFrom (putWord s p idx (a + 8 * i) (g i) false) p idx a g is := rfl

theorem putFrom_work (s : State) (p idx a : Nat) (g : Nat → BitVec 64) (is : List Nat) : BankWork s (putFrom s p idx a g is) := by
  induction is generalizing s with
  | nil => exact .refl s
  | cons i is ih => exact (putWord_work ..).trans (ih _)

section
variable {s : State} {p idx a n : Nat} {l : Loc} (h : InStripe s p idx a n l) (g : Nat → BitVec 64)
include h

/-- What the banks hold beside the word stored stays. -/
theorem putWord_mem (i : Nat) (hi : i < n) (key : Nat)
    (hkey : ¬ (10 * stripeWord s p a l i ≤ key ∧ key < 10 * stripeWord s p a l i + 10)) :
    tget memDefault (putWord s p idx (a + 8 * i) (g i) false).mem key = tget memDefault s.mem key := by
  have hnote := unnote_sameBanks s (routeRow s p (l.inStripe (a + 8 * i)).k (l.inStripe (a + 8 * i)).row) (l.inStripe (a + 8 * i))
  rw [putWord_ok s p idx _ p _ _ (h.place i hi), setWord_inStripe, hnote.work.access.stripeWord, putAt_mem _ _ _ _ hkey, hnote.mem]

theorem putFrom_mem (is : List Nat) (his : ∀ i ∈ is, i < n) (key : Nat)
    (hkey : ∀ i ∈ is, ¬ (10 * stripeWord s p a l i ≤ key ∧ key < 10 * stripeWord s p a l i + 10)) :
    tget memDefault (putFrom s p idx a g is).mem key = tget memDefault s.mem key := by
  induction is generalizing s with
  | nil => rfl
  | cons i is ih =>
    have hput := (putWord_work s p idx (a + 8 * i) (g i) false).access
    rw [putFrom_cons, ih (h.congr hput) (fun j hj => his j (.tail i hj)) fun j hj => by
      rw [hput.stripeWord]
      exact hkey j (.tail i hj)]
    exact putWord_mem h g i (his i (.head is)) key (hkey i (.head is))

/-- A word stored leaves the others of its stripe. -/
theorem putWord_getWord_ne (i j : Nat) (hi : i < n) (hj : j < n) (hne : j ≠ i) :
    getWord (putWord s p idx (a + 8 * i) (g i) false) p (l.inStripe (a + 8 * j)) = getWord s p (l.inStripe (a + 8 * j)) := by
  have hnote := unnote_sameBanks s (routeRow s p (l.inStripe (a + 8 * i)).k (l.inStripe (a + 8 * i)).row) (l.inStripe (a + 8 * i))
  have haccess := (putWord_work s p idx (a + 8 * i) (g i) false).access
  rw [getWord_inStripe, haccess.stripeWord, putWord_ok s p idx _ p _ _ (h.place i hi), setWord_inStripe, hnote.work.access.stripeWord,
    wordAt_putAt_ne _ _ _ _ (stripeWord_ne h j i hj hi hne), ← hnote.getWord, getWord_inStripe, hnote.work.access.stripeWord]

theorem putFrom_getWord_ne (is : List Nat) (his : ∀ i ∈ is, i < n) (j : Nat) (hj : j < n) (hout : j ∉ is) :
    getWord (putFrom s p idx a g is) p (l.inStripe (a + 8 * j)) = getWord s p (l.inStripe (a + 8 * j)) := by
  induction is generalizing s with
  | nil => rfl
  | cons i is ih =>
    rw [putFrom_cons, ih (h.congr (putWord_work ..).access) (fun k hk => his k (.tail i hk)) fun hj => hout (.tail i hj)]
    exact putWord_getWord_ne h g i j (his i (.head is)) hj fun hij => hout (hij ▸ .head is)

/-- Every word stored is in the banks with its check bits. -/
theorem putFrom_getWord (is : List Nat) (his : ∀ i ∈ is, i < n) :
    ∀ i ∈ is, getWord (putFrom s p idx a g is) p (l.inStripe (a + 8 * i)) = encodeWord (l.inStripe (a + 8 * i)) (g i) := by
  induction is generalizing s with
  | nil => exact fun i hi => absurd hi List.not_mem_nil
  | cons j is ih =>
    intro i hi
    have hnext := h.congr (putWord_work s p idx (a + 8 * j) (g j) false).access
    have hrest : ∀ k ∈ is, k < n := fun k hk => his k (.tail j hk)
    rw [putFrom_cons]
    by_cases hmem : i ∈ is
    · exact ih hnext hrest i hmem
    · obtain rfl : i = j := (List.mem_cons.1 hi).resolve_right hmem
      have hin := his i (.head is)
      rw [putFrom_getWord_ne hnext g is hrest i hin hmem, putWord_getWord _ _ _ _ _ _ _ (h.place i hin)]

end

theorem putWords_eq_putFrom (s : State) (p idx a : Nat) (data : List Byte) (n : Nat) :
    putWords s p idx a data false n = putFrom s p idx a (fun i => BitVec.ofNat 64 (leNat ((data.drop (8 * i)).take 8))) (List.range n) := by
  induction n with
  | zero => rfl
  | succ n ih => rw [putWords, ih, putFrom, putFrom, List.range_succ, List.foldl_append, List.foldl_cons, List.foldl_nil]

end Sys2Proof.Machine
end

section
/-! SLICE_WRITE (R196 to R198, R356): a granule to the banks, a code word to the write-combining buffer, a byte to the merge buffer. -/

open Sys2Proof Sys2Proof.Machine

namespace Sys2Proof.Machine

/-! ### A write within one granule -/

theorem piecesOf_one (unit a n : Nat) (hn : 0 < n) (h : a % unit + n ≤ unit) : piecesOf unit a n = [(a, n)] := by
  have hmin : min n (unit - a % unit) = n := by omega
  simp only [piecesOf, piecesFrom, Nat.pos_iff_ne_zero.1 hn, hmin, Nat.sub_self, if_true, if_false]

theorem markedPieces_one (a : Nat) (data : List Byte) (hn : 0 < data.length) (h : a % 64 + data.length ≤ 64) :
    markedPieces a data (fun _ => false) = [(a, data, false)] := by
  have hany : ((List.range data.length).map fun _ => false).any id = false := by simp
  simp only [markedPieces, piecesOf_one 64 a _ hn h, hany, Bool.not_false, Bool.or_true, if_true, List.flatMap_cons, List.flatMap_nil,
    List.append_nil, List.map_cons, List.map_nil, Nat.sub_self, List.drop_zero, List.take_length]

/-- Links that deliver no inverted bit deliver the words as they are. -/
theorem receivedWords_undisturbed (w : Width) (ws : List (Loc × BitVec 80)) : receivedWords w ws [] = ws := by
  simp only [receivedWords, received, linkBits, List.filterMap_nil, List.foldl_nil, Prod.eta, List.map_id']

theorem writeGran_told (s : State) (p idx off : Nat) (data : List Byte) (poison : Bool) (src : Src) (who : Asker)
    (h : biTracked s p off src = false) : writeGran s p idx off data poison src who = account (writePiece s p idx off data poison) := by
  rw [writeGran, h, if_neg Bool.false_ne_true]

/-- A granule of a write that need not wait, on links without disturbance, is written. -/
theorem sendPiece_written (s : State) (p : Nat) (src : Src) (off : Nat) (data : List Byte) (hqueue : writeQueue s p off = none)
    (htold : biTracked s p off src = false) :
    sendPiece p src [] s (off, data, false) = account (writePiece s p (sliceIndex s p) off data false) := by
  simp only [sendPiece, hqueue, List.filter_nil, List.map_nil, receivedWords_undisturbed, BEq.rfl, Bool.or_true, if_true,
    writeGran_told _ _ _ _ _ _ _ _ htold]
  split <;> rfl

/-- SLICE_WRITE of bytes of one granule that need not wait. -/
theorem sliceWrite_written (s : State) (p : Fin 512) (off : Nat) (data : List Byte) (src : Src) (hlost : (s.slice p).lost = false)
    (hn : 0 < data.length) (h : off % 64 + data.length ≤ 64) (hqueue : writeQueue s p off = none) (htold : biTracked s p off src = false) :
    exec (.sliceWrite p off ⟨data, []⟩ false src) s = .next (account (writePiece s p (sliceIndex s p) off data false)) := by
  simp only [exec_sliceWrite, execSliceWrite, hlost, Bool.false_eq_true, if_false, markedPieces_one off data hn h, List.map_nil,
    List.foldl_cons, List.foldl_nil, sendPiece_written s p src off data hqueue htold]

/-- A lost slice discards the write. -/
theorem sliceWrite_lost (s : State) (p : Fin 512) (off : Nat) (data : Sent) (poison : Bool) (src : Src) (hlost : (s.slice p).lost = true) :
    exec (.sliceWrite p off data poison src) s = .next s := by
  simp only [exec_sliceWrite, execSliceWrite, hlost, if_true]

/-- A line that the square cache does not hold is not given back. -/
theorem dropSq_absent (s : State) (p line : Nat) (own : Option Nat) (h : s.sqc.find? (fun y => y.p == p && y.line == line) = none) :
    dropSq s p line own = s := by
  simp only [dropSq, scanSq, h]

theorem windowHeld_interleaved (s : State) (p off : Nat) (h : off < (s.slice p).map.hc) : windowHeld s p off = false := by
  unfold windowHeld
  split
  · rfl
  · rw [decide_eq_false (Nat.not_le_of_lt h), Bool.and_false, Bool.false_and]

/-- A write in the interleaved region waits where an access to its bank does. -/
theorem writeQueue_interleaved (s : State) (p off : Nat) (h : off < (s.slice p).map.hc) : writeQueue s p off = mustQueue s p off := by
  unfold writeQueue
  rw [windowHeld_interleaved s p off h]
  cases mustQueue s p off <;> rfl

/-! ### A whole granule (R196) -/

theorem unbuffer_access (s : State) (p off n : Nat) : SameAccess s (unbuffer s p off n) :=
  .modSlice _ _ _ ⟨rfl, rfl, rfl, fun _ => rfl⟩

theorem writePiece_granule (s : State) (p idx off : Nat) (data : List Byte) (hlen : data.length = 64) (hoff : off % 64 = 0)
    (hsq : s.sqc.find? (fun y => y.p == p && y.line == off / 128) = none) : writePiece s p idx off data false =
      countAt (putFrom (unbuffer s p off 8) p idx off (fun i => BitVec.ofNat 64 (leNat ((data.drop (8 * i)).take 8))) (List.range 8))
        p idx off 2 := by
  have hhead : min 64 ((8 - off % 8) % 8) = 0 := by omega
  have hall : data.take 64 = data := List.take_of_length_le (Nat.le_of_eq hlen)
  have hnone : data.drop 64 = [] := List.drop_eq_nil_of_le (Nat.le_of_eq hlen)
  simp only [writePiece, dropSq_absent s p _ _ hsq, hlen, hhead, writeWords, hall, hnone, Nat.add_zero, Nat.zero_add, Nat.sub_zero,
    Nat.reduceDiv, Nat.reduceMul, Nat.reduceLT, Nat.lt_irrefl, List.drop_zero, List.isEmpty_nil, Bool.false_eq_true, if_true, if_false,
    or_false, putWords_eq_putFrom]

/-! ### Parts of a granule wait in the buffers (R197, R198) -/

theorem twoPow_ne_allOnes (w i : Nat) (hw : 1 < w) : BitVec.twoPow w i ≠ BitVec.allOnes w := by
  intro h
  have h0 := congrArg (BitVec.getLsbD · 0) h
  have h1 := congrArg (BitVec.getLsbD · 1) h
  simp only [BitVec.getLsbD_twoPow, BitVec.getLsbD_allOnes, hw, Nat.lt_trans Nat.zero_lt_one hw, decide_true, Bool.and_eq_true,
    decide_eq_true_eq] at h0 h1
  omega

/-- Bytes of a word that are written clear no error where there is none. -/
theorem foldl_clear_zero {w : Nat} (f : Nat → BitVec w) (l : List Nat) : l.foldl (fun v i => v &&& ~~~ f i) 0#w = 0#w := by
  induction l with
  | nil => rfl
  | cons i l ih => rw [List.foldl_cons, BitVec.zero_and, ih]

theorem modSlice_modSlice (s : State) (p : Nat) (f g : Slice → Slice) : modSlice (modSlice s p f) p g = setSlice s p (g (f (s.slice p))) := by
  rw [modSlice, modSlice, setSlice_slice_self, setSlice_setSlice]

/-- A line of the write-combining buffer with one code word (R197). -/
def WcLine.ofWord (off : Nat) (data : List Byte) (now : Nat) : WcLine :=
  ⟨off / 128, BitVec.twoPow 16 (off % 128 / 8), tsetList zero8 [] (8 * (off % 128 / 8)) data, now, 0⟩

theorem WcLine.put_empty (off : Nat) (data : List Byte) (now : Nat) (hlen : data.length = 8) :
    (WcLine.mk (off / 128) 0 [] 0 0).put (off % 128 / 8) data now = .ofWord off data now := by
  have hvalid : (List.range 1).foldl (fun v i => v ||| BitVec.twoPow 16 (off % 128 / 8 + i)) 0#16 = BitVec.twoPow 16 (off % 128 / 8) := by
    simp only [List.range_one, List.foldl_cons, List.foldl_nil, Nat.add_zero, BitVec.zero_or]
  have hbad : (List.range 8).foldl (fun v i => v &&& ~~~ BitVec.twoPow 128 (8 * (off % 128 / 8) + i)) 0#128 = 0#128 := foldl_clear_zero _ _
  rw [WcLine.put, hlen, ofWord]
  exact congr (congrArg (fun v b => WcLine.mk _ v _ _ b) hvalid) hbad

/-- One code word enters a write-combining buffer that is empty. -/
theorem wcPut_empty (s : State) (p off : Nat) (data : List Byte) (hlen : data.length = 8) (hwcb : (s.slice p).wcb = []) :
    wcPut s p off data = setSlice s p { s.slice p with wcb := [.ofWord off data s.now] } := by
  have hpart : (WcLine.ofWord off data s.now).valid ≠ BitVec.allOnes 16 := twoPow_ne_allOnes _ _ (by decide)
  simp only [wcPut, hwcb, List.find?_nil, List.length_nil, Nat.reduceLeDiff, if_false, WcLine.put_empty off data _ hlen, hpart, modSlice,
    List.nil_append]

/-- One aligned code word, of a line that no buffer holds, waits in the write-combining buffer. -/
theorem writePiece_word (s : State) (p idx off : Nat) (data : List Byte) (hlen : data.length = 8) (hoff : off % 8 = 0)
    (hsq : s.sqc.find? (fun y => y.p == p && y.line == off / 128) = none) (hwcb : (s.slice p).wcb = []) (hmgb : (s.slice p).mgb = []) :
    writePiece s p idx off data false = setSlice s p { s.slice p with wcb := [.ofWord off data s.now] } := by
  have hall : data.take 8 = data := List.take_of_length_le (Nat.le_of_eq hlen)
  have hnone : data.drop 8 = [] := List.drop_eq_nil_of_le (Nat.le_of_eq hlen)
  have hmerge : modSlice s p (fun x => { x with mgb := x.mgb.filter fun m => ¬ (off / 8 ≤ m.word ∧ m.word < (off + 8) / 8) }) =
      setSlice s p (s.slice p) := by
    rw [modSlice, hmgb, List.filter_nil, ← hmgb]
  have hput := wcPut_empty (setSlice s p (s.slice p)) p off data hlen (by rw [setSlice_slice_self, hwcb])
  rw [setSlice_slice_self, setSlice_setSlice, setSlice_now] at hput
  simp only [writePiece, dropSq_absent s p _ _ hsq, hlen, hoff, writeWords, hall, hnone, hmerge, hput, Nat.add_zero, Nat.zero_add,
    Nat.sub_zero, Nat.reduceMod, Nat.reduceDiv, Nat.reduceMul, Nat.reduceLT, Nat.reduceEqDiff, Nat.lt_irrefl, Nat.min_zero, List.drop_zero,
    List.isEmpty_nil, Bool.false_eq_true, if_true, if_false, or_false]

/-- A word of the merge buffer with one byte (R198). -/
def MgWord.ofByte (off : Nat) (b : Byte) (now : Nat) : MgWord := ⟨off / 8, tset zero8 [] (off % 8) b, BitVec.twoPow 8 (off % 8), now, 0⟩

/-- One byte, of a word that no buffer holds, waits in the merge buffer. -/
theorem mergePut_byte (s : State) (p off : Nat) (b : Byte) (hwcb : (s.slice p).wcb = []) (hmgb : (s.slice p).mgb = []) :
    mergePut s p off [b] = setSlice s p { s.slice p with mgb := [.ofByte off b s.now] } := by
  have hpart : BitVec.twoPow 8 (off % 8) ≠ BitVec.allOnes 8 := twoPow_ne_allOnes _ _ (by decide)
  have hmask : (0 : BitVec 8) ||| BitVec.twoPow 8 (off % 8) = BitVec.twoPow 8 (off % 8) := BitVec.zero_or
  have hbad : (0 : BitVec 8) &&& ~~~ BitVec.twoPow 8 (off % 8) = 0 := BitVec.zero_and
  simp only [mergePut, hwcb, hmgb, List.any_nil, List.find?_nil, List.length_nil, List.length_cons, Nat.reduceLT, Nat.zero_add,
    List.range_one, List.foldl_cons, List.foldl_nil, Nat.add_zero, hmask, hbad, Option.getD_none, tsetList, hpart, modSlice, MgWord.ofByte,
    Bool.false_eq_true, if_true, if_false, List.nil_append]

theorem writePiece_byte (s : State) (p idx off : Nat) (b : Byte)
    (hsq : s.sqc.find? (fun y => y.p == p && y.line == off / 128) = none) (hwcb : (s.slice p).wcb = []) (hmgb : (s.slice p).mgb = []) :
    writePiece s p idx off [b] false = setSlice s p { s.slice p with mgb := [.ofByte off b s.now] } := by
  have hput := mergePut_byte s p off b hwcb hmgb
  by_cases hoff : off % 8 = 0
  · simp only [writePiece, dropSq_absent s p _ _ hsq, hoff, hput, List.length_cons, List.length_nil, Nat.zero_add, Nat.add_zero,
      Nat.sub_zero, Nat.reduceMod, Nat.reduceDiv, Nat.reduceMul, Nat.min_zero, Nat.lt_irrefl, List.drop_zero, List.isEmpty_cons,
      Bool.false_eq_true, if_false]
  · have hhead : min 1 ((8 - off % 8) % 8) = 1 := by omega
    simp only [writePiece, dropSq_absent s p _ _ hsq, hhead, hput, List.length_cons, List.length_nil, Nat.zero_add, Nat.add_zero,
      Nat.sub_self, Nat.zero_div, Nat.zero_mul, Nat.lt_irrefl, Nat.zero_lt_one, List.take_succ_cons, List.take_zero, List.drop_succ_cons,
      List.drop_zero, List.isEmpty_nil, Bool.false_eq_true, if_true, if_false]

end Sys2Proof.Machine

/-- Settles O29. A whole granule goes to the banks as the words of one stripe (`putFrom_getWord`, `putFrom_mem`); a code word and a byte wait
in the buffers (`writePiece_word`, `writePiece_byte`). -/
theorem sliceWrites : Obligations.SliceWrites := by
  unfold Obligations.SliceWrites
  refine ⟨fun s p off data src q l hlost hlen hoff hhc hloc hsq htold hqueue hfound => ?_, fun s p off src =>
    ⟨fun data poison hlost => sliceWrite_lost s p off data poison src hlost, fun hlost hsq htold hqueue hfound hwcb hmgb => ⟨?_, ?_⟩⟩⟩
  · obtain ⟨rfl, hstripe⟩ := inStripe_of_locate s p _ off 8 q l hloc (by omega) (by omega) (by decide) hhc
    have hexec := sliceWrite_written s p off data src hlost (by omega) (by omega)
      (by rw [writeQueue_interleaved s p off (by omega), hqueue]) htold
    rw [writePiece_granule s p _ off data hlen hoff hsq] at hexec
    have haccess := unbuffer_access s p off 8
    have hstripe' := hstripe.congr haccess
    have hwork := putFrom_work (unbuffer s p off 8) p (sliceIndex s p) off (fun i => BitVec.ofNat 64 (leNat ((data.drop (8 * i)).take 8)))
      (List.range 8)
    have hcount := countAt_sameBanks (putFrom (unbuffer s p off 8) p (sliceIndex s p) off
      (fun i => BitVec.ofNat 64 (leNat ((data.drop (8 * i)).take 8))) (List.range 8)) p (sliceIndex s p) off 2
    have hall := hwork.trans hcount.work
    rw [account_nothing _ (hall.found.trans hfound)] at hexec
    have hrange : ∀ i ∈ List.range 8, i < 8 := fun i => List.mem_range.1
    refine ⟨_, hexec, hall.ls, hall.crofts, hall.sqc, fun i hi => ⟨_, hstripe.place i hi, ?_⟩, fun key hkey => ?_⟩
    · rw [hcount.getWord]
      exact putFrom_getWord hstripe' _ _ hrange i (List.mem_range.2 hi)
    · rw [hcount.mem]
      refine putFrom_mem hstripe' _ _ hrange key fun i hi => ?_
      have hout := hkey i _ (hrange i hi) (hstripe.place i (hrange i hi))
      rw [bankKey_inStripe] at hout
      rwa [haccess.stripeWord]
  · intro data hoff hlen
    rw [sliceWrite_written s p off data src hlost (by omega) (by omega) hqueue htold,
      writePiece_word s p _ off data hlen hoff hsq hwcb hmgb]
    exact congrArg Host.Outcome.next (account_nothing _ hfound)
  · intro b
    rw [sliceWrite_written s p off [b] src hlost (by simp) (by rw [List.length_singleton]; omega) hqueue htold,
      writePiece_byte s p _ off b hsq hwcb hmgb]
    exact congrArg Host.Outcome.next (account_nothing _ hfound)
end

section
/-! The write buffers reach the banks: WRITE_COMBINING_DRAIN (R197) and READ_MODIFY_WRITE (R198, R200). -/

open Sys2Proof Sys2Proof.Machine

namespace Sys2Proof.Machine

/-! ### Code words that a buffer gives back -/

/-- The code words of a granule that a buffer gives back are stored as the words of a stripe, and counted. -/
theorem storeWords_sameBanks (s : State) (p a : Nat) (g : Nat → BitVec 64) (is : List Nat) :
    SameBanks (putFrom s p (sliceIndex s p) a g is) (storeWords s p (is.map fun i => (a + 8 * i, g i, false))) := by
  have hfold : ∀ (is : List Nat) (t : State), sliceIndex t p = sliceIndex s p →
      (is.map fun i => (a + 8 * i, g i, false)).foldl (fun s w => putWord s p (sliceIndex s p) w.1 w.2.1 w.2.2) t =
        putFrom t p (sliceIndex s p) a g is := by
    intro is
    induction is with
    | nil => exact fun _ _ => rfl
    | cons i is ih =>
      intro t ht
      have hnext := ((putWord_work t p (sliceIndex s p) (a + 8 * i) (g i) false).access.sliceIndex p).trans ht
      rw [List.map_cons, List.foldl_cons, ht, ih _ hnext, putFrom_cons]
  cases is with
  | nil => exact .refl s
  | cons i is =>
    have h := hfold (i :: is) s rfl
    rw [List.map_cons] at h ⊢
    rw [storeWords, h]
    exact countAt_sameBanks ..

theorem giveBack_sameBanks (s : State) (p a : Nat) (g : Nat → BitVec 64) (is : List Nat) (src : Src)
    (hqueue : ∀ i ∈ is, writeQueue s p (a + 8 * i) = none) :
    SameBanks (putFrom s p (sliceIndex s p) a g is) (giveBack s p (is.map fun i => (a + 8 * i, g i, false)) src false) := by
  have hstore := storeWords_sameBanks s p a g is
  cases is with
  | nil => exact .refl s
  | cons i is =>
    simp only [List.map_cons, giveBack, Bool.false_eq_true, if_false, hqueue i (.head is)]
    exact hstore

/-! ### A line of the write-combining buffer drains (R197) -/

/-- The valid code words of half `h` of a line, numbered within the line. -/
def WcLine.validIn (l : WcLine) (h : Nat) : List Nat := ((List.range 8).map (8 * h + ·)).filter (l.valid.getLsbD ·)

theorem WcLine.mem_validIn (l : WcLine) (h i : Nat) : i ∈ l.validIn h ↔ i / 8 = h ∧ l.valid.getLsbD i = true := by
  simp only [validIn, List.mem_filter, List.mem_map, List.mem_range]
  refine and_congr_left fun _ => ⟨?_, fun hi => ⟨i % 8, by omega, by omega⟩⟩
  rintro ⟨j, hj, rfl⟩
  omega

theorem WcLine.wordBad_sound (l : WcLine) (w : Nat) (hbad : l.bad = 0) : l.wordBad w = false := by
  rw [wordBad, hbad]
  simp

/-- The half of a line without parity errors, as words of its stripe. -/
theorem WcLine.half_sound (l : WcLine) (h : Nat) (hbad : l.bad = 0) : l.half h =
    (l.validIn h).map fun i => (128 * l.line + 8 * i, BitVec.ofNat 64 (leNat (l.word i)), false) := by
  rw [half, validIn, List.filter_map, List.map_map]
  refine List.map_congr_left fun i _ => ?_
  have hoff : 128 * l.line + 64 * h + 8 * i = 128 * l.line + 8 * (8 * h + i) := by omega
  rw [hoff, l.wordBad_sound _ hbad]
  rfl

/-- The machine once a line has left the write-combining buffer of a slice. -/
def lineLeft (s : State) (p : Nat) (l : WcLine) : State := modSlice s p fun x => { x with wcb := x.wcb.filter fun y => y.line ≠ l.line }

theorem lineLeft_access (s : State) (p : Nat) (l : WcLine) : SameAccess s (lineLeft s p l) := .modSlice _ _ _ ⟨rfl, rfl, rfl, fun _ => rfl⟩

/-- A line without parity errors is given back half by half. -/
theorem drainLine_sound (s : State) (p : Nat) (l : WcLine) (hbad : l.bad = 0) :
    drainLine s p l = giveBack (giveBack (lineLeft s p l) p (l.half 0) .croft false) p (l.half 1) .croft false := by
  have hnone : ((l.half 0 ++ l.half 1).filter fun w => w.2.2) = [] := by
    rw [l.half_sound 0 hbad, l.half_sound 1 hbad, List.filter_eq_nil_iff]
    intro w hw
    simp only [List.mem_append, List.mem_map] at hw
    rcases hw with ⟨i, -, rfl⟩ | ⟨i, -, rfl⟩ <;> exact Bool.false_ne_true
  simp only [drainLine, hnone, List.map_nil, List.append_nil]
  rfl

/-- A line whose banks are free leaves its valid words in the banks with their check bits. -/
theorem drainLine_stores (s : State) (p : Nat) (l : WcLine) (x : Loc) (hbad : l.bad = 0)
    (hstripe : InStripe s p (sliceIndex s p) (128 * l.line) 16 x)
    (hqueue : ∀ w, w < 16 → writeQueue s p (128 * l.line + 8 * w) = none) :
    BankWork (lineLeft s p l) (drainLine s p l) ∧ ∀ w, w < 16 → l.valid.getLsbD w = true →
      getWord (drainLine s p l) p (x.inStripe (128 * l.line + 8 * w)) =
        encodeWord (x.inStripe (128 * l.line + 8 * w)) (BitVec.ofNat 64 (leNat (l.word w))) := by
  have hleft := lineLeft_access s p l
  have hrange : ∀ h, h < 2 → ∀ i ∈ l.validIn h, i < 16 := fun h hh i hi => by
    have := ((l.mem_validIn h i).1 hi).1
    omega
  have hfirst := giveBack_sameBanks (lineLeft s p l) p (128 * l.line) (fun i => BitVec.ofNat 64 (leNat (l.word i))) (l.validIn 0) .croft
    fun i hi => (hleft.writeQueue ..).trans (hqueue i (hrange 0 (by decide) i hi))
  rw [← l.half_sound 0 hbad] at hfirst
  rw [drainLine_sound s p l hbad]
  generalize giveBack (lineLeft s p l) p (l.half 0) .croft false = t at hfirst ⊢
  have hwork : BankWork (lineLeft s p l) t := (putFrom_work ..).trans hfirst.work
  have haccess := hleft.trans hwork.access
  have hsecond := giveBack_sameBanks t p (128 * l.line) (fun i => BitVec.ofNat 64 (leNat (l.word i))) (l.validIn 1) .croft
    fun i hi => (haccess.writeQueue ..).trans (hqueue i (hrange 1 (by decide) i hi))
  rw [← l.half_sound 1 hbad, haccess.sliceIndex] at hsecond
  rw [hleft.sliceIndex] at hfirst
  refine ⟨hwork.trans ((putFrom_work ..).trans hsecond.work), fun w hw hvalid => ?_⟩
  rw [hsecond.getWord]
  by_cases hmem : w ∈ l.validIn 1
  · exact putFrom_getWord (hstripe.congr haccess) _ _ (hrange 1 (by decide)) w hmem
  · have hhalf : w / 8 ≠ 1 := fun hw1 => hmem ((l.mem_validIn 1 w).2 ⟨hw1, hvalid⟩)
    have hother : w ∈ l.validIn 0 := (l.mem_validIn 0 w).2 ⟨by omega, hvalid⟩
    rw [putFrom_getWord_ne (hstripe.congr haccess) _ _ (hrange 1 (by decide)) w hw hmem, hfirst.getWord]
    exact putFrom_getWord (hstripe.congr hleft) _ _ (hrange 0 (by decide)) w hother

theorem writeCombiningDrain_drains (s : State) (p : Fin 512) (l : WcLine)
    (h : (s.slice p).wcb.find? (fun y => y.line == l.line) = some l) :
    exec (.writeCombiningDrain p l.line) s = .next (account (drainLine (notBefore s (l.last + 256)) p l)) := by
  simp only [exec_writeCombiningDrain, execWriteCombiningDrain, h]

/-! ### Counts of read-modify-writes (R222) -/

/-- Counters of slices of different numbers are different. -/
theorem ctrSlice_ne (p q i j : Nat) (hi : i < 64) (hj : j < 64) (h : i ≠ j) : ctrSlice p i ≠ ctrSlice q j := by
  unfold ctrSlice
  omega

theorem bump_ctrSlice_ne (s : State) (p q i j n : Nat) (hi : i < 64) (hj : j < 64) (h : i ≠ j) :
    tget zeroN (bump s (ctrSlice q j) n).ctr (ctrSlice p i) = tget zeroN s.ctr (ctrSlice p i) :=
  bump_ctr_ne s _ n _ (ctrSlice_ne p q i j hi hj h)

theorem noteSent_ctr (s : State) (q u n w : Nat) : (noteSent s q u n w).ctr = s.ctr := rfl

theorem refreshBank_rmwCount (s : State) (q k n late p : Nat) :
    tget zeroN (refreshBank s q k n late).ctr (ctrSlice p 16) = tget zeroN s.ctr (ctrSlice p 16) := by
  have hcount : tget zeroN (bump (bump s (ctrSlice q 30) n) (ctrSlice q 31) late).ctr (ctrSlice p 16) = tget zeroN s.ctr (ctrSlice p 16) :=
    (bump_ctrSlice_ne _ p q 16 31 _ (by decide) (by decide) (by decide)).trans
      (bump_ctrSlice_ne _ p q 16 30 _ (by decide) (by decide) (by decide))
  simp only [refreshBank, modSlice, setSlice_ctr, noteSent_ctr]
  exact iteInduction (motive := fun t : State => tget zeroN t.ctr (ctrSlice p 16) = tget zeroN s.ctr (ctrSlice p 16))
    (fun _ => (bump_ctrSlice_ne _ p q 16 4 _ (by decide) (by decide) (by decide)).trans hcount) fun _ => hcount

theorem refreshFirst_rmwCount (s : State) (q k p : Nat) :
    tget zeroN (refreshFirst s q k).ctr (ctrSlice p 16) = tget zeroN s.ctr (ctrSlice p 16) := by
  unfold refreshFirst
  split
  · exact refreshBank_rmwCount ..
  · rfl

theorem countGran_rmwCount (s : State) (q k n p : Nat) :
    tget zeroN (countGran s q k n).ctr (ctrSlice p 16) = tget zeroN s.ctr (ctrSlice p 16) := by
  have hunit : 11 + slotSub k < 15 := by
    unfold slotSub
    omega
  simp only [countGran, noteSent_ctr, modSlice, setSlice_ctr]
  rw [bump_ctrSlice_ne _ p q 16 _ _ (by decide) (by omega) (by omega), refreshFirst_rmwCount]

theorem countAt_rmwCount (s : State) (p' idx off n p : Nat) :
    tget zeroN (countAt s p' idx off n).ctr (ctrSlice p 16) = tget zeroN s.ctr (ctrSlice p 16) := by
  unfold countAt
  split
  · rfl
  · exact countGran_rmwCount ..

theorem countReread_rmwCount (s : State) (q u n p : Nat) :
    tget zeroN (countReread s q u n).ctr (ctrSlice p 16) = tget zeroN s.ctr (ctrSlice p 16) := by
  unfold countReread
  split
  · rfl
  · rw [noteSent_ctr, bump_ctrSlice_ne _ p q 16 22 _ (by decide) (by decide) (by decide)]

theorem putWord_ctr (s : State) (p idx off : Nat) (d : BitVec 64) (poison : Bool) : (putWord s p idx off d poison).ctr = s.ctr := by
  have hnote : ∀ q l, (unnote s q l).ctr = s.ctr := fun q l => by
    unfold unnote
    split <;> rfl
  unfold putWord
  split
  · rfl
  · exact hnote _ _

/-! ### A word of the merge buffer is read, merged and written back (R198, R200) -/

/-- A word of the merge buffer over the word that the bank holds. -/
def MgWord.over (m : MgWord) (c : BitVec 80) : BitVec 64 :=
  BitVec.ofNat 64 (leNat ((List.range 8).map fun i =>
    if m.mask.getLsbD i then tget zero8 m.bytes i else (leBytes 8 (wordData c).toNat).getD i 0))

/-- The machine once the read of a read-modify-write has been counted. -/
def rmwRead (s : State) (p : Nat) (m : MgWord) (q n : Nat) (l : Loc) : State :=
  countReread (countAt (bump s (ctrSlice p 16) 1) p (sliceIndex s p) (8 * m.word)) q (slotSub l.k) n

/-- A read-modify-write without parity errors, of a word that reads clean. -/
theorem rmwNow_clean (s : State) (p : Nat) (m : MgWord) (q : Nat) (l : Loc) (hbad : m.bad = 0)
    (hloc : locate s p (sliceIndex s p) (8 * m.word) = .ok (q, l)) (hclean : classify l (getWord s q l) = .clean) :
    ∃ q' n, rmwNow s p m = countAt (putWord (rmwRead s p m q' n l) p (sliceIndex s p) (8 * m.word) (m.over (getWord s q l)) false)
      p (sliceIndex s p) (8 * m.word) 2 := by
  have hmask : ¬ (m.bad &&& m.mask ≠ 0) := by
    rw [hbad]
    exact not_not_intro BitVec.zero_and
  have hloc' : locate (bump s (ctrSlice p 16) 1) p (sliceIndex s p) (8 * m.word) = .ok (q, l) := hloc
  have hword : wordAt (bump s (ctrSlice p 16) 1) (bankKey (bump s (ctrSlice p 16) 1)
      (routeRow (bump s (ctrSlice p 16) 1) q l.k l.row) l) = getWord s q l := rfl
  refine ⟨routeRow s q l.k l.row, if syndrome l (getWord s q l) = 0 then 0 else 1, ?_⟩
  simp only [rmwNow, hmask, if_false, hloc', hword, settleWord, hclean]
  rfl

/-- What a read-modify-write of a word that reads clean leaves: the word merged, and its count. -/
theorem rmwNow_stores (s : State) (p : Nat) (m : MgWord) (q : Nat) (l : Loc) (hbad : m.bad = 0)
    (hloc : locate s p (sliceIndex s p) (8 * m.word) = .ok (q, l)) (hclean : classify l (getWord s q l) = .clean) :
    BankWork s (rmwNow s p m) ∧ getWord (rmwNow s p m) q l = encodeWord l (m.over (getWord s q l)) ∧
      tget zeroN (rmwNow s p m).ctr (ctrSlice p 16) = tget zeroN s.ctr (ctrSlice p 16) + 1 := by
  obtain ⟨q', n, hrmw⟩ := rmwNow_clean s p m q l hbad hloc hclean
  have hread : SameBanks s (rmwRead s p m q' n l) := ((SameBanks.bump ..).trans (countAt_sameBanks ..)).trans (countReread_sameBanks ..)
  rw [hrmw]
  refine ⟨(hread.work.trans (putWord_work ..)).trans (countAt_sameBanks ..).work, ?_, ?_⟩
  · rw [(countAt_sameBanks ..).getWord, putWord_getWord _ _ _ _ _ _ _ ((hread.work.access.locate ..).trans hloc)]
  · rw [countAt_rmwCount, putWord_ctr, rmwRead, countReread_rmwCount, countAt_rmwCount, bump_ctr, if_pos rfl]

/-- The machine once a word has left the merge buffer of a slice. -/
def wordLeft (s : State) (p : Nat) (m : MgWord) : State := modSlice s p fun x => { x with mgb := x.mgb.filter fun y => y.word ≠ m.word }

theorem wordLeft_access (s : State) (p : Nat) (m : MgWord) : SameAccess s (wordLeft s p m) := .modSlice _ _ _ ⟨rfl, rfl, rfl, fun _ => rfl⟩

/-- READ_MODIFY_WRITE of a word whose bank is free. -/
theorem readModifyWrite_now (s : State) (p : Fin 512) (m : MgWord) (h : (s.slice p).mgb.find? (fun y => y.word == m.word) = some m)
    (hqueue : writeQueue s p (8 * m.word) = none) :
    exec (.readModifyWrite p m.word) s = .next (rmwNow (wordLeft (notBefore s (m.since + 64)) p m) p m) := by
  have hfree : writeQueue (wordLeft (notBefore s (m.since + 64)) p m) p (8 * m.word) = none :=
    (((notBefore_onlyTime s _).sameAccess.trans (wordLeft_access ..)).writeQueue ..).trans hqueue
  rw [wordLeft] at hfree ⊢
  simp only [exec_readModifyWrite, execReadModifyWrite, h, rmwWord, hfree, Bool.false_eq_true, if_false]

end Sys2Proof.Machine

/-- Settles O30. A drained line stores its valid words as those of one stripe (`drainLine_stores`), and a read-modify-write the word merged
(`rmwNow_stores`); what time passes first leaves the banks and the queues (`notBefore_onlyTime`). -/
theorem buffersDrain : Obligations.BuffersDrain := by
  unfold Obligations.BuffersDrain
  refine ⟨fun s p l hfind hbad hfound hhc hplace hqueue => ?_, fun s p m q l hfind hbad hloc hclean hqueue => ?_⟩
  · obtain ⟨⟨q, x⟩, hloc⟩ := hplace
    obtain ⟨rfl, hstripe⟩ := inStripe_of_locate s p _ (128 * l.line) 16 q x hloc (by omega) (by omega) (by decide) hhc
    have htime := notBefore_onlyTime s (l.last + 256)
    have hnow : (notBefore s (l.last + 256)).now = max s.now (l.last + 256) := by rw [notBefore_eq]
    have hfree : ∀ w, w < 16 → writeQueue (notBefore s (l.last + 256)) p (128 * l.line + 8 * w) = none := fun w hw => by
      rw [htime.sameAccess.writeQueue, writeQueue_interleaved s p _ (by omega), hqueue w hw]
    have hstripe' := hstripe.congr htime.sameAccess
    rw [← htime.sameAccess.sliceIndex] at hstripe'
    obtain ⟨hwork, hstored⟩ := drainLine_stores _ p l x hbad hstripe' hfree
    have hexec := writeCombiningDrain_drains s p l hfind
    rw [account_nothing _ (hwork.found.trans (by rw [lineLeft, modSlice, setSlice_found, htime, hfound]))] at hexec
    refine ⟨_, hexec, hwork.now.trans hnow, ?_, ?_, ?_, fun w hw hvalid => ⟨_, _, hstripe.place w hw, hstored w hw hvalid⟩⟩
    · rw [hwork.wcb, lineLeft, modSlice, setSlice_slice_self, htime.slice]
    · rw [hwork.ls, lineLeft, modSlice, setSlice_ls, htime]
    · rw [hwork.crofts, lineLeft, modSlice, setSlice_crofts, htime]
  · have htime := notBefore_onlyTime s (m.since + 64)
    have hnow : (notBefore s (m.since + 64)).now = max s.now (m.since + 64) := by rw [notBefore_eq]
    have haccess := htime.sameAccess.trans (wordLeft_access (notBefore s (m.since + 64)) p m)
    have hword : getWord (wordLeft (notBefore s (m.since + 64)) p m) q l = getWord s q l :=
      haccess.getWord (by rw [wordLeft, modSlice, setSlice_mem, htime]) (by rw [wordLeft, modSlice, setSlice_undef, htime]) q l
    have hstores := rmwNow_stores (wordLeft (notBefore s (m.since + 64)) p m) p m q l hbad
      (by rw [haccess.sliceIndex, haccess.locate, hloc]) (by rw [hword, hclean])
    rw [hword] at hstores
    obtain ⟨hwork, hstored, hcount⟩ := hstores
    refine ⟨_, readModifyWrite_now s p m hfind hqueue, hwork.now.trans hnow, ?_, hstored, hcount.trans ?_, ?_, ?_⟩
    · rw [hwork.mgb, wordLeft, modSlice, setSlice_slice_self, htime.slice]
    · rw [wordLeft, modSlice, setSlice_ctr, notBefore_ctrSlice s _ p 16 (by decide) (by decide)]
    · rw [hwork.ls, wordLeft, modSlice, setSlice_ls, htime]
    · rw [hwork.crofts, wordLeft, modSlice, setSlice_crofts, htime]
end

section
/-! The banks of a slice: windows of imbalance (R218), queue entries (R219), and refresh (R242 to R245). -/

open Sys2Proof Sys2Proof.Machine

namespace Sys2Proof.Machine

/-! ### Imbalance windows (R218) -/

/-- The busiest sub-channel exceeds a bound where some sub-channel does. -/
theorem lt_busiest_iff (t : Table Nat) (n : Nat) : n < 2 * (busiest t).2 ↔ ∃ u, u < 4 ∧ n < 2 * tget zeroN t u := by
  have hfold : ∀ (l : List Nat) (b : Nat × Nat),
      n < 2 * (l.foldl (fun b u => if b.2 < tget zeroN t u then (u, tget zeroN t u) else b) b).2 ↔
        n < 2 * b.2 ∨ ∃ u ∈ l, n < 2 * tget zeroN t u := by
    intro l
    induction l with
    | nil => simp
    | cons u l ih =>
      intro b
      have hmax : n < 2 * (if b.2 < tget zeroN t u then (u, tget zeroN t u) else b).2 ↔ n < 2 * b.2 ∨ n < 2 * tget zeroN t u := by
        split <;> omega
      simp only [List.foldl_cons, ih, hmax, or_assoc, List.mem_cons, exists_eq_or_imp]
  have hzero : ¬ n < 2 * (0, 0).2 := Nat.not_lt_zero n
  simp only [busiest, hfold, hzero, false_or, List.mem_range]

/-- Granules that the sub-channels of a slice have moved in its window. -/
def Slice.moved (x : Slice) : Nat := ((List.range 4).map fun u => tget zeroN x.gran u).foldl (· + ·) 0

/-- Granules that the sub-channels of a slice can move in 1 ms. -/
def Slice.peak (x : Slice) : Nat := ((List.range 4).map fun u => subPeak (x.sub u)).foldl (· + ·) 0

theorem sum_subs (f : Nat → Nat) : ((List.range 4).map f).foldl (· + ·) 0 = f 0 + f 1 + f 2 + f 3 := by
  rw [show List.range 4 = [0, 1, 2, 3] from rfl]
  simp only [List.map_cons, List.map_nil, List.foldl_cons, List.foldl_nil, Nat.zero_add]

theorem Slice.moved_eq (x : Slice) : x.moved = tget zeroN x.gran 0 + tget zeroN x.gran 1 + tget zeroN x.gran 2 + tget zeroN x.gran 3 :=
  sum_subs _

theorem Slice.peak_eq (x : Slice) : x.peak = subPeak (x.sub 0) + subPeak (x.sub 1) + subPeak (x.sub 2) + subPeak (x.sub 3) := sum_subs _

/-- A window is imbalanced: it is busy enough to judge, and one sub-channel carried more than half. -/
abbrev Slice.uneven (x : Slice) : Prop := 0 < x.moved ∧ x.peak ≤ 20 * x.moved ∧ x.moved < 2 * (busiest x.gran).2

theorem Slice.not_uneven (x : Slice) (h : ∀ u, u < 4 → 2 * tget zeroN x.gran u ≤ x.moved) : ¬ x.uneven := by
  rintro ⟨-, -, hmore⟩
  obtain ⟨u, hu, hlt⟩ := (lt_busiest_iff _ _).1 hmore
  exact Nat.not_le_of_lt hlt (h u hu)

theorem Slice.uneven_of_peak (x : Slice) (u : Nat) (hu : u < 4) (h : x.moved < 2 * tget zeroN x.gran u) (hbusy : x.peak ≤ 20 * x.moved) :
    x.uneven := by
  refine ⟨?_, hbusy, (lt_busiest_iff _ _).2 ⟨u, hu, h⟩⟩
  rw [x.moved_eq] at h ⊢
  match u, hu with
  | 0, _ => omega
  | 1, _ => omega
  | 2, _ => omega
  | 3, _ => omega

/-- The slice whose next window begins. -/
def Slice.nextWindow (x : Slice) (now imbal : Nat) (share : Nat × Nat) : Slice :=
  { x with winAt := now, gran := [], imbal := imbal, share := share }

/-- A window that is not imbalanced ends the run of imbalanced ones. -/
theorem imbalanceWindow_even (s v : State) (p : Fin 512) (hv : notBefore s ((s.slice p).winAt + 1000000) = v) (h : ¬ (s.slice p).uneven) :
    exec (.imbalanceWindow p) s = .next (setSlice v p ((s.slice p).nextWindow v.now 0 (0, 0))) := by
  have hslice : v.slice p = s.slice p := by rw [← hv, (notBefore_onlyTime s _).slice]
  have hnext : modSlice (modSlice v p fun x => { x with winAt := v.now }) p (fun x => { x with gran := [], imbal := 0, share := (0, 0) }) =
      setSlice v p ((s.slice p).nextWindow v.now 0 (0, 0)) := by
    simp only [modSlice_modSlice, hslice, Slice.nextWindow]
  rw [exec_imbalanceWindow, ← hnext, ← hv]
  exact congrArg Host.Outcome.next (if_neg (Bool.eq_false_iff.1 (decide_eq_false h)))

/-- An imbalanced window, in a run of fewer than a hundred, is counted. -/
theorem imbalanceWindow_uneven (s v : State) (p : Fin 512) (hv : notBefore s ((s.slice p).winAt + 1000000) = v) (h : (s.slice p).uneven)
    (hrun : (s.slice p).imbal + 1 < 100) : ∃ share, exec (.imbalanceWindow p) s =
      .next (bump (setSlice v p ((s.slice p).nextWindow v.now ((s.slice p).imbal + 1) share)) (ctrSlice p 18) 1) := by
  have hslice : v.slice p = s.slice p := by rw [← hv, (notBefore_onlyTime s _).slice]
  have hnext : ∀ share : Nat × Nat, modSlice (bump (modSlice v p fun x => { x with winAt := v.now }) (ctrSlice p 18) 1) p
      (fun x => { x with gran := [], imbal := x.imbal + 1, share := share }) =
        bump (setSlice v p ((s.slice p).nextWindow v.now ((s.slice p).imbal + 1) share)) (ctrSlice p 18) 1 := fun share => by
    rw [← hslice]
    exact modSlice_modSlice (bump v (ctrSlice p 18) 1) p (fun x => { x with winAt := v.now })
      fun x => { x with gran := [], imbal := x.imbal + 1, share := share }
  have hfew : ∀ share, ¬ 100 ≤ ((bump (setSlice v p ((s.slice p).nextWindow v.now ((s.slice p).imbal + 1) share)) (ctrSlice p 18) 1).slice
      p).imbal := fun share => by
    rw [bump_slice_of, setSlice_slice_self]
    exact Nat.not_le_of_lt hrun
  refine ⟨((busiest (s.slice p).gran).1, (busiest (s.slice p).gran).2 * 1024 / (s.slice p).moved), ?_⟩
  rw [exec_imbalanceWindow]
  refine (congrArg Host.Outcome.next (if_pos (decide_eq_true h))).trans ?_
  rw [hv, hnext, if_neg (hfew _), Slice.moved]

/-- What the count of an imbalanced window leaves. -/
theorem imbalanceWindow_counts (s v : State) (p : Fin 512) (hv : notBefore s ((s.slice p).winAt + 1000000) = v) (h : (s.slice p).uneven)
    (hrun : (s.slice p).imbal + 1 < 100) : ∃ t, exec (.imbalanceWindow p) s = .next t ∧
      (t.slice p).imbal = (s.slice p).imbal + 1 ∧ (t.slice p).gran = [] ∧ (t.slice p).winAt = v.now ∧
      tget zeroN t.ctr (ctrSlice p 18) = tget zeroN s.ctr (ctrSlice p 18) + 1 ∧ { t with slices := s.slices, ctr := v.ctr } = v := by
  obtain ⟨share, hexec⟩ := imbalanceWindow_uneven s v p hv h hrun
  have hslices : v.slices = s.slices := by rw [← hv, notBefore_eq]
  have hcount : tget zeroN v.ctr (ctrSlice p 18) = tget zeroN s.ctr (ctrSlice p 18) := by
    rw [← hv, notBefore_ctrSlice s ((s.slice p).winAt + 1000000) p 18 (by decide) (by decide)]
  refine ⟨_, hexec, ?_, ?_, ?_, ?_, ?_⟩
  · rw [bump_slice_of, setSlice_slice_self, Slice.nextWindow]
  · rw [bump_slice_of, setSlice_slice_self, Slice.nextWindow]
  · rw [bump_slice_of, setSlice_slice_self, Slice.nextWindow]
  · rw [bump_ctr, if_pos rfl, setSlice_ctr, hcount]
  · rw [← hslices]
    simp only [bump, setSlice]

/-! ### Queue entries (R219, R229, R232) -/

/-- A sub-channel that takes no access serves none. -/
theorem canServe_stopped (s : State) (q u : Nat) (before : List QEntry) (yielded : Bool) (e : QEntry)
    (h : ((s.slice q).sub u).stopped = true) : canServe s q u before yielded e = false := by
  simp only [canServe, h, Bool.not_true, Bool.and_false, Bool.false_and]

/-- Accesses that cannot be served are passed over. -/
theorem firstReady_skip (s : State) (q u : Nat) (t : QEntry → Bool) (yielded : Bool) (l before after : List QEntry)
    (h : ∀ i (hi : i < before.length), canServe s q u (l ++ before.take i) yielded before[i] = false) :
    firstReady s q u t yielded l (before ++ after) = firstReady s q u t yielded (l ++ before) after := by
  induction before generalizing l with
  | nil => rw [List.nil_append, List.append_nil]
  | cons e before ih =>
    have hfirst : canServe s q u l yielded e = false := by
      have h0 := h 0 (Nat.zero_lt_succ _)
      rwa [List.take_zero, List.append_nil] at h0
    have hrest := ih (l ++ [e]) fun i hi => by
      have hnext := h (i + 1) (Nat.succ_lt_succ hi)
      rwa [List.take_succ_cons, List.append_cons] at hnext
    rw [List.cons_append, firstReady, hfirst, Bool.and_false, if_neg Bool.false_ne_true, hrest, ← List.append_cons]

theorem firstReady_none (s : State) (q u : Nat) (t : QEntry → Bool) (yielded : Bool) (l : List QEntry)
    (h : ∀ before e, canServe s q u before yielded e = false) : firstReady s q u t yielded [] l = none := by
  have hskip := firstReady_skip s q u t yielded [] l [] fun i hi => h _ _
  rw [List.append_nil] at hskip
  rw [hskip, firstReady]

/-- The first access that can be served, past those that cannot, is served, and its entry frees. -/
theorem serveNext_serves (s : State) (q u : Nat) (before rest : List QEntry) (e : QEntry)
    (hqueue : ((s.slice q).sub u).queue = before ++ e :: rest) (hlen : before.length < 64)
    (hbefore : ∀ i (hi : i < before.length), canServe s q u (before.take i) false before[i] = false)
    (he : canServe s q u before false e = true) (hfails : e.fails s = false) :
    serveNext s q u (fun _ => true) false = some (e, serveEntry (takeEntry s q u (before ++ rest)) e) := by
  have hsplit : 64 - before.length = (63 - before.length) + 1 := by omega
  have htake : (before ++ e :: rest).take 64 = before ++ e :: rest.take (63 - before.length) := by
    rw [List.take_append, List.take_of_length_le (Nat.le_of_lt hlen), hsplit, List.take_succ_cons]
  have hdrop : (before ++ e :: rest).drop 64 = rest.drop (63 - before.length) := by
    rw [List.drop_append, List.drop_eq_nil_of_le (Nat.le_of_lt hlen), hsplit, List.drop_succ_cons, List.nil_append]
  have hfirst : firstReady s q u (fun _ => true) false [] (before ++ e :: rest.take (63 - before.length)) =
      some (before, e, rest.take (63 - before.length)) := by
    rw [firstReady_skip s q u _ false [] before _ hbefore, List.nil_append, firstReady, he, Bool.and_self, if_pos rfl]
  have hleft : before ++ rest.take (63 - before.length) ++ rest.drop (63 - before.length) = before ++ rest := by
    rw [List.append_assoc, List.take_append_drop]
  simp only [serveNext, hqueue, htake, hdrop, hfirst, hfails, hleft, Bool.false_eq_true, if_false]

theorem queueEntryFree_serves (s : State) (p : Fin 512) (u : Fin 4) (e : QEntry) (t : State)
    (h : serveNext s p u (fun _ => true) false = some (e, t)) : exec (.queueEntryFree p u) s = .next (pumpAll t) := by
  simp only [exec_queueEntryFree, execQueueEntryFree, h]

/-- With nothing in the queue, or none of it to be served, nothing happens. -/
theorem queueEntryFree_none (s : State) (p : Fin 512) (u : Fin 4)
    (h : ((s.slice p).sub u).queue = [] ∨ ((s.slice p).sub u).stopped = true) : exec (.queueEntryFree p u) s = .next s := by
  have hnone : firstReady s p u (fun _ => true) false [] (((s.slice p).sub u).queue.take 64) = none := by
    rcases h with hempty | hstopped
    · rw [hempty, List.take_nil, firstReady]
    · exact firstReady_none _ _ _ _ _ _ fun before e => canServe_stopped _ _ _ _ _ _ hstopped
  simp only [exec_queueEntryFree, execQueueEntryFree, serveNext, hnone]

/-- What lets the oldest access of a queue be served. -/
theorem canServe_oldest (s : State) (q u : Nat) (e : QEntry) (hold : e.untold = false) (hwin : e.windowed s = false)
    (hstop : ((s.slice q).sub u).stopped = false) (hresend : awaitsResend ((s.slice q).sub u) e.p e.off = false)
    (hopen : ∀ k, e.bank s = some k → openRow s q k = none) : canServe s q u [] false e = true := by
  simp only [canServe, hold, hwin, hstop, hresend, List.any_nil, Bool.not_false, Bool.and_self, Bool.true_and]
  cases hbank : e.bank s with
  | none => rfl
  | some k => simp only [hopen k hbank, Option.isNone_none, Bool.true_or]

/-! ### An entry is taken (R219, R222) -/

/-- The machine once a request that waited at its source has taken an entry: SC_CREDIT_WAIT counts its wait. -/
def creditTaken (s : State) (q : Nat) (left : List QEntry) : State :=
  match left[63]? with
  | some e => bump s (ctrSlice q 19) (24 * (s.now - e.at0) / 10)
  | none => s

theorem creditTaken_onlyCounters (s : State) (q : Nat) (left : List QEntry) : OnlyCounters s (creditTaken s q left) := by
  unfold creditTaken
  split
  · exact .bump ..
  · exact .refl s

theorem OnlyCounters.slice {s t : State} (h : OnlyCounters s t) (p : Nat) : t.slice p = s.slice p := by
  rw [h]
  rfl

theorem takeEntry_eq (s : State) (q u : Nat) (left : List QEntry) :
    takeEntry s q u left = modSub (creditTaken s q left) q u fun y => { y with queue := left } := rfl

theorem takeEntry_sub (s : State) (q u : Nat) (left : List QEntry) :
    ((takeEntry s q u left).slice q).sub u = { (s.slice q).sub u with queue := left } := by
  rw [takeEntry_eq, modSub, modSlice, setSlice_slice_self, Slice.setSub_sub, (creditTaken_onlyCounters s q left).slice]

theorem takeEntry_slice_ne (s : State) (q u : Nat) (left : List QEntry) (p : Nat) (h : p ≠ q) :
    (takeEntry s q u left).slice p = s.slice p := by
  rw [takeEntry_eq, modSub, modSlice, setSlice_slice_ne _ _ _ _ h, (creditTaken_onlyCounters s q left).slice]

theorem takeEntry_frame (s : State) (q u : Nat) (left : List QEntry) :
    { takeEntry s q u left with slices := s.slices, ctr := s.ctr } = s := by
  rw [takeEntry_eq, creditTaken_onlyCounters s q left]
  rfl

theorem takeEntry_ctr (s : State) (q u : Nat) (left : List QEntry) : (takeEntry s q u left).ctr = (creditTaken s q left).ctr := rfl

/-! ### Refresh (R242, R243, R245) -/

/-- Which sub-channel a bank slot is in, by layer and bank. -/
theorem slotSub_bank (layer : Fin 12) (bank : Fin 8) : slotSub (8 * layer.val + bank.val) = bank.val / 2 := by
  unfold slotSub
  omega

theorem Slice.setSub_refPend (x : Slice) (u : Nat) (y : SubCh) : (x.setSub u y).refPend = x.refPend :=
  x.setSub_keeps (·.refPend) u y fun _ _ _ _ => rfl

theorem Slice.setSub_refRow (x : Slice) (u : Nat) (y : SubCh) : (x.setSub u y).refRow = x.refRow :=
  x.setSub_keeps (·.refRow) u y fun _ _ _ _ => rfl

theorem noteSent_refPend (s : State) (q u n w : Nat) : ((noteSent s q u n w).slice q).refPend = (s.slice q).refPend := by
  rw [noteSent, modSub, modSlice, setSlice_slice_self, Slice.setSub_refPend]

theorem noteSent_refRow (s : State) (q u n w : Nat) : ((noteSent s q u n w).slice q).refRow = (s.slice q).refRow := by
  rw [noteSent, modSub, modSlice, setSlice_slice_self, Slice.setSub_refRow]

theorem OnlyCounters.noteSent_slice {s t : State} (h : OnlyCounters s t) (q u n w p : Nat) :
    (noteSent t q u n w).slice p = (noteSent s q u n w).slice p := by
  rw [h]
  rfl

/-- Refreshes of a bank are issued: they are counted, noted as sent, and no longer pending, and the bank's rows go round. -/
theorem refreshBank_counts (s : State) (q k n late : Nat) : ∃ v, OnlyCounters s v ∧
    tget zeroN v.ctr (ctrSlice q 30) = tget zeroN s.ctr (ctrSlice q 30) + n ∧
    refreshBank s q k n late = modSlice (noteSent v q (slotSub k) n) q fun x => { x with
      refPend := tset zeroN x.refPend k (tget zeroN x.refPend k - late)
      refRow := tset zeroN x.refRow k ((tget zeroN x.refRow k + n) % 8192) } := by
  have hbumps : OnlyCounters s (bump (bump s (ctrSlice q 30) n) (ctrSlice q 31) late) := (OnlyCounters.bump ..).trans (.bump ..)
  have hcount : tget zeroN (bump (bump s (ctrSlice q 30) n) (ctrSlice q 31) late).ctr (ctrSlice q 30) =
      tget zeroN s.ctr (ctrSlice q 30) + n := by
    rw [bump_ctrSlice_ne _ q q 30 31 _ (by decide) (by decide) (by decide), bump_ctr, if_pos rfl]
  refine ⟨_, .ite _ (hbumps.trans (.bump ..)) hbumps, ?_, rfl⟩
  exact iteInduction (motive := fun t : State => tget zeroN t.ctr (ctrSlice q 30) = tget zeroN s.ctr (ctrSlice q 30) + n)
    (fun _ => (bump_ctrSlice_ne _ q q 30 4 _ (by decide) (by decide) (by decide)).trans hcount) fun _ => hcount

/-- What the refreshes of a bank leave in its slice. -/
theorem refreshBank_slice (s : State) (q k n late : Nat) : (refreshBank s q k n late).slice q =
    { (noteSent s q (slotSub k) n).slice q with
      refPend := tset zeroN (s.slice q).refPend k (tget zeroN (s.slice q).refPend k - late)
      refRow := tset zeroN (s.slice q).refRow k ((tget zeroN (s.slice q).refRow k + n) % 8192) } := by
  obtain ⟨v, hv, -, hrefresh⟩ := refreshBank_counts s q k n late
  rw [hrefresh, modSlice, setSlice_slice_self, hv.noteSent_slice, noteSent_refPend, noteSent_refRow]

theorem refreshBank_refreshes (s : State) (q k n late : Nat) :
    tget zeroN (refreshBank s q k n late).ctr (ctrSlice q 30) = tget zeroN s.ctr (ctrSlice q 30) + n := by
  obtain ⟨v, -, hcount, hrefresh⟩ := refreshBank_counts s q k n late
  rw [hrefresh, modSlice, setSlice_ctr, noteSent_ctr, hcount]

/-- Whether no refresh of a bank falls due: without power, and in a retired sub-channel. -/
def RefreshOff (s : State) (p u : Nat) : Prop := logicRails s = false ∨ ((s.slice p).sub u).width = .retired

section
variable (s : State) (p : Fin 512) (layer : Fin 12) (bank : Fin 8)

theorem refreshOff_iff : (logicRails s = false ∨ isRetired s p (slotSub (8 * layer.val + bank.val)) = true) ↔
    RefreshOff s p (bank.val / 2) := by
  rw [slotSub_bank, isRetired, beq_iff_eq, RefreshOff]

theorem refreshDue_off (h : RefreshOff s p (bank.val / 2)) : exec (.refreshDue p layer bank) s = .next s := by
  simp only [exec_refreshDue, execRefreshDue, refreshOff_iff, h, if_true]

/-- While ordinary accesses to the bank are queued, up to four of its refreshes are held. -/
theorem refreshDue_held (hon : ¬ RefreshOff s p (bank.val / 2)) (hwait : bankWaits s p (8 * layer.val + bank.val) = true)
    (hfew : tget zeroN (s.slice p).refPend (8 * layer.val + bank.val) < 4) :
    exec (.refreshDue p layer bank) s = .next (setSlice s p { s.slice p with
      refPend := tset zeroN (s.slice p).refPend (8 * layer.val + bank.val)
        (tget zeroN (s.slice p).refPend (8 * layer.val + bank.val) + 1) }) := by
  simp only [exec_refreshDue, execRefreshDue, refreshOff_iff, hon, hwait, hfew, and_self, if_true, if_false, modSlice]

/-- Otherwise every pending refresh is issued with the one that falls due. -/
theorem refreshDue_issued (hon : ¬ RefreshOff s p (bank.val / 2))
    (hgo : bankWaits s p (8 * layer.val + bank.val) = false ∨ 4 ≤ tget zeroN (s.slice p).refPend (8 * layer.val + bank.val)) :
    exec (.refreshDue p layer bank) s = .next (refreshBank s p (8 * layer.val + bank.val)
      (tget zeroN (s.slice p).refPend (8 * layer.val + bank.val) + 1)
      (tget zeroN (s.slice p).refPend (8 * layer.val + bank.val))) := by
  have hnot : ¬ (bankWaits s p (8 * layer.val + bank.val) = true ∧ tget zeroN (s.slice p).refPend (8 * layer.val + bank.val) < 4) := by
    rintro ⟨hwait, hfew⟩
    rcases hgo with hidle | hfull
    · exact Bool.false_ne_true (hidle.symm.trans hwait)
    · omega
  simp only [exec_refreshDue, execRefreshDue, refreshOff_iff, hon, hnot, if_false]

end

/-! ### The return to the normal interval (R244) -/

/-- A tile that is not being timed is left alone. -/
theorem refreshNormalReturn_warm (s : State) (t : Fin 192) (h : tget zeroN s.therm.coolAt t = 0) :
    exec (.refreshNormalReturn t) s = .next s := by
  simp only [exec_refreshNormalReturn, execRefreshNormalReturn, h, if_true]

/-- The machine once a tile has returned to the normal interval. -/
def returned (s : State) (t : Nat) : State :=
  { s with therm := { s.therm with dbl := tset zeroB s.therm.dbl t false, coolAt := tset zeroN s.therm.coolAt t 0 } }

theorem returned_now (s : State) (t : Nat) : (returned s t).now = s.now := rfl
theorem returned_mem (s : State) (t : Nat) : (returned s t).mem = s.mem := rfl
theorem returned_dbl (s : State) (t : Nat) : (returned s t).therm.dbl = tset zeroB s.therm.dbl t false := rfl

/-- A tile that has been cool for 1 s returns to the normal interval. -/
theorem refreshNormalReturn_cool (s : State) (t : Fin 192) (h : tget zeroN s.therm.coolAt t ≠ 0) :
    exec (.refreshNormalReturn t) s = .next (returned (notBefore s (tget zeroN s.therm.coolAt t - 1 + 1000000000)) t) := by
  simp only [exec_refreshNormalReturn, execRefreshNormalReturn, h, if_false, returned]

end Sys2Proof.Machine

/-- Settles O31. A window is judged by its busiest sub-channel (`lt_busiest_iff`), the queue is searched past what cannot be served
(`firstReady_skip`), and refreshes are issued together (`refreshBank_slice`). That they are held while accesses wait, issued together and
never ahead is log entry 77; the order of service is log entry 88. -/
theorem banksKept : Obligations.BanksKept := by
  unfold Obligations.BanksKept
  refine ⟨fun s p => ⟨fun heven => ?_, fun hpeak hbusy hrun => ?_⟩, fun s p u => ⟨queueEntryFree_none s p u, ?_, ?_, ?_⟩,
    fun s p layer bank => ⟨refreshDue_off s p layer bank, refreshDue_held s p layer bank, fun hon hgo => ?_⟩,
    fun s t => ⟨refreshNormalReturn_warm s t, fun hcool => ?_⟩⟩
  · rw [← Slice.moved_eq] at heven
    exact imbalanceWindow_even s _ p rfl ((s.slice p).not_uneven heven)
  · obtain ⟨u, hu, hlt⟩ := hpeak
    refine imbalanceWindow_counts s _ p rfl ((s.slice p).uneven_of_peak u hu ?_ ?_) hrun
    · rw [Slice.moved_eq]
      exact hlt
    · rw [Slice.moved_eq, Slice.peak_eq]
      exact hbusy
  · intro e rest hqueue hold hwin hstop hresend hopen hfails
    have hserve := serveNext_serves s p u [] rest e hqueue (by decide) (fun i hi => absurd hi (Nat.not_lt_zero i))
      (canServe_oldest s p u e hold hwin hstop hresend hopen) hfails
    exact queueEntryFree_serves s p u e _ hserve
  · intro before rest e hqueue hlen hbefore he hfails
    exact queueEntryFree_serves s p u e _ (serveNext_serves s p u before rest e hqueue hlen hbefore he hfails)
  · intro rest
    refine ⟨takeEntry_sub s p u rest, takeEntry_slice_ne s p u rest, takeEntry_frame s p u rest, fun hshort => ?_, fun w hw => ?_⟩
    · rw [takeEntry_ctr, creditTaken, List.getElem?_eq_none (by omega)]
    · rw [takeEntry_ctr, creditTaken, hw, bump_ctr, if_pos rfl]
  · have hoff : slotSub (8 * layer.val + bank.val) = bank.val / 2 := slotSub_bank layer bank
    refine ⟨_, refreshDue_issued s p layer bank hon hgo, ?_, refreshBank_refreshes .., (refreshBank_sameBanks ..).frame⟩
    rw [refreshBank_slice, hoff, Nat.sub_self]
    rfl
  · have htherm : (notBefore s (tget zeroN s.therm.coolAt t - 1 + 1000000000)).therm = s.therm := by rw [notBefore_eq]
    refine ⟨_, refreshNormalReturn_cool s t hcool, ?_, ?_, fun i hi => ?_, ?_⟩
    · rw [returned_now, notBefore_eq]
    · rw [returned_dbl, tget_tset_self]
    · rw [returned_dbl, tget_tset_ne _ _ _ _ _ hi, htherm]
    · rw [returned_mem, notBefore_eq]
end

section
/-! The vertical links (R226 to R240): errors that a layer returns, the link test with its repairs, recentring, and the spare clock pair. -/

open Sys2Proof Sys2Proof.Machine

namespace Sys2Proof.Machine

/-! ### A sub-channel is written -/

@[simp] theorem modSub_sub (s : State) (p u : Nat) (f : SubCh → SubCh) : ((modSub s p u f).slice p).sub u = f ((s.slice p).sub u) := by
  rw [modSub, modSlice, setSlice_slice_self, Slice.setSub_sub]

theorem Slice.setSub_setSub (x : Slice) (u : Nat) (y z : SubCh) : (x.setSub u y).setSub u z = x.setSub u z :=
  match u with
  | 0 | 1 | 2 | _ + 3 => rfl

theorem modSub_modSub (s : State) (p u : Nat) (f g : SubCh → SubCh) : modSub (modSub s p u f) p u g = modSub s p u fun y => g (f y) := by
  simp only [modSub, modSlice, setSlice_slice_self, Slice.setSub_sub, Slice.setSub_setSub, setSlice_setSlice]

@[simp] theorem modSub_ctr (s : State) (p u : Nat) (f : SubCh → SubCh) : (modSub s p u f).ctr = s.ctr := rfl

theorem bump_modSub (s : State) (p u k n : Nat) (f : SubCh → SubCh) : bump (modSub s p u f) k n = modSub (bump s k n) p u f := rfl

theorem isRetired_iff (s : State) (p u : Nat) : isRetired s p u = true ↔ ((s.slice p).sub u).width = .retired := beq_iff_eq

theorem isRetired_false (s : State) (p u : Nat) (h : ((s.slice p).sub u).width ≠ .retired) : isRetired s p u = false :=
  beq_false_of_ne h

theorem notBefore_sub (s : State) (n p u : Nat) : ((notBefore s n).slice p).sub u = (s.slice p).sub u := by
  rw [(notBefore_onlyTime s n).slice]

theorem notBefore_now (s : State) (n : Nat) : (notBefore s n).now = max s.now n := by rw [notBefore_eq]

theorem bump_ctr_self (s : State) (k n : Nat) : tget zeroN (bump s k n).ctr k = tget zeroN s.ctr k + n := by rw [bump_ctr, if_pos rfl]

/-- From `s` to `t` nothing changes but slices and counters. -/
def OnlySlices (s t : State) : Prop := { t with slices := s.slices, ctr := s.ctr } = s

theorem OnlySlices.frame {s t : State} (h : OnlySlices s t) : { t with slices := s.slices, ctr := s.ctr } = s := h

theorem OnlySlices.refl (s : State) : OnlySlices s s := rfl

theorem OnlySlices.trans {s t u : State} (hst : OnlySlices s t) (htu : OnlySlices t u) : OnlySlices s u := by
  unfold OnlySlices at hst
  rw [← htu] at hst
  exact hst

theorem OnlyTime.mem {s t : State} (h : OnlyTime s t) : t.mem = s.mem := by rw [h]
theorem OnlyTime.crofts {s t : State} (h : OnlyTime s t) : t.crofts = s.crofts := by rw [h]

theorem OnlySlices.now {s t : State} (h : OnlySlices s t) : t.now = s.now := by rw [← h.frame]
theorem OnlySlices.mem {s t : State} (h : OnlySlices s t) : t.mem = s.mem := by rw [← h.frame]
theorem OnlySlices.crofts {s t : State} (h : OnlySlices s t) : t.crofts = s.crofts := by rw [← h.frame]
theorem OnlySlices.floor {s t : State} (h : OnlySlices s t) : t.floor = s.floor := by rw [← h.frame]

theorem OnlyCounters.onlySlices {s t : State} (h : OnlyCounters s t) : OnlySlices s t := by
  rw [h]
  exact .refl s

theorem OnlySlices.bump {s t : State} (h : OnlySlices s t) (k n : Nat) : OnlySlices s (bump t k n) := h

theorem OnlySlices.unbump {s t : State} (h : OnlySlices s t) (k n : Nat) : OnlySlices s (unbump t k n) := h

theorem OnlySlices.setSlice {s t : State} (h : OnlySlices s t) (p : Nat) (x : Slice) : OnlySlices s (setSlice t p x) := h

theorem OnlySlices.modSub {s t : State} (h : OnlySlices s t) (p u : Nat) (f : SubCh → SubCh) : OnlySlices s (modSub t p u f) := h

/-- After a wait, a counter of a slice is added to and a sub-channel is written. -/
theorem modSub_bump_waited (s v w : State) (p u n i k : Nat) (f : SubCh → SubCh) (hi : i < 64) (h32 : i ≠ 32) (hv : notBefore s n = v)
    (hw : modSub (bump v (ctrSlice p i) k) p u f = w) :
    (w.slice p).sub u = f ((s.slice p).sub u) ∧ tget zeroN w.ctr (ctrSlice p i) = tget zeroN s.ctr (ctrSlice p i) + k ∧
      w.now = v.now ∧ w.mem = s.mem ∧ w.crofts = s.crofts := by
  have htime : OnlyTime s v := hv ▸ notBefore_onlyTime s n
  have hframe : OnlySlices v w := hw ▸ ((OnlySlices.refl v).bump ..).modSub ..
  refine ⟨?_, ?_, hframe.now, hframe.mem.trans htime.mem, hframe.crofts.trans htime.crofts⟩
  · rw [← hw, modSub_sub, bump_slice_of, htime.slice]
  · rw [← hw, modSub_ctr, bump_ctr_self, ← hv, notBefore_ctrSlice s n p i hi h32]

/-! ### Errors that a layer returns (R228 to R230, R232) -/

/-- What a sub-channel has sent in the 8 ns before now. -/
def SubCh.recent (y : SubCh) (now : Nat) : List (Nat × Nat × Nat) := y.sent.filter fun e => decide (now ≤ e.1 + 8)

/-- Commands and write granules that an error return has resent. -/
def SubCh.resent (y : SubCh) (now : Nat) : Nat := ((y.recent now).map fun e => e.2.1 + e.2.2).foldl (· + ·) 0

/-- A layer refuses a command whose CRC fails, and a write granule that waits to be resent or was sent in the 8 ns before. -/
def SubCh.refused (y : SubCh) (now : Nat) (cmd : Bool) (word : BitVec 60) : Prop :=
  if cmd then cmdGood word = false else y.resend ≠ [] ∨ ∃ e ∈ y.recent now, 0 < e.2.2

/-- The machine once an error return and what is resent are counted. -/
def returnCounted (s : State) (p u : Nat) : State :=
  bump (bump s (ctrSlice p 20) 1) (ctrSlice p 21) (((s.slice p).sub u).resent s.now)

/-- The links that what has failed used: every command link, and for a granule the data links of its width. -/
def SubCh.usedLinks (y : SubCh) (cmd : Bool) : List Nat := if cmd then cmdLinks else linksOf y.width ++ cmdLinks

theorem SubCh.refused_iff (y : SubCh) (now : Nat) (cmd : Bool) (word : BitVec 60) :
    (if cmd then !cmdGood word else !y.resend.isEmpty || (y.recent now).any fun e => decide (0 < e.2.2)) = true ↔
      y.refused now cmd word := by
  cases cmd with
  | true => simp only [SubCh.refused, if_true, Bool.not_eq_true']
  | false =>
    simp only [SubCh.refused, Bool.false_eq_true, if_false, Bool.or_eq_true, Bool.not_eq_true', List.isEmpty_eq_false_iff,
      List.any_eq_true, decide_eq_true_eq]

/-- A sub-channel whose resends that fail are counted anew. -/
def SubCh.triesOver (y : SubCh) : SubCh := { y with tries := 0 }

section
variable (s : State) (p : Fin 512) (u : Fin 4) (cmd : Bool) (word : BitVec 60) (again : Bool)

/-- An error return without cause, and one of a retired or held sub-channel, is left alone. -/
theorem errorReturn_ignored (h : ((s.slice p).sub u).width = .retired ∨ ((s.slice p).sub u).held = true ∨
    ¬ ((s.slice p).sub u).refused s.now cmd word) : exec (.errorReturn p u cmd word again) s = .next s := by
  rw [← isRetired_iff, ← SubCh.refused_iff, Bool.not_eq_true] at h
  exact congrArg Host.Outcome.next (if_pos h)

/-- An error return is counted; then the resent copies arrive, or fail once more, or have failed three times. -/
theorem errorReturn_refused (hwidth : ((s.slice p).sub u).width ≠ .retired) (hheld : ((s.slice p).sub u).held = false)
    (hfails : ((s.slice p).sub u).refused s.now cmd word) : exec (.errorReturn p u cmd word again) s =
      .next (if again = false then pumpAll (storeResent (returnCounted s p u) p u)
        else if ((s.slice p).sub u).tries + 1 < 3 then modSub (returnCounted s p u) p u fun y => { y with tries := y.tries + 1 }
        else suspectLinks (modSub (returnCounted s p u) p u SubCh.triesOver) p u (((s.slice p).sub u).usedLinks cmd)) := by
  rw [← SubCh.refused_iff] at hfails
  refine congrArg Host.Outcome.next (if_neg ?_)
  rintro (hretired | hheld' | hgood)
  · exact hwidth ((isRetired_iff s p u).1 hretired)
  · exact Bool.false_ne_true (hheld.symm.trans hheld')
  · exact Bool.false_ne_true (hgood.symm.trans hfails)

end

/-- A sub-channel whose resent copies have arrived. -/
def SubCh.arrived (y : SubCh) : SubCh := { y with resend := [], tries := 0 }

theorem storeResent_none (s : State) (p u : Nat) (h : ((s.slice p).sub u).resend = []) :
    storeResent s p u = modSub s p u SubCh.arrived := by
  rw [storeResent, h]
  rfl

theorem storeResent_one (s : State) (p u : Nat) (r : Nat × Nat × List Byte × Bool) (h : ((s.slice p).sub u).resend = [r]) :
    storeResent s p u =
      writeGran (modSub s p u SubCh.arrived) r.1 (sliceIndex (modSub s p u SubCh.arrived) r.1) r.2.1 r.2.2.1 r.2.2.2 .square .source := by
  rw [storeResent, h]
  rfl

/-- A sub-channel held with every link of a list suspect. -/
def SubCh.suspecting (y : SubCh) (now : Nat) (links : List Nat) : SubCh :=
  { y with suspect := y.suspect ++ links.filter fun l => ¬ y.suspect.contains l, held := true, heldAt := if y.held then y.heldAt else now }

theorem SubCh.mem_suspecting (y : SubCh) (now : Nat) (links : List Nat) (l : Nat) (h : l ∈ links) : l ∈ (y.suspecting now links).suspect := by
  by_cases hl : l ∈ y.suspect
  · exact List.mem_append_left _ hl
  · exact List.mem_append_right _ (List.mem_filter.2 ⟨h, by simpa using hl⟩)

/-- Links of which one is not suspect yet become suspect. -/
theorem suspectLinks_new (s : State) (p u : Nat) (links : List Nat) (h : ∃ l ∈ links, l ∉ ((s.slice p).sub u).suspect) :
    ∃ n, suspectLinks s p u links = bump (modSub s p u fun y => y.suspecting s.now links) (ctrSlice p 23) n := by
  obtain ⟨l, hl, hnew⟩ := h
  have hsome : (links.filter fun l => ¬ ((s.slice p).sub u).suspect.contains l).isEmpty = false :=
    List.isEmpty_eq_false_iff.2 (List.ne_nil_of_mem (List.mem_filter.2 ⟨hl, by simpa using hnew⟩))
  rw [suspectLinks, hsome]
  exact ⟨_, rfl⟩

/-- The third resend that fails holds the sub-channel, with every link that it used suspect. -/
theorem errorReturn_suspects (s : State) (p : Fin 512) (u : Fin 4) (cmd : Bool) (word : BitVec 60)
    (hwidth : ((s.slice p).sub u).width ≠ .retired) (hheld : ((s.slice p).sub u).held = false)
    (hfails : ((s.slice p).sub u).refused s.now cmd word) (htries : 2 ≤ ((s.slice p).sub u).tries)
    (hnew : ∃ l ∈ ((s.slice p).sub u).usedLinks cmd, l ∉ ((s.slice p).sub u).suspect) :
    ∃ t, exec (.errorReturn p u cmd word true) s = .next t ∧ OnlySlices s t ∧
      (t.slice p).sub u = ((s.slice p).sub u).triesOver.suspecting s.now (((s.slice p).sub u).usedLinks cmd) := by
  have hsub : ((modSub (returnCounted s p u) p u SubCh.triesOver).slice p).sub u = ((s.slice p).sub u).triesOver := modSub_sub ..
  obtain ⟨n, hn⟩ := suspectLinks_new (modSub (returnCounted s p u) p u SubCh.triesOver) p u (((s.slice p).sub u).usedLinks cmd)
    (by rw [hsub]; exact hnew)
  refine ⟨bump (modSub (modSub (returnCounted s p u) p u SubCh.triesOver) p u
    fun y => y.suspecting s.now (((s.slice p).sub u).usedLinks cmd)) (ctrSlice p 23) n, ?_, ?_, ?_⟩
  · rw [errorReturn_refused s p u cmd word true hwidth hheld hfails, if_neg Bool.false_ne_true.symm, if_neg (by omega)]
    exact congrArg Host.Outcome.next hn
  · exact ((((OnlySlices.refl s).bump ..).bump ..).modSub ..).modSub .. |>.bump ..
  · rw [bump_slice_of, modSub_sub, hsub]

/-! ### Links pass their test (R232) -/

/-- Where no link failed, no stored correction is withdrawn. -/
theorem withdraw_nil (s : State) (p u : Nat) : withdraw s p u [] =
    unbump (unbump (setSlice s p (s.slice p)) (ctrSlice p 33) 0) (ctrSlice p 34) 0 := by
  have hnone : ∀ hits : List LinkHit, (hits.filter fun h => ([] : List Nat).contains h.link) = [] := fun hits =>
    List.filter_eq_nil_iff.2 fun _ _ => Bool.false_ne_true
  have htrack : ∀ ts : List Track, (ts.filter fun t => !(([] : List Corr).any fun c => c.loc == t.loc)) = ts := fun ts =>
    List.filter_eq_self.2 fun t _ => rfl
  simp only [withdraw, hnone, List.filterMap_nil, List.eraseDups_nil, htrack, modSlice, List.length_nil, Nat.sub_zero, List.filter_nil]

/-- A sub-channel whose suspect links have passed. -/
def SubCh.passed (y : SubCh) : SubCh :=
  { y with held := false, suspect := [], tries := 0, resend := [], hits := y.hits.filter fun h => ¬ y.suspect.contains h.link }

/-- The hold of a sub-channel to which nothing is to be resent ends. -/
theorem releaseHold_passed (s : State) (p u : Nat) (h : ((s.slice p).sub u).resend = []) :
    ∃ v, OnlyCounters s v ∧ releaseHold s p u = modSub v p u SubCh.passed := by
  have hcount : OnlyCounters s (countHold s p u) := .ite _ (.bump ..) (.refl s)
  refine ⟨_, hcount, ?_⟩
  rw [releaseHold, storeResent_none, modSub_modSub]
  · rfl
  · rw [modSub_sub, hcount.slice]
    exact h

/-- A test that every suspect link passes ends the hold and judges no link. -/
theorem linkTestDone_passed (s v : State) (p : Fin 512) (u : Fin 4) (hheld : ((s.slice p).sub u).held = true)
    (hv : notBefore s (((s.slice p).sub u).heldAt + 1064) = v) : exec (.linkTestDone p u []) s =
      .next (pumpAll (releaseHold (modSub (withdraw v p u []) p u fun _ => (s.slice p).sub u) p u)) := by
  subst hv
  exact congrArg Host.Outcome.next (if_pos hheld)

theorem withdraw_nil_onlySlices (s : State) (p u : Nat) : OnlySlices s (withdraw s p u []) := by
  rw [withdraw_nil]
  exact (((OnlySlices.refl s).setSlice ..).unbump ..).unbump ..

theorem SubCh.passed_eq (y : SubCh) (h : y.resend = []) : y.passed =
    { y with held := false, suspect := [], tries := 0, hits := y.hits.filter fun h => ¬ y.suspect.contains h.link } := by
  cases y
  cases h
  rfl

/-- A passed test with nothing to resend and no record waiting: the hold ends at the end of the test. -/
theorem linkTestDone_releases (s : State) (p : Fin 512) (u : Fin 4) (hheld : ((s.slice p).sub u).held = true)
    (hresend : ((s.slice p).sub u).resend = []) (hq : ∀ e ∈ s.queues, e.2.sent = false) (hev : s.dev.evSent = false) :
    ∃ t, exec (.linkTestDone p u []) s = .next t ∧ OnlySlices (notBefore s (((s.slice p).sub u).heldAt + 1064)) t ∧
      (t.slice p).sub u = ((s.slice p).sub u).passed := by
  generalize hv : notBefore s (((s.slice p).sub u).heldAt + 1064) = v
  have hkept : OnlySlices v (modSub (withdraw v p u []) p u fun _ => (s.slice p).sub u) := (withdraw_nil_onlySlices v p u).modSub ..
  obtain ⟨x, hx, hrelease⟩ := releaseHold_passed (modSub (withdraw v p u []) p u fun _ => (s.slice p).sub u) p u
    (by rw [modSub_sub]; exact hresend)
  have ht : OnlySlices v (modSub x p u SubCh.passed) := (hkept.trans hx.onlySlices).modSub ..
  have hqueues : (modSub x p u SubCh.passed).queues = s.queues :=
    (congrArg State.queues ht).trans (by rw [← hv, (notBefore_onlyTime s _).queues])
  have hsent : (modSub x p u SubCh.passed).dev.evSent = false :=
    (congrArg (·.dev.evSent) ht).trans (by rw [← hv, notBefore_evSent, hev])
  refine ⟨_, (linkTestDone_passed s v p u hheld hv).trans ?_, ht, ?_⟩
  · rw [hrelease, pumpAll_none _ (by rw [hqueues]; exact hq) hsent]
  · rw [modSub_sub, hx.slice, modSub_sub]

/-! ### A data link has failed (R233, R235, R236) -/

/-- The sub-channel folds to the half that is not the failed link's (R235). -/
def Judged.fold (j : Judged) (l : Nat) : Judged :=
  { j with
    sub := { j.sub with width := foldAway l, badLink := j.sub.badLink ++ [l], early := true }
    folded := some (foldAway l)
    perm := j.perm ++ [l] }

/-- Neither a spare nor a fold is left: the sub-channel retires (R236). -/
def Judged.giveUp (j : Judged) (l : Nat) : Judged := { j with retire := true, perm := j.perm ++ [l] }

section
variable (j : Judged) (l : Nat) (hretire : j.retire = false) (hin : inWidth j.sub.width l = true) (hgood : l ∉ j.sub.badLink)
include hretire hin hgood

/-- A failed link of the working width is judged by its group's spare, and then by what can fold. -/
theorem judgeData_judged : judgeData j l =
    if j.sub.spUsed.getLsbD (linkGroup l) = false then j.spare l
    else if j.sub.width = .full ∧ j.sub.badLink.all (fun m => linkHalf m == linkHalf l) = true then j.fold l
    else j.giveUp l := by
  have hcontains : j.sub.badLink.contains l = false := by simpa using hgood
  have hjudged : ¬ (j.retire || !inWidth j.sub.width l || j.sub.badLink.contains l) = true := by
    rw [hretire, hin, hcontains]
    exact Bool.false_ne_true
  exact if_neg hjudged

theorem judgeData_spare (hfree : j.sub.spUsed.getLsbD (linkGroup l) = false) : judgeData j l = j.spare l := by
  rw [judgeData_judged j l hretire hin hgood, if_pos hfree]

theorem judgeData_fold (hused : j.sub.spUsed.getLsbD (linkGroup l) = true) (hfull : j.sub.width = .full)
    (hhalf : j.sub.badLink.all (fun m => linkHalf m == linkHalf l) = true) : judgeData j l = j.fold l := by
  rw [judgeData_judged j l hretire hin hgood, if_neg (Bool.not_eq_false _ ▸ hused), if_pos ⟨hfull, hhalf⟩]

theorem judgeData_giveUp (hused : j.sub.spUsed.getLsbD (linkGroup l) = true) (hfolded : j.sub.width ≠ .full) : judgeData j l = j.giveUp l := by
  rw [judgeData_judged j l hretire hin hgood, if_neg (Bool.not_eq_false _ ▸ hused), if_neg fun h => hfolded h.1]

end

/-! ### Recentring (R239, R240) -/

/-- A sampling point moves by at most two steps. -/
theorem movePoint_near (t : Table Int) (x : Eye) :
    tget zeroI t x.key - 2 ≤ tget zeroI (movePoint t x) x.key ∧ tget zeroI (movePoint t x) x.key ≤ tget zeroI t x.key + 2 := by
  rw [movePoint, tget_tset_self]
  omega

theorem marginalLinks_wide (eyes : List Eye) (h : ∀ x ∈ eyes, 35 ≤ x.2.2.2.1) : marginalLinks eyes = [] := by
  have hnone : (eyes.filter fun x => decide (20 ≤ x.2.2.2.1 ∧ x.2.2.2.1 < 35)) = [] :=
    List.filter_eq_nil_iff.2 fun x hx => by simpa using fun _ => h x hx
  rw [marginalLinks, hnone]
  rfl

theorem foldl_eyeOf_wide (p u : Nat) (eyes : List Eye) (h : ∀ x ∈ eyes, 35 ≤ x.2.2.2.1) (s : State) : eyes.foldl (eyeOf p u) s = s := by
  induction eyes with
  | nil => rfl
  | cons x eyes ih =>
    have hx := h x (.head _)
    have heye : eyeOf p u s x = s := by rw [eyeOf, if_neg (by omega), if_neg (by omega)]
    rw [List.foldl_cons, heye]
    exact ih fun y hy => h y (.tail x hy)

/-- A sub-channel recentred at a time: every eye was wide. -/
def SubCh.recentred (y : SubCh) (now : Nat) (eyes : List Eye) : SubCh :=
  { y with passAt := now, margin := false, lowRuns := [], sample := eyes.foldl movePoint y.sample }

section
variable (s : State) (p : Fin 512) (u : Fin 4) (eyes : List (Fin 336 × Fin 12 × Fin 2 × Nat × Int))

theorem recentringPass_skipped (h : ((s.slice p).sub u).width = .retired ∨ (s.croft p).mig = true) :
    exec (.recentringPass p u eyes) s = .next s := by
  rw [← isRetired_iff, ← Bool.or_eq_true] at h
  exact congrArg Host.Outcome.next (if_pos h)

theorem recentringPass_due (hwidth : ((s.slice p).sub u).width ≠ .retired) (hmig : (s.croft p).mig = false) :
    ¬ (isRetired s p u || (s.croft p).mig) = true := by
  rw [isRetired_false s p u hwidth, hmig]
  exact Bool.false_ne_true

/-- A held sub-channel is skipped until its next period. -/
theorem recentringPass_held (v : State) (hwidth : ((s.slice p).sub u).width ≠ .retired) (hmig : (s.croft p).mig = false)
    (hheld : ((s.slice p).sub u).held = true) (hv : notBefore s (((s.slice p).sub u).passAt + 2000000000) = v) :
    exec (.recentringPass p u eyes) s = .next (modSub v p u fun y => { y with passAt := v.now }) := by
  subst hv
  exact congrArg Host.Outcome.next ((if_neg (recentringPass_due s p u hwidth hmig)).trans (if_pos hheld))

/-- A pass that finds every eye wide is counted, and may change the floor plan's generation. -/
theorem recentringPass_wide (v w : State) (hwidth : ((s.slice p).sub u).width ≠ .retired) (hmig : (s.croft p).mig = false)
    (hheld : ((s.slice p).sub u).held = false) (hwide : ∀ x ∈ eyes, 35 ≤ x.2.2.2.1)
    (hv : notBefore s (((s.slice p).sub u).passAt + 2000000000) = v)
    (hw : modSub (bump v (ctrSlice p 28) 1) p u (fun y => y.recentred v.now eyes) = w) :
    ∃ f, exec (.recentringPass p u eyes) s = .next { w with floor := f } := by
  have hsub : (modSub (bump (modSub v p u fun y => { y with passAt := v.now }) (ctrSlice p 28) 1) p u fun y => { y with
      sample := eyes.foldl movePoint y.sample, margin := false, lowRuns := [], early := y.early || false }) =
        w := by
    rw [← hw, bump_modSub, modSub_modSub]
    simp only [Bool.or_false, SubCh.recentred]
  subst hv
  refine ⟨if ((s.slice p).sub u).margin = false then w.floor else { w.floor with gen := w.floor.gen + 1 },
    congrArg Host.Outcome.next ((if_neg (recentringPass_due s p u hwidth hmig)).trans ((if_neg (Bool.eq_false_iff.1 hheld)).trans ?_))⟩
  rw [marginalLinks_wide eyes hwide, foldl_eyeOf_wide p u eyes hwide]
  refine (congrArg (fun w => if ((s.slice p).sub u).margin = false then w else genUp w) hsub).trans ?_
  split <;> rfl

/-- What such a pass leaves. The machines after the wait and after the pass have names, `v` and `w`, so that nothing computes with them. -/
theorem recentringPass_counts (v w : State) (hwidth : ((s.slice p).sub u).width ≠ .retired) (hmig : (s.croft p).mig = false)
    (hheld : ((s.slice p).sub u).held = false) (hwide : ∀ x ∈ eyes, 35 ≤ x.2.2.2.1)
    (hv : notBefore s (((s.slice p).sub u).passAt + 2000000000) = v)
    (hw : modSub (bump v (ctrSlice p 28) 1) p u (fun y => y.recentred v.now eyes) = w) :
    ∃ t, exec (.recentringPass p u eyes) s = .next t ∧ t.now = max s.now (((s.slice p).sub u).passAt + 2000000000) ∧
      (t.slice p).sub u = ((s.slice p).sub u).recentred t.now eyes ∧
      tget zeroN t.ctr (ctrSlice p 28) = tget zeroN s.ctr (ctrSlice p 28) + 1 ∧ t.mem = s.mem ∧ t.crofts = s.crofts := by
  obtain ⟨f, hexec⟩ := recentringPass_wide s p u eyes v w hwidth hmig hheld hwide hv hw
  obtain ⟨hsub, hcount, hnow, hmem, hcrofts⟩ := modSub_bump_waited s v w p u _ 28 1 _ (by decide) (by decide) hv hw
  refine ⟨_, hexec, hnow.trans ?_, ?_, hcount, hmem, hcrofts⟩
  · rw [← hv, notBefore_now]
  · exact hsub.trans (congrArg (((s.slice p).sub u).recentred · eyes) hnow.symm)

end

/-- A pass without idle beats inserts what 10 µs still allow (R239). -/
theorem idleBeatInsert_inserts (s v : State) (p : Fin 512) (u : Fin 4) (n : Nat) (hwidth : ((s.slice p).sub u).width ≠ .retired)
    (hheld : ((s.slice p).sub u).held = false) (hmig : (s.croft p).mig = false)
    (hv : notBefore s (((s.slice p).sub u).passAt + 2010000000) = v) :
    let last := ((s.slice p).sub u).beats.filter fun b => decide (v.now < b.1 + 10000)
    let k := min n (64 - (last.map (·.2)).foldl (· + ·) 0)
    exec (.idleBeatInsert p u n) s =
      .next (modSub (bump v (ctrSlice p 29) k) p u fun y => { y with beats := last ++ [(v.now, k)] }) := by
  have hnot : ¬ (isRetired s p u || ((s.slice p).sub u).held || (s.croft p).mig) = true := by
    rw [isRetired_false s p u hwidth, hheld, hmig]
    exact Bool.false_ne_true
  refine (congrArg Host.Outcome.next (if_neg hnot)).trans ?_
  have hsub : (v.slice p).sub u = (s.slice p).sub u := by rw [← hv, notBefore_sub]
  simp only [hv, hsub]

/-- What such a pass leaves. -/
theorem idleBeatInsert_counts (s : State) (p : Fin 512) (u : Fin 4) (n : Nat) (hwidth : ((s.slice p).sub u).width ≠ .retired)
    (hheld : ((s.slice p).sub u).held = false) (hmig : (s.croft p).mig = false) :
    ∃ t, exec (.idleBeatInsert p u n) s = .next t ∧ t.now = max s.now (((s.slice p).sub u).passAt + 2010000000) ∧
      (let last := ((s.slice p).sub u).beats.filter fun b => decide (t.now < b.1 + 10000)
       let k := min n (64 - (last.map (·.2)).foldl (· + ·) 0)
       (t.slice p).sub u = { (s.slice p).sub u with beats := last ++ [(t.now, k)] } ∧
         tget zeroN t.ctr (ctrSlice p 29) = tget zeroN s.ctr (ctrSlice p 29) + k) ∧
      t.mem = s.mem ∧ t.crofts = s.crofts := by
  generalize hv : notBefore s (((s.slice p).sub u).passAt + 2010000000) = v
  have hexec := idleBeatInsert_inserts s v p u n hwidth hheld hmig hv
  obtain ⟨hsub, hcount, hnow, hmem, hcrofts⟩ := modSub_bump_waited s v _ p u _ 29 _ _ (by decide) (by decide) hv rfl
  refine ⟨_, hexec, hnow.trans ?_, ?_, hmem, hcrofts⟩
  · rw [← hv, notBefore_now]
  · rw [hnow]
    exact ⟨hsub, hcount⟩

/-! ### What is reported while the event ring is disabled (R350, R352, R384, R386) -/

/-- From `s` to `t` errors and events have been counted, logged and reported, but no record written: the ring stays as configured. -/
structure Reported (s t : State) : Prop where
  frame : { t with
    dev := s.dev, ctr := s.ctr, link := s.link, i3c := s.i3c, elog := s.elog, elogN := s.elogN, sqBucket := s.sqBucket } = s
  evcfg : t.dev.evcfg = s.dev.evcfg

theorem Reported.refl (s : State) : Reported s s := ⟨rfl, rfl⟩

theorem Reported.trans {s t u : State} (hst : Reported s t) (htu : Reported t u) : Reported s u := by
  refine ⟨?_, htu.evcfg.trans hst.evcfg⟩
  have hframe := hst.frame
  rw [← htu.frame] at hframe
  exact hframe

theorem Reported.ite {s t u : State} (c : Prop) [Decidable c] (ht : Reported s t) (hu : Reported s u) : Reported s (if c then t else u) := by
  split
  · exact ht
  · exact hu

theorem Reported.evEn {s t : State} (h : Reported s t) : evEn t.dev = evEn s.dev := congrArg (BitVec.getLsbD · 0) h.evcfg

theorem Reported.slice {s t : State} (h : Reported s t) (p : Nat) : t.slice p = s.slice p := by
  have hslice := congrArg (State.slice · p) h.frame
  exact hslice

theorem Reported.floor {s t : State} (h : Reported s t) : t.floor = s.floor := by
  have hfloor := congrArg State.floor h.frame
  exact hfloor

theorem Reported.now {s t : State} (h : Reported s t) : t.now = s.now := by
  have hnow := congrArg State.now h.frame
  exact hnow

theorem Reported.mem {s t : State} (h : Reported s t) : t.mem = s.mem := by
  have hmem := congrArg State.mem h.frame
  exact hmem

theorem Reported.crofts {s t : State} (h : Reported s t) : t.crofts = s.crofts := by
  have hcrofts := congrArg State.crofts h.frame
  exact hcrofts

theorem Reported.withFloor {s t : State} (h : Reported s t) (f : Floor) : Reported { s with floor := f } { t with floor := f } := by
  have hframe := congrArg (fun v : State => { v with floor := f }) h.frame
  exact ⟨hframe, h.evcfg⟩

theorem bump_reported (s : State) (k n : Nat) : Reported s (bump s k n) := ⟨rfl, rfl⟩

theorem logError_reported (s : State) (r : LogRec) : Reported s (logError s r) := .ite _ ⟨rfl, rfl⟩ ⟨rfl, rfl⟩

theorem setErr_reported (s : State) (i : Nat) : Reported s (setErr s i) := ⟨rfl, rfl⟩

theorem setDevBit_reported (s : State) (i : Nat) : Reported s (setDevBit s i) := ⟨rfl, rfl⟩

theorem alertFor_reported (s : State) (code sev : Nat) : Reported s (alertFor s code sev) := .ite _ ⟨rfl, rfl⟩ ⟨rfl, rfl⟩

theorem noteEvent_reported (s : State) (code sev : Nat) : Reported s (noteEvent s code sev) := by
  have hafter : ∀ t i, Reported s t → Reported s (if 2 ≤ sev then alertFor (setDevBit t i) code sev else setDevBit t i) := fun t i ht =>
    .ite _ ((ht.trans (setDevBit_reported t i)).trans (alertFor_reported ..)) (ht.trans (setDevBit_reported t i))
  unfold noteEvent
  cases errBit code with
  | none => exact hafter s _ (.refl s)
  | some i => exact hafter _ _ (setErr_reported s i)

theorem eseqUp_reported (s : State) : Reported s { s with dev := { s.dev with eseq := s.dev.eseq + 1 } } := ⟨rfl, rfl⟩

theorem fatal_reported (s : State) : Reported s { s with dev := { s.dev with fatal := true, critLost := true } } := ⟨rfl, rfl⟩

theorem evDrop_reported (s : State) (r : BitVec 256) : Reported s (evDrop s r) := ⟨rfl, rfl⟩

section
variable (s : State) (h : evEn s.dev = false)
include h

/-- While the ring is disabled the record of an event is dropped. -/
theorem raise_reported (code sev : Nat) (fs : List (Nat × Nat × Nat)) : Reported s (raise s code sev fs) := by
  have hflush : flushLost s = s := if_neg fun hdue => Bool.false_ne_true (h.symm.trans hdue.2.1)
  have hnote := noteEvent_reported s code sev
  have hoff : evEn (noteEvent s code sev).dev = false := hnote.evEn.trans h
  rw [raise, hflush, raiseOne, if_neg fun hroom => Bool.false_ne_true (hoff.symm.trans hroom.1)]
  exact (hnote.trans (eseqUp_reported _)).trans (evDrop_reported ..)

/-- An error of a memory of the square is counted, logged, and enters the square's bucket. -/
theorem otherError_reported (ue : Bool) (src : Src) (addr : Nat) : Reported s (otherError s none ue src addr) := by
  have hlog : ∀ k e, Reported s (logError (bump s k 1) e) := fun k e => (bump_reported s k 1).trans (logError_reported _ e)
  have hbucket : ∀ t, Reported s t → Reported s (addSqBucket t) := fun t ht => by
    have hset : Reported s { t with sqBucket := (bucketAdd t.sqBucket).1 } := ht.trans ⟨rfl, rfl⟩
    have hbump := hset.trans (bump_reported _ (ctrSquare 28) 1)
    exact .ite _ (hbump.trans (raise_reported _ (hbump.evEn.trans h) ..)) hset
  exact hbucket _ (hlog _ _)

theorem copyFind_reported {α : Type} (kind idx : Nat) (c : Copy α) : Reported s (copyFind kind idx s c) :=
  .ite _ (otherError_reported s h ..) (.ite _ (otherError_reported s h ..) (.refl s))

theorem copiesFind_reported {α : Type} (kind idx : Nat) (cs : List (Copy α)) : Reported s (cs.foldl (copyFind kind idx) s) := by
  induction cs generalizing s with
  | nil => exact .refl s
  | cons c cs ih =>
    have hc := copyFind_reported s h kind idx c
    exact hc.trans (ih _ (hc.evEn.trans h))

omit h in
theorem countRewrite_reported (kind idx n : Nat) : Reported s (countRewrite s kind idx n) :=
  .ite _ (.refl s) ((bump_reported ..).trans (logError_reported ..))

theorem lostWord_reported (kind idx : Nat) : Reported s (lostWord s kind idx) := by
  have hlog := logError_reported s { etype := 11, source := 8, pcroft := 0xFFFF, addr := kind + idx * 2 ^ 8 }
  have hset := hlog.trans (fatal_reported _)
  exact hset.trans (raise_reported _ (hset.evEn.trans h) ..)

/-- A vote over a critical word. -/
theorem voteWord_reported {α : Type} [DecidableEq α] (t : Tri α) (kind idx : Nat) : Reported s (voteWord t kind idx s).2 := by
  have hfind := copiesFind_reported s h kind idx [t.c0, t.c1, t.c2]
  unfold voteWord
  split
  · exact .refl s
  · split
    · exact hfind.trans (countRewrite_reported ..)
    · exact hfind.trans (lostWord_reported _ (hfind.evEn.trans h) ..)

theorem voteDefects_reported : ∃ m, Reported { s with floor := { s.floor with defects := m } } (voteDefects s) := by
  by_cases hclean : s.floor.defects.clean = true
  · exact ⟨s.floor.defects, by rw [voteDefects, if_pos hclean]; exact .refl s⟩
  · have hvote := voteWord_reported s h s.floor.defects 0 0
    refine ⟨(voteWord s.floor.defects 0 0 s).1, ?_⟩
    rw [voteDefects, if_neg hclean]
    simp only [hvote.floor]
    exact hvote.withFloor _

/-- A new entry of the defect map is counted, raises the floor plan's generation, and is reported (R405, R429). -/
theorem newDefect_reported (kind unit loc : Nat) :
    Reported { s with floor := { s.floor with unsaved := true, gen := s.floor.gen + 1 } } (newDefect s kind unit loc) := by
  have hbump := bump_reported { s with floor := { s.floor with unsaved := true, gen := s.floor.gen + 1 } } (ctrSquare 43) 1
  exact hbump.trans (raise_reported _ (hbump.evEn.trans h) ..)

end

/-- A new defect enters the runtime defect map, and is reported. -/
theorem addDefect_enters (s : State) (d : UnitFault) (h : evEn s.dev = false) :
    ∃ f, Reported { s with floor := f } (addDefect s d) ∧ s.floor.gen ≤ f.gen ∧ d ∈ f.defects.use := by
  obtain ⟨m, hvote⟩ := voteDefects_reported s h
  have hoff : evEn (voteDefects s).dev = false := hvote.evEn.trans h
  have hfloor : (voteDefects s).floor = { s.floor with defects := m } := hvote.floor
  obtain ⟨many, hadd⟩ : ∃ many : Bool, addDefect s d =
      if (voteDefects s).floor.defects.use.contains d && !many then voteDefects s
      else newDefect { voteDefects s with
          floor := { (voteDefects s).floor with defects := Tri.same ((voteDefects s).floor.defects.use ++ [d]) } }
        (defectFields d).1 (defectFields d).2.1 (defectFields d).2.2 := ⟨_, rfl⟩
  rw [hadd]
  generalize voteDefects s = v at hvote hoff hfloor
  split
  · rename_i hknown
    have hmem : v.floor.defects.use.contains d = true := (Bool.and_eq_true_iff.1 hknown).1
    rw [hfloor] at hmem
    exact ⟨_, hvote, Nat.le_refl _, List.contains_iff_mem.1 hmem⟩
  · have hnew := newDefect_reported { v with floor := { v.floor with defects := Tri.same (v.floor.defects.use ++ [d]) } } hoff
      (defectFields d).1 (defectFields d).2.1 (defectFields d).2.2
    refine ⟨_, (hvote.withFloor _).trans hnew, ?_, ?_⟩
    · simp only [hfloor]
      omega
    · simp only [Tri.same_use]
      exact List.mem_append_right _ (.head _)

/-! ### The spare clock pair (R233, R234) -/

theorem advance_evEn (s : State) (dt : Nat) : evEn (advance s dt).dev = evEn s.dev := by
  rw [advance_eq]
  have hdev := congrArg Machine.evEn (s.dev.after_frame dt)
  exact hdev

/-- A sub-channel whose spare clock pair has taken over. -/
def SubCh.onSpareClock (y : SubCh) : SubCh := { y with clkSp := true }

/-- The spare pair takes over within 500 ns, and the repair enters the defect map. -/
theorem clockPairFailure_spares (s : State) (p : Fin 512) (u : Fin 4) (hwidth : ((s.slice p).sub u).width ≠ .retired)
    (hpair : ((s.slice p).sub u).clkSp = false) (hev : evEn s.dev = false) :
    ∃ v f t, OnlyCounters (advance s 500) v ∧ exec (.clockPairFailure p u) s = .next t ∧
      Reported { modSub v p u SubCh.onSpareClock with floor := f } t ∧ s.floor.gen < f.gen ∧ .clock p u ∈ f.defects.use := by
  obtain ⟨v, hv, hexec⟩ : ∃ v, OnlyCounters (advance s 500) v ∧ exec (.clockPairFailure p u) s =
      .next (addDefect (genUp (modSub v p u SubCh.onSpareClock)) (.clock (Fin.ofNat 512 p) (Fin.ofNat 4 u))) := by
    let b := bump (advance s 500) (ctrSlice p 24) 1
    refine ⟨if ((s.slice p).sub u).held then b else bump b (ctrSlice p 27) 500, .ite _ (.bump ..) ((OnlyCounters.bump ..).trans (.bump ..)), ?_⟩
    rw [exec_clockPairFailure, execClockPairFailure, isRetired_false s p u hwidth, hpair, if_neg Bool.false_ne_true,
      if_neg Bool.false_ne_true]
    rfl
  have hoff : evEn (genUp (modSub v p u SubCh.onSpareClock)).dev = false := by
    have hdev : v.dev = (advance s 500).dev := by rw [hv]
    exact (congrArg Machine.evEn hdev).trans ((advance_evEn s 500).trans hev)
  have hgen : v.floor.gen = s.floor.gen := by rw [hv, advance_eq]
  have hp : Fin.ofNat 512 p.val = p := Fin.ext (Nat.mod_eq_of_lt p.isLt)
  have hu : Fin.ofNat 4 u.val = u := Fin.ext (Nat.mod_eq_of_lt u.isLt)
  rw [hp, hu] at hexec
  obtain ⟨f, hreport, hle, hmem⟩ := addDefect_enters (genUp (modSub v p u SubCh.onSpareClock)) (.clock p u) hoff
  refine ⟨v, f, _, hv, hexec, hreport, ?_, hmem⟩
  rw [← hgen]
  exact hle

/-- What the failure of a clock pair leaves. -/
theorem clockPairFailure_takesOver (s : State) (p : Fin 512) (u : Fin 4) (hwidth : ((s.slice p).sub u).width ≠ .retired)
    (hpair : ((s.slice p).sub u).clkSp = false) (hev : evEn s.dev = false) :
    ∃ t, exec (.clockPairFailure p u) s = .next t ∧ t.now = s.now + 500 ∧ (t.slice p).sub u = ((s.slice p).sub u).onSpareClock ∧
      s.floor.gen < t.floor.gen ∧ .clock p u ∈ t.floor.defects.use ∧ t.mem = s.mem ∧ t.crofts = s.crofts := by
  obtain ⟨v, f, t, hv, hexec, hreport, hgen, hmem⟩ := clockPairFailure_spares s p u hwidth hpair hev
  have hkept : OnlySlices (advance s 500) v := hv.onlySlices
  rw [advance_eq] at hkept
  have hsub : (v.slice p).sub u = (s.slice p).sub u := by
    rw [hv.slice, advance_eq]
    rfl
  refine ⟨t, hexec, hreport.now.trans hkept.now, ?_, ?_, ?_, hreport.mem.trans hkept.mem, hreport.crofts.trans hkept.crofts⟩
  · rw [hreport.slice]
    exact (modSub_sub v p u _).trans (congrArg SubCh.onSpareClock hsub)
  · rw [hreport.floor]
    exact hgen
  · rw [hreport.floor]
    exact hmem

end Sys2Proof.Machine

/-- Settles O32. An error return is counted and ends in the resent copies, in one more try, or in suspect links (`errorReturn_refused`); a
passed test ends the hold (`linkTestDone_releases`) and a failed link is judged by spare, fold and retirement (`judgeData_judged`); a pass
over wide eyes moves sampling points alone (`recentringPass_counts`); and the repair of a clock pair enters the defect map, whatever a vote
over the map finds (`addDefect_enters`). The order of the bits of a command, and that what a layer refuses is not undone, are log entry 78. -/
theorem linksTested : Obligations.LinksTested := by
  refine ⟨fun s p u cmd word again => ⟨errorReturn_ignored s p u cmd word again, fun hwidth hheld hfails => ?_⟩,
    fun s p u => ⟨fun hheld failed => ?_, fun hheld hresend hq hev => ?_⟩, fun y l _ hin hgood => ?_,
    fun s p u eyes => ⟨recentringPass_skipped s p u eyes, fun hwidth hmig hheld => ?_, fun hwidth hmig hheld hwide => ?_, movePoint_near⟩,
    fun s p u => ⟨fun n hheld hwidth hmig => ?_, fun hwidth hpair hev => ?_⟩⟩
  · refine ⟨?_, fun hnone => ?_, fun r hone => ?_, fun htries => ?_, fun htries hnew => ?_⟩
    · rw [errorReturn_refused s p u cmd word false hwidth hheld hfails, if_pos rfl]
      rfl
    · exact storeResent_none (returnCounted s p u) p u hnone
    · exact storeResent_one (returnCounted s p u) p u r hone
    · rw [errorReturn_refused s p u cmd word true hwidth hheld hfails, if_neg Bool.false_ne_true.symm, if_pos (by omega)]
      rfl
    · obtain ⟨t, hexec, hframe, hsub⟩ := errorReturn_suspects s p u cmd word hwidth hheld hfails htries hnew
      refine ⟨t, hexec, ?_⟩
      rw [hsub]
      exact ⟨rfl, if_neg (Bool.eq_false_iff.1 hheld), rfl, SubCh.mem_suspecting _ _ _, hframe⟩
  · exact congrArg Host.Outcome.next (if_neg (Bool.eq_false_iff.1 hheld))
  · obtain ⟨t, hexec, hframe, hsub⟩ := linkTestDone_releases s p u hheld hresend hq hev
    rw [notBefore_eq] at hframe
    refine ⟨t, hexec, hframe.now, ?_, hframe.mem, hframe.crofts, hframe.floor⟩
    rw [hsub, SubCh.passed_eq _ hresend]
  · refine ⟨fun hfree => ?_, fun hused hfull hbad => ?_, fun hused hfolded => ?_⟩
    · rw [judgeData_spare _ l rfl hin hgood hfree]
      exact ⟨rfl, rfl, rfl, rfl⟩
    · rw [judgeData_fold _ l rfl hin hgood hused hfull (by rw [hbad]; rfl)]
      exact ⟨rfl, rfl, rfl⟩
    · rw [judgeData_giveUp _ l rfl hin hgood hused hfolded]
      rfl
  · exact recentringPass_held s p u eyes _ hwidth hmig hheld rfl
  · exact recentringPass_counts s p u eyes _ _ hwidth hmig hheld hwide rfl rfl
  · exact idleBeatInsert_counts s p u n hwidth hheld hmig
  · exact clockPairFailure_takesOver s p u hwidth hpair hev
end

section
/-! Arming and disarming of lock-step (R296, R302, R307): the records of R300 that a partition starts with, and the end of the pairing. -/

open Sys2Proof Sys2Proof.Machine

namespace Sys2Proof.Machine

/-! ### The records of R300 -/

/-- Nothing is noted as written, or sent, by a croft since its last hash point (R300). -/
def RecordsEmpty (s : State) (p : Nat) : Prop := (s.croft p).dirty = [] ∧ (s.croft p).remote = []

/-- A croft whose records are empty. -/
def Croft.unrecorded (x : Croft) : Croft := { x with dirty := [], remote := [] }

/-- The records of a croft are emptied. -/
def emptyRecords (s : State) (p : Nat) : State := modCroft s p Croft.unrecorded

/-- The records of a croft are emptied where they are not empty. -/
def emptyRecordsIf (s : State) (p : Nat) : State :=
  if (s.croft p).dirty = [] ∧ (s.croft p).remote = [] then s else emptyRecords s p

theorem emptyRecords_self (s : State) (p : Nat) : RecordsEmpty (emptyRecords s p) p := by
  rw [RecordsEmpty, emptyRecords, modCroft, setCroft_croft_self]
  exact ⟨rfl, rfl⟩

theorem RecordsEmpty.emptyRecords {s : State} {q : Nat} (h : RecordsEmpty s q) (p : Nat) : RecordsEmpty (emptyRecords s p) q := by
  by_cases hq : q = p
  · subst hq
    exact emptyRecords_self s q
  · rw [RecordsEmpty, Machine.emptyRecords, modCroft, setCroft_croft_ne _ _ _ _ hq]
    exact h

theorem emptyRecordsIf_self (s : State) (p : Nat) : RecordsEmpty (emptyRecordsIf s p) p := by
  unfold emptyRecordsIf
  split
  · assumption
  · exact emptyRecords_self s p

theorem RecordsEmpty.emptyRecordsIf {s : State} {q : Nat} (h : RecordsEmpty s q) (p : Nat) : RecordsEmpty (emptyRecordsIf s p) q := by
  unfold Machine.emptyRecordsIf
  split
  · exact h
  · exact h.emptyRecords p

theorem emptyRecords_frame (s : State) (p : Nat) : RoundFrame s (emptyRecords s p) := modCroft_frame s p _

theorem emptyRecordsIf_frame (s : State) (p : Nat) : RoundFrame s (emptyRecordsIf s p) := by
  unfold emptyRecordsIf
  split
  · exact .refl s
  · exact emptyRecords_frame s p

theorem RoundFrame.twin {s t : State} (h : RoundFrame s t) : t.twin = s.twin := by rw [h]

/-! ### Lock-step ends, and a hold at a hash point (R302, R307) -/

/-- What lock-step leaves of the twin side when it ends. -/
def Twin.disarmed (t : Twin) : Twin := { Twin.reset with linkUp := t.linkUp, record := t.record, buffer := t.buffer }

theorem disarm_unheld (s : State) (h : s.twin.heldAt = none) : disarm s = { s with twin := s.twin.disarmed } := by
  simp only [disarm, h, Twin.disarmed]

theorem disarm_held (s : State) (j t0 : Nat) (h : s.twin.heldAt = some (j, t0)) :
    disarm s = { bump s (ctrSquare 14) (s.now - t0) with twin := s.twin.disarmed } := by
  simp only [disarm, endHashHold, h, if_true]
  rfl

/-- Lock-step ends on the twin side alone, but for the counter of the time held. -/
theorem disarm_eq (s : State) : disarm s = { s with twin := s.twin.disarmed, ctr := (disarm s).ctr } := by
  cases h : s.twin.heldAt with
  | none => rw [disarm_unheld s h]
  | some x =>
    rw [disarm_held s x.1 x.2 h]
    rfl

/-- The end of a hold changes when the pair was held, and the counter of that time. -/
theorem endHashHold_eq (s : State) (k : Nat) :
    endHashHold s k = { s with twin := { s.twin with heldAt := (endHashHold s k).twin.heldAt }, ctr := (endHashHold s k).ctr } := by
  unfold endHashHold
  split
  · split <;> rfl
  · rfl

theorem endHashHold_ctr_ne (s : State) (k j : Nat) (h : j ≠ ctrSquare 14) :
    tget zeroN (endHashHold s k).ctr j = tget zeroN s.ctr j := by
  unfold endHashHold
  split
  · split
    · exact bump_ctr_ne _ _ _ _ h
    · rfl
  · rfl

/-! ### Which partitions can be armed (R296) -/

theorem armBarred_iff (s : State) (k : Nat) : armBarred s k = true ↔
    pentRelaxed (s.pent k) = true ∨ admitted s k ≠ [] ∨ s.twin.linkUp = false ∨
      ∃ j, s.twin.armed = some j ∧ (j ≠ k ∨ s.twin.blocked = false) := by
  cases harmed : s.twin.armed with
  | none => simp [armBarred, harmed, or_assoc]
  | some j => simp [armBarred, harmed, or_assoc]

/-- A partition that is not relaxed and has no request can be armed over a link while no partition is. -/
theorem armBarred_free (s : State) (k : Nat) (hrelaxed : pentRelaxed (s.pent k) = false) (hidle : admitted s k = [])
    (hlink : s.twin.linkUp = true) (harmed : s.twin.armed = none) : armBarred s k = false := by
  simp only [armBarred, hrelaxed, hidle, hlink, harmed, List.isEmpty_nil, Option.isSome_none, Bool.not_true, Bool.or_false, Bool.false_and]

/-! ### LOCKSTEP_ARM and LOCKSTEP_DISARM (R296) -/

section
variable (s : State) (cid : Nat) (c : Cmd)

theorem lockstepArm_refused (hturn : deviceTurn s cid 0x0901 = some c) (hclean : (tget ptabReset s.ptab (pktPart c.pkt)).clean = true)
    (hbar : armBarred s (pktPart c.pkt) = true ∨ s.twin.arming.isSome = true) :
    exec (.lockstepArm cid) s = .next (finish s cid stLockState 0) := by
  rw [exec_lockstepArm, execLockstepArm, hturn]
  dsimp only
  rw [votePart_clean s _ hclean, if_pos (Bool.or_eq_true_iff.2 hbar)]

/-- The command waits for the ARM of the twin. -/
def awaitTwin (k : Nat) : State :=
  modCmd { s with twin := { s.twin with arming := some (cid, k, s.now) } } cid fun c => { c with stage := .begun }

theorem lockstepArm_waits (hturn : deviceTurn s cid 0x0901 = some c) (hclean : (tget ptabReset s.ptab (pktPart c.pkt)).clean = true)
    (hbar : armBarred s (pktPart c.pkt) = false) (harming : s.twin.arming = none) (hlevel : s.twin.level = none) :
    exec (.lockstepArm cid) s = .next (awaitTwin (sendTwin s 1 0 [levelOf s (pktPart c.pkt)]) cid (pktPart c.pkt)) := by
  have hnone : twinLevel (sendTwin s 1 0 [levelOf s (pktPart c.pkt)]) = none := by
    rw [twinLevel, sendTwin, emit_twin, hlevel]
  have hmay : ¬(armBarred s (pktPart c.pkt) || s.twin.arming.isSome) = true := by
    rw [hbar, harming]
    exact Bool.false_ne_true
  rw [exec_lockstepArm, execLockstepArm, hturn]
  dsimp only
  rw [votePart_clean s _ hclean, if_neg hmay, hnone]
  rfl

theorem lockstepDisarm_disarms (hturn : deviceTurn s cid 0x0902 = some c) (harmed : s.twin.armed = some (pktPart c.pkt)) :
    exec (.lockstepDisarm cid) s = .next (finish (disarm (sendTwin s 8 0 [])) cid 0 0) := by
  rw [exec_lockstepDisarm, execLockstepDisarm, hturn]
  exact congrArg Host.Outcome.next (if_pos harmed)

end

/-! ### ARM_TIMEOUT and TWIN_ARM (R296) -/

theorem partSlices_disarm (s : State) (k : Nat) : partSlices (disarm s) k = partSlices s k := by
  rw [disarm_eq]
  rfl

theorem computeOf_disarm (s : State) (k : Nat) : computeOf (disarm s) k = computeOf s k := by
  rw [disarm_eq]
  rfl

/-- The machine in which a partition is armed, before the records are emptied. -/
def pairFromZero (s : State) (k : Nat) : State := { disarm s with twin := { (disarm s).twin with armed := some k } }

theorem armNow_eq (s : State) (k : Nat) :
    armNow s k = (partSlices s k ++ (List.range 512).filterMap (computeOf s k)).foldl emptyRecordsIf (pairFromZero s k) := by
  rw [← partSlices_disarm, ← computeOf_disarm]
  rfl

theorem armNow_frame (s : State) (k : Nat) : RoundFrame (pairFromZero s k) (armNow s k) := by
  rw [armNow_eq]
  exact .foldl emptyRecordsIf_frame _ _

theorem armNow_twin (s : State) (k : Nat) : (armNow s k).twin = { s.twin.disarmed with armed := some k } := by
  rw [(armNow_frame s k).twin, pairFromZero, disarm_eq]

theorem armNow_mem (s : State) (k : Nat) : (armNow s k).mem = s.mem := by
  rw [(armNow_frame s k).mem, pairFromZero, disarm_eq]

theorem armNow_ls (s : State) (k : Nat) : (armNow s k).ls = s.ls := by
  rw [(armNow_frame s k).ls, pairFromZero, disarm_eq]

/-- The crofts of an armed partition start with empty records. -/
theorem armNow_recordsEmpty (s : State) (k i p : Nat) (hp : computeOf s k i = some p) (hi : i < 512) : RecordsEmpty (armNow s k) p := by
  rw [armNow_eq]
  have hmem : p ∈ (List.range 512).filterMap (computeOf s k) := List.mem_filterMap.2 ⟨i, List.mem_range.2 hi, hp⟩
  exact foldl_establishes _ RecordsEmpty emptyRecordsIf_self (fun _ a _ h => h.emptyRecordsIf a) _ _ p (List.mem_append_right _ hmem)

section
variable (s : State) (cid k t0 : Nat) (level : BitVec 64) (harming : s.twin.arming = some (cid, k, t0))
include harming

theorem armTimeout_fails : exec .armTimeout s = .next (finish
    { notBefore s (t0 + 1000000000) with twin := { (notBefore s (t0 + 1000000000)).twin with arming := none } } cid stLockState 0) := by
  rw [exec_armTimeout, execArmTimeout, harming]

theorem twinArm_late (hlate : t0 + 1000000000 < s.now) : exec (.twinArm level) s = .next
    (finish { s with twin := { s.twin with arming := none, level := some (level, s.now) } } cid stLockState 0) := by
  rw [exec_twinArm, execTwinArm, harming]
  exact congrArg Host.Outcome.next (if_pos hlate)

theorem twinArm_meets (hnow : s.now ≤ t0 + 1000000000) : exec (.twinArm level) s = .next (meetTwin s cid k level) := by
  rw [exec_twinArm, execTwinArm, harming]
  exact congrArg Host.Outcome.next (if_neg (Nat.not_lt_of_le hnow))

theorem twinArm_arms (hnow : s.now ≤ t0 + 1000000000) (hbar : armBarred s k = false) :
    exec (.twinArm (levelOf s k)) s = .next (finish (armNow s k) cid 0 0) :=
  (twinArm_meets s cid k t0 _ harming hnow).trans (congrArg Host.Outcome.next (if_pos ⟨rfl, hbar⟩))

theorem twinArm_fails (hnow : s.now ≤ t0 + 1000000000) (h : level ≠ levelOf s k ∨ armBarred s k = true) :
    exec (.twinArm level) s = .next (finish { s with twin := { s.twin with arming := none, level := none } } cid stLockState 0) := by
  have hnot : ¬(level = levelOf s k ∧ armBarred s k = false) := fun ⟨hlevel, hbar⟩ =>
    h.elim (fun hne => hne hlevel) fun htrue => Bool.false_ne_true (hbar.symm.trans htrue)
  exact (twinArm_meets s cid k t0 level harming hnow).trans (congrArg Host.Outcome.next (if_neg hnot))

end

end Sys2Proof.Machine

/-- Settles O34. The conditions of R296 are those of `armBarred_iff`; with them kept and equal levels the partition is armed, pairing from 0
(`armNow_twin`) with empty records (`armNow_recordsEmpty`). That a late ARM of the twin stays as its request is near log entry 22. -/
theorem lockstepArms : Obligations.LockstepArms := by
  refine ⟨fun s cid c => ⟨fun hturn hclean => ⟨fun hbar => ?_, fun hrelaxed hidle hlink harming harmed hlevel => ?_⟩,
    lockstepDisarm_disarms s cid c⟩, fun s cid k t0 harming => ⟨armTimeout_fails s cid k t0 harming, fun hnow hbar => ?_,
    fun level hnow => twinArm_fails s cid k t0 level harming hnow, fun level => twinArm_late s cid k t0 level harming⟩⟩
  · refine lockstepArm_refused s cid c hturn hclean ?_
    rw [armBarred_iff]
    rcases hbar with hlink | hrelaxed | hidle | harming | harmed
    · exact .inl (.inr (.inr (.inl hlink)))
    · exact .inl (.inl hrelaxed)
    · exact .inl (.inr (.inl hidle))
    · exact .inr harming
    · exact .inl (.inr (.inr (.inr harmed)))
  · have hbar := armBarred_free s (pktPart c.pkt) hrelaxed hidle hlink harmed
    exact ⟨_, lockstepArm_waits s cid c hturn hclean hbar harming hlevel, rfl, harmed, rfl, rfl, rfl, rfl⟩
  · exact ⟨armNow s k, twinArm_arms s cid k t0 harming hnow hbar, congrArg Twin.armed (armNow_twin s k),
      congrArg Twin.nextK (armNow_twin s k), congrArg Twin.cmds (armNow_twin s k), congrArg Twin.hashes (armNow_twin s k),
      congrArg Twin.arming (armNow_twin s k), armNow_recordsEmpty s k, armNow_mem s k, armNow_ls s k⟩
end

section
/-! The comparison of the twins (R297 to R302, R304): opcodes, hashes of a point, completion fields and terms. -/

open Sys2Proof Sys2Proof.Machine

namespace Sys2Proof.Machine

/-! ### Messages while no partition is armed -/

theorem twinCmd_unarmed (s : State) (k : BitVec 32) (o : BitVec 64) (h : s.twin.armed = none) : exec (.twinCmd k o) s = .next s := by
  rw [exec_twinCmd, execTwinCmd, h]
  rfl

theorem hashset_unarmed (s : State) (k pt : BitVec 32) (hs : List (BitVec 64)) (h : s.twin.armed = none) :
    exec (.hashset k pt hs) s = .next s := by rw [exec_hashset, execHashset, h]

theorem crec_unarmed (s : State) (k : BitVec 32) (f : BitVec 128) (h : s.twin.armed = none) : exec (.crec k f) s = .next s := by
  rw [exec_crec, execCrec, h]

theorem twinFail_unarmed (s : State) (k : BitVec 32) (st : BitVec 64) (h : s.twin.armed = none) : exec (.twinFail k st) s = .next s := by
  rw [exec_twinFail, execTwinFail, h]
  rfl

theorem terms_unarmed (s : State) (k : BitVec 32) (ts : List (BitVec 64 × BitVec 64)) (h : s.twin.armed = none) :
    exec (.terms k ts) s = .next s := by rw [exec_terms, execTerms, h]

/-! ### Opcodes (R297) -/

/-- The opcode of the twin's command is kept. -/
def theirCmdIn (s : State) (k : BitVec 32) (o : BitVec 64) : State :=
  { s with twin := { s.twin with theirCmd := s.twin.theirCmd ++ [(k.toNat, o.extractLsb' 0 16)] } }

/-- TWIN_CMD of a command that is admitted here keeps the twin's opcode and compares it. -/
theorem twinCmd_compares (s : State) (k : BitVec 32) (o : BitVec 64) (part cid : Nat) (op : BitVec 16) (harmed : s.twin.armed = some part)
    (hcmd : s.twin.cmds.find? (fun x => x.1 == k.toNat) = some (k.toNat, cid, op)) : exec (.twinCmd k o) s =
      .next (if op = o.extractLsb' 0 16 then theirCmdIn s k o else divergeAt (theirCmdIn s k o) k.toNat 4) := by
  rw [exec_twinCmd, execTwinCmd, harmed]
  dsimp only [Option.isNone_some]
  rw [if_neg Bool.false_ne_true, hcmd]
  rfl

/-! ### Hashes of a point (R299 to R302) -/

theorem hashesOf_append_new (l : List (Nat × BitVec 32 × List (BitVec 64))) (k : Nat) (pt : BitVec 32) (hs : List (BitVec 64))
    (h : hashesOf l k pt = none) : hashesOf (l ++ [(k, pt, hs)]) k pt = some hs := by
  have hnone : l.find? (fun x => x.1 == k && x.2.1 == pt) = none := Option.map_eq_none_iff.1 h
  simp [hashesOf, List.find?_append, hnone]

/-- The twin's hashes of a point are in. -/
def theirHashesIn (s : State) (k pt : BitVec 32) (hs : List (BitVec 64)) : State :=
  { s with twin := { s.twin with theirs := s.twin.theirs ++ [(k.toNat, pt, hs)] } }

theorem hashset_compares (s : State) (k pt : BitVec 32) (hs : List (BitVec 64)) (part e : Nat) (harmed : s.twin.armed = some part)
    (hslot : slotOfPair s part k.toNat = some e) (hfirst : hashesOf s.twin.theirs k.toNat pt = none) :
    exec (.hashset k pt hs) s = .next (compareAt (theirHashesIn s k pt hs) part e k.toNat pt) := by
  have hslot' : slotOfPair (theirHashesIn s k pt hs) part k.toNat = some e := hslot
  rw [theirHashesIn] at hslot'
  rw [exec_hashset, execHashset, harmed]
  dsimp only
  rw [hslot', hfirst]
  rfl

/-- A compared pair is counted, and neither the wait nor the hold at the point goes on. -/
def pairAgreed (s : State) (k : Nat) : State :=
  endHashHold { bump s (ctrSquare 13) 1 with twin := { s.twin with waiting := none } } k

theorem pairAgreed_eq (s : State) (k : Nat) : pairAgreed s k =
    { s with
      twin := { s.twin with waiting := none, heldAt := (pairAgreed s k).twin.heldAt }
      ctr := (pairAgreed s k).ctr } := endHashHold_eq _ k

theorem pairAgreed_counts (s : State) (k : Nat) :
    tget zeroN (pairAgreed s k).ctr (ctrSquare 13) = tget zeroN s.ctr (ctrSquare 13) + 1 :=
  (endHashHold_ctr_ne _ k _ (by decide)).trans (bump_ctr_self s _ 1)

/-- With both sets of a point in and no search on, equal hashes empty the records of the request's crofts; unequal ones hold the partition,
and the search starts at the lowest croft that differs. -/
theorem compareAt_judges (s : State) (part e k : Nat) (pt : BitVec 32) (ours theirs : List (BitVec 64))
    (hours : hashesOf s.twin.hashes k pt = some ours) (htheirs : hashesOf s.twin.theirs k pt = some theirs)
    (hprobing : s.twin.probing = none) :
    compareAt s part e k pt = if ours = theirs then ((slotCtxs s part e).map (·.p.val)).foldl emptyRecords (pairAgreed s k)
      else askTerms { bump s (ctrSquare 13) 1 with twin := { s.twin with blocked := true } }
        ⟨k, pt, e, lowestDiff ours theirs, 0, 0⟩ := by
  have hctxs : slotCtxs (pairAgreed s k) part e = slotCtxs s part e := by
    rw [pairAgreed_eq]
    rfl
  rw [compareAt, hours, htheirs, List.foldl_map, ← hctxs]
  dsimp only
  rw [hprobing]
  exact if_neg Bool.false_ne_true

/-- What a comparison of equal hashes leaves. -/
theorem agreement_leaves (s : State) (k : Nat) (ps : List Nat) :
    let t := ps.foldl emptyRecords (pairAgreed s k)
    t.twin.waiting = none ∧ t.twin.blocked = s.twin.blocked ∧
      tget zeroN t.ctr (ctrSquare 13) = tget zeroN s.ctr (ctrSquare 13) + 1 ∧ (∀ p ∈ ps, RecordsEmpty t p) ∧
      t.mem = s.mem ∧ t.ls = s.ls := by
  have hframe : RoundFrame (pairAgreed s k) (ps.foldl emptyRecords (pairAgreed s k)) := .foldl emptyRecords_frame _ _
  refine ⟨?_, ?_, ?_, foldl_establishes _ RecordsEmpty emptyRecords_self (fun _ a _ h => h.emptyRecords a) _ _, ?_, ?_⟩
  · rw [hframe.twin, pairAgreed_eq]
  · rw [hframe.twin, pairAgreed_eq]
  · exact (foldl_ctr emptyRecords _ ps (fun _ _ _ => rfl) _).trans (pairAgreed_counts s k)
  · rw [hframe.mem, pairAgreed_eq]
  · rw [hframe.ls, pairAgreed_eq]

/-! ### Completion fields (R301) -/

/-- The twin's completion fields are kept. -/
def theirRecIn (s : State) (k : BitVec 32) (f : BitVec 128) : State :=
  { s with twin := { s.twin with theirRec := s.twin.theirRec ++ [(k.toNat, f)] } }

@[simp] theorem theirRecIn_ourCrec (s : State) (k : BitVec 32) (f : BitVec 128) (n : Nat) :
    ourCrec (theirRecIn s k f) n = ourCrec s n := rfl

theorem crec_early (s : State) (k : BitVec 32) (f : BitVec 128) (part : Nat) (harmed : s.twin.armed = some part)
    (hours : ourCrec s k.toNat = none) : exec (.crec k f) s = .next (theirRecIn s k f) := by
  rw [← theirRecIn_ourCrec s k f, theirRecIn] at hours
  rw [exec_crec, execCrec, harmed]
  dsimp only
  rw [hours]
  rfl

theorem crec_differs (s : State) (k : BitVec 32) (f ours : BitVec 128) (part : Nat) (harmed : s.twin.armed = some part)
    (hours : ourCrec s k.toNat = some ours) (hne : ours ≠ f) :
    exec (.crec k f) s = .next (divergeAt (theirRecIn s k f) k.toNat 3) := by
  rw [← theirRecIn_ourCrec s k f, theirRecIn] at hours
  rw [exec_crec, execCrec, harmed]
  dsimp only
  rw [hours]
  exact congrArg Host.Outcome.next (if_pos hne)

/-! ### Terms (R302) -/

/-- The first term that differs ends the search. -/
theorem terms_differ (s : State) (k : BitVec 32) (part : Nat) (q : Probing) (c : CtxId) (ts : List (BitVec 64 × BitVec 64)) (i : Nat)
    (harmed : s.twin.armed = some part) (hprobing : s.twin.probing = some q) (hk : q.k = k.toNat)
    (hctx : pairedCtx s part q.k q.lc = some c)
    (hdiff : firstDiff (inRange (termsOf s c q.kind) q.lo lastIndex) (ts.map fun t => (t.1.toNat, t.2)) = some i) :
    exec (.terms k ts) s = .next (diverge s q.k q.kind
      (termFields s c q i (inRange (termsOf s c q.kind) q.lo lastIndex) (ts.map fun t => (t.1.toNat, t.2)))) := by
  rw [exec_terms, execTerms, harmed, hprobing]
  dsimp only
  rw [if_neg (not_not_intro hk), hctx]
  dsimp only
  rw [hdiff]

end Sys2Proof.Machine

/-- Settles O35. A set of hashes of a point comes to `compareAt`: equal hashes end the wait and empty the records (`agreement_leaves`),
a difference holds the partition and starts the search (`compareAt_judges`). -/
theorem twinsCompare : Obligations.TwinsCompare := by
  refine ⟨fun s k => ⟨fun h o st pt hs f ts => ⟨twinCmd_unarmed s k o h, hashset_unarmed s k pt hs h, crec_unarmed s k f h,
      twinFail_unarmed s k st h, terms_unarmed s k ts h⟩, fun part cid op o harmed hcmd => ⟨fun hop => ?_, fun hop => ?_⟩⟩,
    fun s k pt hs ours part e harmed hslot hprobing hours hfirst => ?_, fun s k part harmed => ⟨fun f =>
      ⟨crec_early s k f part harmed, fun ours => crec_differs s k f ours part harmed⟩,
      fun q c ts i => terms_differ s k part q c ts i harmed⟩⟩
  · exact (twinCmd_compares s k o part cid op harmed hcmd).trans (congrArg Host.Outcome.next (if_pos hop))
  · exact (twinCmd_compares s k o part cid op harmed hcmd).trans (congrArg Host.Outcome.next (if_neg hop))
  · have hexec := hashset_compares s k pt hs part e harmed hslot hfirst
    have htheirs := hashesOf_append_new s.twin.theirs k.toNat pt hs hfirst
    rw [compareAt_judges (theirHashesIn s k pt hs) part e k.toNat pt ours hs hours htheirs hprobing] at hexec
    refine ⟨fun heq => ?_, fun hne => ?_⟩
    · rw [if_pos heq.symm] at hexec
      obtain ⟨hwaiting, hblocked, hcount, hempty, hmem, hls⟩ := agreement_leaves (theirHashesIn s k pt hs) k.toNat
        ((slotCtxs (theirHashesIn s k pt hs) part e).map (·.p.val))
      exact ⟨_, hexec, hwaiting, hblocked, hcount, fun c hc => hempty _ (List.mem_map_of_mem hc), hmem, hls⟩
    · rw [if_neg (Ne.symm hne)] at hexec
      exact ⟨_, _, hexec, rfl, rfl, rfl, rfl, rfl, rfl⟩
end

section
/-! What ends a pair or lock-step from outside (R302, R304, R305, R307), and the twin link (R301, R485). -/

open Sys2Proof Sys2Proof.Machine

namespace Sys2Proof.Machine

/-! ### TWIN_FAIL (R304) -/

theorem failPaired_unpaired (s : State) (k status detail : Nat) (h : pairCmd s k = none) : failPaired s k status detail = s := by
  rw [failPaired, h]

theorem failPaired_paired (s : State) (k status detail cid : Nat) (h : pairCmd s k = some cid) :
    failPaired s k status detail = (endCommand s cid status detail (decide (status = stAborted))).2 := by rw [failPaired, h]

/-- The paired command fails with TWIN_FAILED, or is aborted where the twin's was. -/
theorem twinFail_paired (s : State) (k : BitVec 32) (st : BitVec 64) (part cid : Nat) (harmed : s.twin.armed = some part)
    (hpair : pairCmd s k.toNat = some cid) : exec (.twinFail k st) s = .next (failPaired (bump s (ctrSquare 17) 1) k.toNat
      (if st = 1 then stAborted else stTwinFailed) (if st = 1 then 0 else st.toNat)) := by
  rw [exec_twinFail, execTwinFail, harmed]
  dsimp only [Option.isNone_some]
  rw [if_neg Bool.false_ne_true, hpair]
  by_cases hst : st = 1
  · simp only [if_pos hst]
  · simp only [if_neg hst]

theorem twinFail_early (s : State) (k : BitVec 32) (st : BitVec 64) (part : Nat) (harmed : s.twin.armed = some part)
    (hpair : pairCmd s k.toNat = none) (hnext : s.twin.nextK ≤ k.toNat) : exec (.twinFail k st) s =
      .next { s with twin := { s.twin with theirFail := s.twin.theirFail ++ [(k.toNat, st)] } } := by
  rw [exec_twinFail, execTwinFail, harmed]
  dsimp only [Option.isNone_some]
  rw [if_neg Bool.false_ne_true, hpair]
  exact congrArg Host.Outcome.next (if_pos hnext)

/-! ### PROBE (R302) -/

theorem termsOfPair_paired (s : State) (part k lc kind : Nat) (c : CtxId) (h : pairedCtx s part k lc = some c) :
    termsOfPair s part k lc kind = termsOf s c kind := by rw [termsOfPair, h]

theorem probe_answers (s : State) (k : BitVec 32) (lc : BitVec 16) (kind : BitVec 8) (lo hi : BitVec 52) (part : Nat) (c : CtxId)
    (harmed : s.twin.armed = some part) (hctx : pairedCtx s part k.toNat lc.toNat = some c) : exec (.probe k lc kind lo hi) s =
      .next (sendTwin s 7 k.toNat ((inRange (termsOf s c kind.toNat) lo.toNat hi.toNat).flatMap fun x =>
        [BitVec.ofNat 64 x.1, x.2])) := by
  rw [exec_probe, execProbe, harmed]
  dsimp only
  rw [termsOfPair_paired s part _ _ _ c hctx]

/-! ### TWIN_DISARM (R302, R307) -/

theorem twinDisarm_armed (s : State) (part : Nat) (harmed : s.twin.armed = some part) : exec .twinDisarm s = .next (disarm s) := by
  rw [exec_twinDisarm, execTwinDisarm, harmed]
  rfl

/-- What the end of lock-step leaves, with the time of a hold at a hash point. -/
theorem disarm_leaves (s : State) :
    (disarm s).twin.armed = none ∧ (disarm s).twin.record = s.twin.record ∧ (s.twin.heldAt = none → (disarm s).ctr = s.ctr) ∧
      (∀ j t0, s.twin.heldAt = some (j, t0) →
        tget zeroN (disarm s).ctr (ctrSquare 14) = tget zeroN s.ctr (ctrSquare 14) + (s.now - t0)) ∧
      { disarm s with twin := s.twin, ctr := s.ctr } = s := by
  refine ⟨?_, ?_, fun hnone => ?_, fun j t0 hheld => ?_, ?_⟩
  · rw [disarm_eq]
    rfl
  · rw [disarm_eq]
    rfl
  · rw [disarm_unheld s hnone]
  · rw [disarm_held s j t0 hheld]
    exact bump_ctr_self s _ _
  · rw [disarm_eq]

/-! ### TWIN_MESSAGE_TIMEOUT (R305) -/

/-- Lock-step is lost: the partition is disarmed and TWIN_LOST raised. -/
def twinLost (s : State) (part : Nat) : State := raise (bump (disarm s) (ctrSquare 18) 1) 0x000A 2 [(16, 1, part)]

theorem twinMessageTimeout_loses (s : State) (part k t0 : Nat) (harmed : s.twin.armed = some part) (hwait : s.twin.waiting = some (k, t0)) :
    exec .twinMessageTimeout s = .next (twinLost (failPaired (notBefore s (t0 + 10000000)) k stLockLost 0) part) := by
  rw [exec_twinMessageTimeout, execTwinMessageTimeout, harmed, hwait]
  rfl

theorem notBefore_pairCmd (s : State) (n k : Nat) : pairCmd (notBefore s n) k = pairCmd s k := by
  rw [notBefore_eq]
  rfl

/-! ### The twin link (R301, R485) -/

/-- Messages to the twin have been sent again, in their order. -/
def resent (s : State) (l : List (List Byte)) : State :=
  { s with link := { s.link with out := (l.reverse.map fun m => .twin m) ++ s.link.out } }

theorem foldl_emit_twin (l : List (List Byte)) (s : State) : l.foldl (fun s m => emit s (.twin m)) s = resent s l := by
  induction l generalizing s with
  | nil => rfl
  | cons m l ih =>
    rw [List.foldl_cons, ih, resent, resent, List.reverse_cons, List.map_append, List.append_assoc]
    rfl

/-- TWIN_MESSAGE_CRC_FAIL of `n` messages that are kept sends them again. -/
theorem twinMessageCrcFail_resends (s : State) (n : Nat) (hn : n ≤ s.twin.buffer.length) : exec (.twinMessageCrcFail n) s =
    .next (bump (resent s (s.twin.buffer.drop (s.twin.buffer.length - n))) (ctrSquare 15) n) := by
  have hlen : (s.twin.buffer.drop (s.twin.buffer.length - n)).length = n := by
    rw [List.length_drop, Nat.sub_sub_self hn]
  rw [exec_twinMessageCrcFail, execTwinMessageCrcFail, foldl_emit_twin, hlen]

theorem twinLinkTrain_trains (s : State) (h : s.boot.rails = true) :
    exec .twinLinkTrain s = .next (bump { s with twin := { s.twin with linkUp := true } } (ctrSquare 61) 1) :=
  congrArg Host.Outcome.next (if_pos h)

/-- The loss of lock is reported at once where no partition is armed. -/
theorem twinLinkDown_falls (s : State) (lanes : BitVec 4) (h : s.twin.linkUp = true) : exec (.twinLinkDown lanes) s =
    .next (if s.twin.armed.isSome then { s with twin := { s.twin with linkUp := false } }
      else raise { s with twin := { s.twin with linkUp := false } } 0x0406 0 [(16, 1, lanes.toNat)]) :=
  congrArg Host.Outcome.next (if_pos h)

end Sys2Proof.Machine

/-- Settles O36. A failure ends the paired command (`twinFail_paired`), a silence of 10 ms lock-step as well
(`twinMessageTimeout_loses`), and the twin's notice lock-step alone (`disarm_leaves`). That a FAIL which comes first is kept is log entry
22, the layout of TERMS entry 14. -/
theorem twinsFail : Obligations.TwinsFail := by
  refine ⟨fun s k part harmed => ⟨fun cid st hpair => twinFail_paired s k st part cid harmed hpair,
      fun st => twinFail_early s k st part harmed,
      fun lc kind lo hi c hctx => ⟨_, probe_answers s k lc kind lo hi part c harmed hctx, rfl, rfl⟩,
      disarm s, twinDisarm_armed s part harmed, disarm_leaves s⟩,
    fun s part k t0 harmed hwait => ⟨fun hnone => ?_, fun cid hpair => ?_, fun n hn =>
      ⟨_, twinMessageCrcFail_resends s n hn, rfl, bump_ctr_self _ _ n, rfl⟩⟩,
    fun s => ⟨twinLinkTrain_trains s, fun lanes hup => ⟨fun hnone => ?_, fun harmed => ?_⟩⟩⟩
  · rw [twinMessageTimeout_loses s part k t0 harmed hwait, failPaired_unpaired _ _ _ _ ((notBefore_pairCmd ..).trans hnone)]
    rfl
  · rw [twinMessageTimeout_loses s part k t0 harmed hwait, failPaired_paired _ _ _ _ cid ((notBefore_pairCmd ..).trans hpair)]
    rfl
  · rw [twinLinkDown_falls s lanes hup, hnone]
    rfl
  · exact (twinLinkDown_falls s lanes hup).trans (congrArg Host.Outcome.next (if_pos harmed))
end
